-- ==== Sys2Proof/Word.lean ====
section
/-! DEFINITION. The storage units of the part (spec/00_scope.md): the 36-bit word, the 18-bit half, the 9-bit nonet
and the 48-bit sealed word that every store of the part holds. -/

namespace Sys2Proof

/-- The native unit: a register, a memory word, a device register (spec/00_scope.md, units of storage). -/
abbrev Word := BitVec 36

/-- The smallest addressable unit (R2). -/
abbrev Nonet := BitVec 9

/-- Two nonets (R2). -/
abbrev Half := BitVec 18

/-- A word with its 12 check bits (R27, R271). -/
abbrev Sealed := BitVec 48

/-- A word address of the 38-bit physical space: the nonet address divided by four (R4, R237). -/
abbrev PWord := Nat

end Sys2Proof
end

