-- ==== Sys2Proof/Syntax.lean ====
section
/-! DEFINITION. The commands of the block: one constructor of `Instr` for each row of spec/opcode_table.json, with the
operands the row's rule reads. The order is the table's. -/

namespace Sys2Proof

/-! ## Operand types -/

/-- The four levels of a thread (R209). -/
inductive Level where
  | u | s | e | m
  deriving DecidableEq, Repr

/-- On whose behalf a store or load reaches a register: level, world, partition and context (R8, R9, R226), and whether the
context has left the slot that made the store (R228). -/
structure Requester where
  level : Level
  secure : Bool
  part : Fin 16
  ctx : Fin 4096
  left : Bool
  deriving DecidableEq, Repr

/-- The fields of an R-format instruction that its function code does not fix (R124). -/
structure RFields where
  rd : BitVec 5
  ra : BitVec 5
  rb : BitVec 5
  x : BitVec 6
  deriving DecidableEq, Repr

/-- The fields of an I-format instruction (R124). -/
structure IFields where
  rd : BitVec 5
  ra : BitVec 5
  imm : BitVec 20
  deriving DecidableEq, Repr

/-- The fields of a B-format instruction (R124). -/
structure BFields where
  ra : BitVec 5
  rb : BitVec 5
  annul : Bool
  hint : Bool
  disp : BitVec 18
  deriving DecidableEq, Repr

/-- The fields of a J-format instruction (R124). -/
structure JFields where
  rd : BitVec 5
  disp : BitVec 25
  deriving DecidableEq, Repr

/-- The fields of an H-format instruction; `rsv` holds the bits the format reserves (R124). -/
structure HFields where
  rd : BitVec 5
  rsv : BitVec 7
  imm : BitVec 18
  deriving DecidableEq, Repr

/-- What an IRIG-B frame carries (R37): whether it decoded, the year when the code has one, day of year, hour, minute,
second, and the IEEE 1344 extension when present: time offset in half hours, quality, leap second pending and its sign. -/
structure IrigExt where
  offsetHalfHours : Int
  quality : Nat
  leapPending : Bool
  leapDelete : Bool
  deriving DecidableEq, Repr

/-- A decoded IRIG-B frame (R36, R37). -/
structure IrigFrame where
  good : Bool
  year : Option Nat
  day : Nat
  hour : Nat
  minute : Nat
  second : Nat
  ext : Option IrigExt
  deriving DecidableEq, Repr

/-- The clocks that a monitor judges, in the order of the PM_CLK bits (R33, R515). -/
inductive Clock where
  | core | dram | ser (port : Fin 4) | pciref | ref
  deriving DecidableEq, Repr

/-! ## Frames (spec/12_network_ports_switch.md, spec/13_process_data_path.md) -/

/-- An IEC 62351-6 extension (R390): the key identifier, the code's kind (1 to 3 HMAC-SHA-256 at 80, 128, 256 bits, 4 and 5
AES-GMAC at 64 and 128 bits), and the code. -/
structure AuthExt where
  keyId : BitVec 32
  kind : Fin 6
  code : Nat
  deriving DecidableEq, Repr

/-- One ASDU of a sampled-value frame (R383): the fields that are read. -/
structure Asdu where
  svId : List (BitVec 8)
  smpCnt : BitVec 16
  confRev : BitVec 32
  smpSynch : BitVec 8
  vals : List (BitVec 32)
  quals : List (BitVec 32)
  deriving DecidableEq, Repr

/-- A UtcTime: seconds, fraction of 2^-24 s, and the time quality octet (R411). -/
structure UtcTime where
  secs : BitVec 32
  frac : BitVec 24
  qual : BitVec 8
  deriving DecidableEq, Repr

/-- A member of a GOOSE data set as it decodes (R401). -/
inductive GooseVal where
  | bool (b : Bool)
  | int (i : Int)
  | uint (n : Nat)
  | bitString (bits : List Bool)
  | float (bits : BitVec 32)
  | utc (t : UtcTime)
  | other
  deriving DecidableEq, Repr

/-- A GOOSE message (R401 to R405): `ttl` is timeAllowedtoLive in ms. -/
structure GooseMsg where
  gocbRef : List (BitVec 8)
  ttl : Nat
  t : UtcTime
  stNum : BitVec 32
  sqNum : BitVec 32
  test : Bool
  simulation : Bool
  confRev : BitVec 32
  ndsCom : Bool
  numEntries : Nat
  members : List GooseVal
  deriving DecidableEq, Repr

/-- What an Announce carries that the slave reads (R371, R372): the grandmaster's data set in the order in which BMCA
compares it, and the UTC offset with its flag. -/
structure Announce where
  priority1 : BitVec 8
  clockClass : BitVec 8
  accuracy : BitVec 8
  variance : BitVec 16
  priority2 : BitVec 8
  grandmaster : BitVec 64
  steps : BitVec 16
  utcOffset : Int
  utcValid : Bool
  deriving DecidableEq, Repr

/-- The bodies of the PTP messages of R368; times in ns, `interval` in ns. -/
inductive PtpBody where
  | sync (twoStep : Bool) (origin interval : Nat)
  | followUp (origin : Nat)
  | pdelayReq
  | pdelayResp (twoStep : Bool) (t2 : Nat)
  | pdelayRespFollowUp (t3 : Nat)
  | announce (a : Announce)
  | other
  deriving DecidableEq, Repr

/-- A PTP message: domain, source port identity, sequence number, correctionField in 2^-16 ns. -/
structure PtpMsg where
  domain : BitVec 8
  source : BitVec 80
  seq : BitVec 16
  corr : Int
  body : PtpBody
  deriving DecidableEq, Repr

/-- A frame's content as the switch and the process-data engine decode it. -/
inductive Payload where
  | sv (appid : BitVec 16) (simulation : Bool) (asdus : List Asdu) (ext : Option AuthExt) (decodes : Bool)
  | goose (appid : BitVec 16) (msg : GooseMsg) (ext : Option AuthExt) (decodes : Bool)
  | ptp (m : PtpMsg)
  | udp (ip : BitVec 32) (port : BitVec 16)
  | arp (request : Bool) (ip : BitVec 32)
  | supervision (node : BitVec 48)
  | other
  deriving DecidableEq, Repr

/-- The redundancy a frame carries (R359, R360): an HSR tag with its PathId, or a PRP trailer with its LanId, sequence number,
and whether the LSDU size matches the frame's length. -/
inductive Redundancy where
  | none
  | hsr (pathId : BitVec 4) (seq : BitVec 16) (sizeOk : Bool)
  | prp (lanB : Bool) (seq : BitVec 16) (sizeOk : Bool)
  deriving DecidableEq, Repr

/-- A frame: `tag` is PCP and VID; `len` its octets after any HSR tag or PRP trailer is removed; `octets` its octets as a
host buffer holds them. -/
structure Frame where
  dst : BitVec 48
  src : BitVec 48
  tag : Option (BitVec 3 × BitVec 12)
  etype : BitVec 16
  red : Redundancy
  len : Nat
  fcsOk : Bool
  payload : Payload
  octets : List (BitVec 8)
  deriving DecidableEq, Repr

/-! ## Dictionary messages (spec/15_dictionary_roles_moraine.md) -/

/-- A transport of the dictionary (R464): UDP by a port, the mailbox of a PCIe function, or that of a partition. -/
inductive Transport where
  | udp (port : Fin 6)
  | pcie (f : Fin 17)
  | mailbox (p : Fin 16)
  deriving DecidableEq, Repr

/-- What a message of an open session carries beside its payload (R465, R467): transport, SID, SEQ, CONF, whether its GCM tag
verifies, and its trailer. -/
structure DxHead where
  tr : Transport
  sid : Fin 16
  seq : BitVec 32
  conf : Bool
  tagOk : Bool
  trailer : BitVec 128
  deriving DecidableEq, Repr

/-! ## PCIe (spec/16_pcie_endpoint.md) -/

/-- The forms of an inbound request that R499 tells apart: a memory request, one whose TLP has EP = 1, one that is malformed, one
that fails its ECRC, and I/O, AtomicOp or a message that is not used. -/
inductive InForm where
  | mem | poisoned | malformed | ecrc | unsupported
  deriving DecidableEq, Repr

/-- Where an inbound request falls: BAR0 or BAR2 of the function, or none of its BARs. -/
inductive Bar where
  | bar0 | bar2 | none
  deriving DecidableEq, Repr

/-! ## The test access port (spec/18_trace_debug.md) -/

/-- Boundary cells: those whose level R541 limits, the rails of the discrete outputs by output and side, and the others. -/
inductive Cell where
  | bypassHold (k : Fin 2)
  | rail (n : Fin 8) (low : Bool)
  | other (n : Nat)
  deriving DecidableEq, Repr

/-! ## The commands -/

/-- One constructor per row of spec/opcode_table.json. -/
inductive Instr where
  -- spec/00_scope.md, spec/01_architecture.md
  /-- REGISTER_WRITE (R4): `hw` marks the W1C bits that hardware sets in the same cycle (R10 to R12). -/
  | registerWrite (req : Requester) (addr : PWord) (value hw : Word)
  /-- RC_READ (R7): `hw` is what hardware sets in the RC fields in the same cycle. -/
  | rcRead (req : Requester) (addr : PWord) (hw : Word)
  /-- CLOCK_MONITOR_WINDOW (R33): the count of the window, its nominal, and more than 1 µs without lock. -/
  | clockMonitorWindow (clk : Clock) (count nominal : Nat) (unlocked : Bool)
  | pllRelock (clk : Clock)
  -- spec/02_angle_timebase.md
  | ppsEdge (rising : Bool)
  | irigBFrame (f : IrigFrame)
  | timeSourceLost (src : Fin 8)
  | holdoverExpiry
  | holdspecExpiry
  | anTbCfgStore (req : Requester) (v : Word)
  | anSetLoStore (req : Requester) (v : Word)
  | anSnapStore
  /-- TIME_HI_READ (R64): of AN_TIME_HI, or of a partition's view page. -/
  | timeHiRead (page : Option (Fin 16))
  | ppsOutPulse
  | leapSecond
  | epochBoundary
  | referencePhasorTimeout (n : Fin 8)
  | referenceHoldExpiry (n : Fin 8)
  | anRefCfgStore (req : Requester) (n : Fin 8) (v : Word)
  | anViewStore (req : Requester) (p : Fin 16) (v : Word)
  -- spec/03_contexts_scheduler.md: commands name the partition, the local context and SC_CMD.ARG (R108)
  | alloc (p : Fin 16) (ctx : BitVec 12) (arg : BitVec 20)
  | free (p : Fin 16) (ctx : BitVec 12) (arg : BitVec 20)
  | enable (p : Fin 16) (ctx : BitVec 12) (arg : BitVec 20)
  | disable (p : Fin 16) (ctx : BitVec 12) (arg : BitVec 20)
  | run (p : Fin 16) (ctx : BitVec 12) (arg : BitVec 20)
  | stop (p : Fin 16) (ctx : BitVec 12) (arg : BitVec 20)
  | setclass (p : Fin 16) (ctx : BitVec 12) (arg : BitVec 20)
  | reset (p : Fin 16) (ctx : BitVec 12) (arg : BitVec 20)
  | scEvraiseStore (p : Fin 16) (src : BitVec 10)
  | stageDecision (ctx : Fin 4096)
  | slotBecomesFree (slot : Fin 384)
  | displacement (slot : Fin 384)
  | portGrant (port : Fin 12)
  | stageInComplete (port : Fin 12)
  | firstGroupFetched (slot : Fin 384)
  | dueCycle (ctx : Fin 4096)
  | angleDuePoint (ctx : Fin 4096)
  | timeDuePoint (ctx : Fin 4096)
  | runBudgetExpiry (slot : Fin 384)
  | writeBackRequest (slot : Fin 384)
  /-- WRITE_BACK_VERDICT (R72): whether the comparator agreed on every transfer cycle. -/
  | writeBackVerdict (port : Fin 12) (agree : Bool)
  | commitRelease (ctx : Fin 4096)
  | interlockAnswer (release : Bool)
  | interlockTimeout
  /-- FIRN_APERTURE_ACCESS (R73): a load (`none`) or a store of image word `w` of context `c`. -/
  | firnApertureAccess (req : Requester) (c : Fin 4096) (w : Fin 256) (store : Option Word)
  /-- SC_OPAGE_STORE (R106): to SC_OPAGE_Cn where `isC`, else to SC_OPAGE_Fn. -/
  | scOpageStore (req : Requester) (n : Fin 256) (isC : Bool) (v : Word)
  | scPrangeStore (req : Requester) (p : Fin 16) (v : Word)
  | entryWordStore (req : Requester) (p : Fin 16) (i : Fin 4096) (j : Fin 8) (v : Word)
  -- spec/04_keang36_instruction_set.md: integer group
  | add (slot : Fin 384) (f : RFields)
  | sub (slot : Fin 384) (f : RFields)
  | and (slot : Fin 384) (f : RFields)
  | or (slot : Fin 384) (f : RFields)
  | xor (slot : Fin 384) (f : RFields)
  | andn (slot : Fin 384) (f : RFields)
  | slt (slot : Fin 384) (f : RFields)
  | sltu (slot : Fin 384) (f : RFields)
  | sll (slot : Fin 384) (f : RFields)
  | srl (slot : Fin 384) (f : RFields)
  | sra (slot : Fin 384) (f : RFields)
  | slli (slot : Fin 384) (f : RFields)
  | srli (slot : Fin 384) (f : RFields)
  | srai (slot : Fin 384) (f : RFields)
  | clz (slot : Fin 384) (f : RFields)
  | sxh (slot : Fin 384) (f : RFields)
  | sxn (slot : Fin 384) (f : RFields)
  | min (slot : Fin 384) (f : RFields)
  | max (slot : Fin 384) (f : RFields)
  | addi (slot : Fin 384) (f : IFields)
  | andi (slot : Fin 384) (f : IFields)
  | ori (slot : Fin 384) (f : IFields)
  | xori (slot : Fin 384) (f : IFields)
  | slti (slot : Fin 384) (f : IFields)
  | sltiu (slot : Fin 384) (f : IFields)
  | seth (slot : Fin 384) (f : HFields)
  | lea (slot : Fin 384) (f : IFields)
  | mul (slot : Fin 384) (f : RFields)
  | mulh (slot : Fin 384) (f : RFields)
  | mulhu (slot : Fin 384) (f : RFields)
  | div (slot : Fin 384) (f : RFields)
  | divu (slot : Fin 384) (f : RFields)
  | rem (slot : Fin 384) (f : RFields)
  | remu (slot : Fin 384) (f : RFields)
  -- loads, stores, atomics
  | ldw (slot : Fin 384) (f : IFields)
  | ldh (slot : Fin 384) (f : IFields)
  | ldhu (slot : Fin 384) (f : IFields)
  | ldn (slot : Fin 384) (f : IFields)
  | ldnu (slot : Fin 384) (f : IFields)
  | stw (slot : Fin 384) (f : IFields)
  | sth (slot : Fin 384) (f : IFields)
  | stn (slot : Fin 384) (f : IFields)
  | ldu (slot : Fin 384) (f : IFields)
  | stu (slot : Fin 384) (f : IFields)
  | swap (slot : Fin 384) (f : RFields)
  | cas (slot : Fin 384) (f : RFields)
  | fadd (slot : Fin 384) (f : RFields)
  -- control transfers
  | beq (slot : Fin 384) (f : BFields)
  | bne (slot : Fin 384) (f : BFields)
  | blt (slot : Fin 384) (f : BFields)
  | bge (slot : Fin 384) (f : BFields)
  | bltu (slot : Fin 384) (f : BFields)
  | bgeu (slot : Fin 384) (f : BFields)
  | call (slot : Fin 384) (f : JFields)
  | jreg (slot : Fin 384) (f : IFields)
  -- windows, blocks, system
  | save (slot : Fin 384) (f : IFields)
  | restore (slot : Fin 384) (f : IFields)
  | savel (slot : Fin 384) (f : RFields)
  | saveu (slot : Fin 384) (f : RFields)
  | restl (slot : Fin 384) (f : RFields)
  | restu (slot : Fin 384) (f : RFields)
  | movb (slot : Fin 384) (f : RFields)
  | yield (slot : Fin 384) (f : RFields)
  | swapctx (slot : Fin 384) (f : RFields)
  | eret (slot : Fin 384) (f : RFields)
  | trapdone (slot : Fin 384) (f : RFields)
  | fence (slot : Fin 384) (f : RFields)
  | ifence (slot : Fin 384) (f : RFields)
  | tsync (slot : Fin 384) (f : RFields)
  | tlbi (slot : Fin 384) (f : RFields)
  | pbar (slot : Fin 384) (f : RFields)
  | pflush (slot : Fin 384) (f : RFields)
  | rdctl (slot : Fin 384) (f : RFields)
  | wrctl (slot : Fin 384) (f : RFields)
  | syscall (slot : Fin 384) (f : IFields)
  /-- FIRMWARE_CALL (R154): the instruction MCALL. -/
  | firmwareCall (slot : Fin 384) (f : IFields)
  -- spec/05_signal_extensions.md: `acc1` is FN bit 8
  | agld (slot : Fin 384) (f : RFields)
  | agst (slot : Fin 384) (f : RFields)
  | agadr (slot : Fin 384) (f : RFields)
  | agadv (slot : Fin 384) (f : RFields)
  | agrd (slot : Fin 384) (f : RFields)
  | agwr (slot : Fin 384) (f : RFields)
  | mac (slot : Fin 384) (acc1 : Bool) (f : RFields)
  | msu (slot : Fin 384) (acc1 : Bool) (f : RFields)
  | macl (slot : Fin 384) (acc1 : Bool) (f : RFields)
  | macd (slot : Fin 384) (acc1 : Bool) (f : RFields)
  | accrnd (slot : Fin 384) (acc1 : Bool) (f : RFields)
  | acchi (slot : Fin 384) (acc1 : Bool) (f : RFields)
  | acclo (slot : Fin 384) (acc1 : Bool) (f : RFields)
  | accset (slot : Fin 384) (acc1 : Bool) (f : RFields)
  | macr (slot : Fin 384) (acc1 : Bool) (f : RFields)
  | sprd (slot : Fin 384) (acc1 : Bool) (f : RFields)
  | spwr (slot : Fin 384) (acc1 : Bool) (f : RFields)
  | cis (slot : Fin 384) (f : RFields)
  | rot (slot : Fin 384) (f : RFields)
  | sdft (slot : Fin 384) (f : RFields)
  | mag (slot : Fin 384) (f : RFields)
  | ang (slot : Fin 384) (f : RFields)
  | cubi (slot : Fin 384) (f : RFields)
  | dftr (slot : Fin 384) (f : RFields)
  -- spec/06_pipeline_prediction_counters.md, spec/07_privilege_traps.md
  /-- LONG_OPERATION_COMPLETE (R179): the oldest long operation in flight of the slot. -/
  | longOperationComplete (slot : Fin 384)
  | storeDrain (slot : Fin 384)
  | asyncStoreErrorTrap (slot : Fin 384)
  /-- PREFETCH (R189): of the group that holds virtual address `va`. -/
  | prefetch (slot : Fin 384) (va : Word)
  | fetchReturn (slot : Fin 384) (va : Word)
  | loadReturn (slot : Fin 384)
  | interruptDelivery (slot : Fin 384)
  | wakeStaging (p : Fin 16) (line : Fin 64)
  | counterOverflowTrap (slot : Fin 384)
  | counterWrap (slot : Fin 384) (j : Fin 8)
  -- spec/08_memory_management.md
  /-- TABLE_WALK (R245): of `va` for a fetch (0), load (1) or store (2) of the slot's context. -/
  | tableWalk (slot : Fin 384) (va : Word) (kind : Fin 3)
  | tlbiArrival (core : Fin 48)
  | tlbiAck (core : Fin 48)
  | pin (core : Fin 48)
  | unpin (core : Fin 48)
  | unpinAll (core : Fin 48)
  | tlWbStore (req : Requester) (p : Fin 16) (k : Fin 32) (v : Word)
  | tlWlStore (req : Requester) (p : Fin 16) (k : Fin 32) (v : Word)
  | wpendClear
  -- spec/09_caches_coherence.md: TGT as CH_LKCMD.TGT
  | load (tgt : BitVec 6)
  | unlock (tgt : BitVec 6)
  | lockLoadComplete (tgt : BitVec 6)
  | lockDrainComplete (tgt : BitVec 6)
  /-- SCRUB (R278): of line `line` by structure `src` (0–11 L2, 12–19 LLC slice). -/
  | scrub (src : Fin 20) (line : BitVec 32)
  | rds (agent : Fin 16) (line : BitVec 32)
  | rdx (agent : Fin 16) (line : BitVec 32)
  | upg (agent : Fin 16) (line : BitVec 32)
  | wbd (agent : Fin 16) (line : BitVec 32)
  | evn (agent : Fin 16) (line : BitVec 32)
  /-- WRH (R287, R290): the words written (word in line, value), with or without a target cluster. -/
  | wrh (agent : Fin 16) (line : BitVec 32) (words : List (Fin 16 × Word)) (target : Option (Fin 12))
  | snoop (agent : Fin 16) (line : BitVec 32)
  | snoopAnswer (agent : Fin 16) (line : BitVec 32)
  | declareDead (agent : Fin 16)
  | declareLive (agent : Fin 16)
  | agentFault (agent : Fin 16)
  | sweepComplete
  -- spec/10_lockstep_pairs.md
  | lsLockstep (k : Fin 24)
  | lsSplit (k : Fin 24)
  | lsOff (k : Fin 24)
  | retest (k : Fin 24)
  | inject (k : Fin 24)
  /-- MISMATCH (R305): the pair, the KIND of R303 and the slot of the differing output. -/
  | mismatch (k : Fin 24) (kind : Fin 16) (slot : Fin 8)
  /-- RECONCILE_COMPLETE (R306): the lines held in M whose two copies differ. -/
  | reconcileComplete (k : Fin 24) (differ : List (BitVec 32))
  /-- SELF_TEST_VERDICT (R307): whether the main and the checker core failed. -/
  | selfTestVerdict (k : Fin 24) (failM failC : Bool)
  -- spec/11_dram_controller.md: commands name MC_CMD.CH and MC_CMD.RANK
  | init (ch : BitVec 3) (rank : Bool)
  | zero (ch : BitVec 3) (rank : Bool)
  | zeroComplete (ch : Fin 6)
  | sre (ch : BitVec 3) (rank : Bool)
  | srx (ch : BitVec 3) (rank : Bool)
  | measure (ch : BitVec 3) (rank : Bool)
  /-- MEASURE_COMPLETE (R331): per device the read centre, write centre and eye width ÷ 4. -/
  | measureComplete (ch : Fin 6) (eyes : List (Nat × Nat × Nat))
  | migrate (ch : BitVec 3) (rank : Bool)
  | migrationCopy (ch : Fin 6)
  | mcMapStore (req : Requester) (v : Word)
  | mcDlyStore (req : Requester) (ch : Fin 6) (rank : Fin 2) (dev : Fin 12) (v : Word)
  | dramReadRequest (line : BitVec 32) (part : Fin 16)
  | dramWriteRequest (line : BitVec 32)
  | dramReadReturn (ch : Fin 6)
  | refreshDue (ch : Fin 6) (rank : Fin 2)
  /-- RETRAINING_PAUSE (R329): per device the taps by which the read and write corrections should move. -/
  | retrainingPause (ch : Fin 6) (rank : Fin 2) (moves : List (Int × Int))
  | neighbourRefresh (ch : Fin 6)
  | patrolScrub (ch : Fin 6)
  /-- MODE_REGISTER_POLL (R335): whether a device of the rank asks for 2x refresh, and reports above its limit. -/
  | modeRegisterPoll (ch : Fin 6) (rank : Fin 2) (need2x aboveLimit : Bool)
  | writeBatchStart (ch : Fin 6)
  -- spec/12_network_ports_switch.md
  | frameReceived (port : Fin 6) (f : Frame)
  | frameTransmit (port : Fin 6)
  | linkUp (port : Fin 6)
  /-- LINK_DOWN (R376): whether a frame was being received. -/
  | linkDown (port : Fin 6) (midFrame : Bool)
  | learningAge (mac : BitVec 48)
  | flush
  | discardEntryForget (pair : Fin 2) (src : BitVec 48) (seq : BitVec 16)
  | supervisionSend (pair : Fin 2)
  /-- RING_STATUS_TIMEOUT (R362): 0 OPEN, 1 SILA, 2 SILB. -/
  | ringStatusTimeout (pair : Fin 2) (which : Fin 3)
  | nodeEntryAge (pair : Fin 2) (node : BitVec 48)
  | pdelayReqSend (port : Fin 6)
  /-- PTP_TIMEOUT (R371): the port's Announce timed out, or no Sync came on it for 3 intervals. -/
  | ptpTimeout (port : Fin 6) (announce : Bool)
  | errorRateSecond
  /-- BYPASS_HEALTH_CHANGE (R364): whether the self-check marker passed in the last 100 µs. -/
  | bypassHealthChange (pair : Fin 2) (marker : Bool)
  | holddlyExpiry (pair : Fin 2)
  | bypassDriveFault (pair : Fin 2) (short : Bool)
  | npHtxkStore (req : Requester) (p : Fin 16)
  | npPcfgStore (req : Requester) (x : Fin 6) (v : Word)
  | npCfgStore (req : Requester) (v : Word)
  -- spec/13_process_data_path.md
  | pdEnable (tbl : BitVec 3) (idx : BitVec 12)
  | pdDisable (tbl : BitVec 3) (idx : BitVec 12)
  | svTimeout (i : Fin 1024)
  | gooseDeadline (i : Fin 4096)
  | resamplePoint (i : Fin 1024)
  | labelReached (i : Fin 1024)
  | publicationRelease
  | gooseRetransmission (g : Fin 512)
  | discreteInputChange (n : Fin 16) (level : Bool)
  | minonExpiry (n : Fin 8)
  | deadmanExpiry (n : Fin 8)
  /-- RAIL_READBACK (R418): the high-side and the low-side rail as read back. -/
  | railReadback (n : Fin 8) (high low : Bool)
  /-- OUTPUT_BIND_STORE (R407): to PD_GPBn (0), PD_SPBn (1) or PD_DOBn (2). -/
  | outputBindStore (req : Requester) (kind : Fin 3) (n : Fin 512) (v : Word)
  -- spec/14_secure_world.md: the monitor calls name the slot whose context made the call (R429)
  | version (slot : Fin 384)
  | shwrite (slot : Fin 384)
  | keystat (slot : Fin 384)
  | crypt (slot : Fin 384)
  | cryptJobDone (p : Fin 16)
  | update (slot : Fin 384)
  | hold (slot : Fin 384)
  | predclr (slot : Fin 384)
  | monitorCallTimeout (slot : Fin 384)
  | keyExpiry (keyid : Fin 1024)
  | secureWatchdogExpiry
  /-- RK_WDKICK_STORE (R444): by the secure core (`none`), or by a core. -/
  | rkWdkickStore (req : Option Requester) (v : Word)
  | rkPclrStore (req : Requester) (v : Word)
  | secureBoot
  | handover
  -- spec/15_dictionary_roles_moraine.md
  /-- OPEN (R466): ROLE, PART, CRED, CONFREQ and NC. -/
  | openSession (tr : Transport) (role : BitVec 8) (part : BitVec 8) (cred : BitVec 8) (confReq : Bool) (nc : BitVec 128)
  | prove (tr : Transport) (sid : Fin 16) (proof : BitVec 256)
  | proveTimeout (sid : Fin 16)
  | read (m : DxHead) (index : BitVec 16) (sub group : BitVec 8) (offset : BitVec 32) (count : BitVec 16)
  | write (m : DxHead) (index : BitVec 16) (sub group : BitVec 8) (offset : BitVec 32) (stage : Bool) (value : List (BitVec 8))
  | apply (m : DxHead)
  | close (m : DxHead)
  | ping (m : DxHead)
  | sessionIdleTimeout (sid : Fin 16)
  | lockoutExpiry (cred : Fin 64)
  | flip (p : Fin 16)
  | configurationStoreWrite
  | dxMdbStore (req : Requester) (p : Fin 16) (v : Word)
  | mailboxResponse (p : Fin 16)
  /-- MORAINE_SLOT_WRITE (R474): whether the slot reads back correctly. -/
  | moraineSlotWrite (ok : Bool)
  | moraineScanComplete
  | moRselLoStore (req : Requester) (v : Word)
  | moraineReadDone
  -- spec/16_pcie_endpoint.md
  /-- CONFIGURATION_REQUEST (R486): of a DWORD of a function; for a write its data and byte enables. -/
  | configurationRequest (f : Fin 17) (dw : Fin 1024) (write : Option (BitVec 32 × BitVec 4))
  /-- INBOUND_READ (R493): of `len` octets from an octet offset of the BAR. -/
  | inboundRead (f : Fin 17) (form : InForm) (bar : Bar) (off : BitVec 40) (len : Fin 4097)
  /-- INBOUND_WRITE (R493): octets from an offset of the BAR, `none` where the TLP does not enable one. -/
  | inboundWrite (f : Fin 17) (form : InForm) (bar : Bar) (off : BitVec 40) (octets : List (Option (BitVec 8)))
  /-- OUTBOUND_COMPLETION (R500): for the slot's load: status 0 successful, 1 UR, 2 CA; EP; and the octets as a number. -/
  | outboundCompletion (slot : Fin 384) (status : Fin 3) (ep : Bool) (data : BitVec 64)
  | completionTimeout (slot : Fin 384)
  | pxFirqStore (req : Requester) (f : Fin 17) (v : Word)
  | interruptMessageSend
  /-- PX_IWA_STORE (R492): to PX_IWAf_w. -/
  | pxIwaStore (req : Requester) (f : Fin 17) (w : Fin 8) (v : Word)
  | flr (f : Fin 17)
  /-- HOT_RESET (R501): 0 PERST_N low, 1 hot reset, 2 link down. -/
  | hotReset (how : Fin 3)
  -- spec/17_power_reset_service.md
  | pmOn (req : Requester) (domain : BitVec 7)
  | pmClkoff (req : Requester) (domain : BitVec 7)
  | pmOff (req : Requester) (domain : BitVec 7)
  | domainTransitionComplete
  | domainLost (d : Fin 87)
  /-- RAIL_EXCURSION (R511): the rail and its measured mV. -/
  | railExcursion (r : Fin 12) (mv : BitVec 12)
  | railBack (r : Fin 12) (mv : BitVec 12)
  /-- SENSOR_READ (R512): a sensor and its reading in quarters of 1 °C. -/
  | sensorRead (sensor : Fin 16) (temp : BitVec 12)
  /-- POWER_FAIL (R513): the failing rail, `none` for PFAIL_N. -/
  | powerFail (rail : Option (Fin 12))
  | holdUpEnd
  /-- POWER_ON_RESET_RELEASE (R510): with the level of REFSEL (R552). -/
  | powerOnResetRelease (refsel : Bool)
  | resetNLow
  | pmRstWarm (req : Requester)
  | pmRstCold (req : Requester)
  | blockRelease
  -- spec/18_trace_debug.md
  | routerTake
  | tapUpdateIr (code : BitVec 8)
  /-- EXTEST (R541): Update-DR with the values of boundary cells. -/
  | extest (cells : List (Cell × Bool))
  /-- SAMPLE_PRELOAD (R540): the values preloaded. -/
  | samplePreload (cells : List (Cell × Bool))
  | idcode
  | clamp
  | highz
  | bypass
  /-- DBGACC (R542): Update-DR with an offset in the DB_ block, WR and DATA. -/
  | dbgacc (off : BitVec 12) (wr : Bool) (data : Word)
  /-- DBGAUTH (R544): Update-DR with the proof and the credential number. -/
  | dbgauth (proof : BitVec 128) (cred : Fin 64)
  | diag (off : BitVec 12) (wr : Bool) (data : Word)
  | halt
  | resume
  | step
  | rdreg
  | wrreg
  | rdmem
  | wrmem
  | rdphy
  | wrphy
  | dbDcmdSelfTest (pair : BitVec 5)
  -- events within rules
  /-- SECURE_CORE_ANSWER (R433): to the monitor call that waits in a slot. -/
  | secureCoreAnswer (slot : Fin 384)
  | updateEnd
  /-- INIT_COMPLETE (R326): of the INIT under way; the device that failed its training, if one did. -/
  | initComplete (failDev : Option (Fin 12))
  | dramCommandIssue (ch : Fin 6)
  /-- PCIE_LINK_UP (R484): the speed as PX_STAT.SPEED codes it and the lanes. -/
  | pcieLinkUp (speed : Fin 5) (lanes : Fin 9)
  | testenHigh
  deriving DecidableEq, Repr

end Sys2Proof
end

