-- ==== Sys2Proof/Decode.lean ====
section
/-! DEFINITION. No row of the table has an encoding in bits: a command reaches the block as it is, so no word spells one. -/

namespace Sys2Proof

/-- The command that a word spells by the table's bits: none, for no row of spec/opcode_table.json gives bits. A row of chapters 4 and 5
is an instruction already decoded by R124, R130 and R163; its word is built where a fault shows it (`Machine.encR` and its like). -/
def decodeTableWord (_nbits _w : Nat) : Option Instr := none

end Sys2Proof
end

