-- ==== Sys2Proof/Config.lean ====
section
/-! DEFINITION. What the spec leaves open: free values, and the cryptographic functions of spec/14_secure_world.md, whose names
the spec gives and whose definitions lie in the standards it names. None has a body. -/

namespace Sys2Proof.Config

/-- A word that the spec leaves open, by the model's own counter. -/
opaque freeWord : Nat → BitVec 36

/-- What the word of a store yields that no reading of R272 delivers, where the spec gives its reader no effect (R27): the sealed word as
it stands. -/
opaque unreadable : BitVec 48 → BitVec 36

/-- The authentication code of a frame's content under a key value and an ALG of R435 (R390, R414). -/
opaque frameCode : BitVec 256 → Nat → Payload → BitVec 256

/-- SHA-256 of octets (R434, R438, R475). -/
opaque sha256 : List (BitVec 8) → BitVec 256

/-- HMAC-SHA-256 of octets under a key value (R434). -/
opaque hmacSha256 : BitVec 256 → List (BitVec 8) → BitVec 256

/-- AES-GCM encryption under a key value and ALG of an input with its AAD and IV: the output with its tag (R434). -/
opaque gcmSeal : BitVec 256 → Nat → List (BitVec 8) → List (BitVec 8) → List (BitVec 8) → List (BitVec 8)

/-- AES-GCM decryption: the output, none where the tag does not verify (R434). -/
opaque gcmOpen : BitVec 256 → Nat → List (BitVec 8) → List (BitVec 8) → List (BitVec 8) → Option (List (BitVec 8))

/-- Whether an ECDSA P-256 signature verifies over a hash, for a public key and signature as octets (R434, R438). -/
opaque ecdsaOk : List (BitVec 8) → BitVec 256 → Bool

/-- A fresh challenge (R466, R544), by the model's own counter. -/
opaque nonce : Nat → BitVec 128

/-- The AAD length and the IV address that word 5 of a job descriptor gives for OP 1 and 2 (R434), whose places in the word the
spec does not state. -/
opaque jobWord5 : BitVec 36 → Nat × Nat

/-- What an image's header carries (R438, R439, R443, R523): the public key and the signature as octets, ROLLIDX, the version,
the profile, the vector of level M, and the boot firmware with its address in DRAM. -/
structure ImgHeader where
  key : List (BitVec 8)
  sig : List (BitVec 8)
  rollidx : Nat
  version : Nat
  prof : Nat
  vector : BitVec 36
  fwAddr : Nat
  fw : List (BitVec 36)
  deriving DecidableEq, Repr, Inhabited

/-- The header of an image, whose layout the spec does not give. -/
opaque imageHeader : List (BitVec 8) → ImgHeader

/-- The index and tag in table `n` of the tagged-history predictor for a PC and a history (R198): "hashes", which the spec does not
give. -/
opaque predHash : Nat → BitVec 36 → BitVec 64 → Nat × Nat

end Sys2Proof.Config
end

