-- ==== Sys2Proof/Machine/Seal.lean ====
section
/-! DEFINITION. The sealed word (R271 to R273): the Reed–Solomon code over GF(16), reading, poison and lost patterns. -/

namespace Sys2Proof.Machine

/-- Multiplication by α = 2 in GF(16) built on x^4 + x + 1 (R271). -/
def gfDouble (a : Nat) : Nat := if a < 8 then 2 * a else (2 * a) ^^^ 0b10011

/-- α^k. -/
def gfPow : Nat → Nat
  | 0 => 1
  | k + 1 => gfDouble (gfPow k)

/-- The logarithm of a nonzero element below 16. -/
def gfLog (a : Nat) : Nat := ((List.range 15).find? (fun k => gfPow k = a)).getD 0

/-- Multiplication in GF(16). -/
def gfMul (a b : Nat) : Nat := if a = 0 ∨ b = 0 then 0 else gfPow ((gfLog a + gfLog b) % 15)

/-- Symbol `p` of a sealed word: check symbols at 0 to 2, word bits from 3 on (R271). -/
def sealSym (w : Sealed) (p : Nat) : Nat :=
  if p < 3 then (w.toNat >>> (36 + 4 * p)) % 16 else (w.toNat >>> (4 * (p - 3))) % 16

/-- The syndrome S_j := r(α^j) (R272). -/
def syndrome (w : Sealed) (j : Nat) : Nat :=
  (List.range 12).foldl (fun acc p => acc ^^^ gfMul (sealSym w p) (gfPow ((j * p) % 15))) 0

/-- One step of the division by g(x) = x^3 + 7x^2 + 14x + 8: the remainder (c2, c1, c0) takes in one more data symbol. -/
def checkStep (r : Nat × Nat × Nat) (d : Nat) : Nat × Nat × Nat :=
  let f := r.1 ^^^ d
  (r.2.1 ^^^ gfMul f 7, r.2.2 ^^^ gfMul f 14, gfMul f 8)

/-- The check symbols of a word, c2, c1, c0 (R271). -/
def checks (w : BitVec 36) : Nat × Nat × Nat :=
  ((List.range 9).map (fun i => (w.toNat >>> (4 * (8 - i))) % 16)).foldl checkStep (0, 0, 0)

/-- The good sealed word of a word (R271). -/
def sealWord (w : Word) : Sealed :=
  let c := checks w
  BitVec.ofNat 48 (w.toNat + c.2.2 * 2 ^ 36 + c.2.1 * 2 ^ 40 + c.1 * 2 ^ 44)

/-- The data of a sealed word. -/
def dataOf (w : Sealed) : Word := w.extractLsb' 0 36

/-- A word poisoned (R273). -/
def poisonWord (w : Word) : Sealed := sealWord w ^^^ BitVec.ofNat 48 (0o2310 * 2 ^ 36)

/-- A word marked lost (R273). -/
def lostWord (w : Word) : Sealed := sealWord w ^^^ BitVec.ofNat 48 (0o4263 * 2 ^ 36)

/-- How a sealed word reads (R272): the symbol position of a correction, and the syndrome of an uncorrectable word. -/
inductive Reading where
  | good (w : Word)
  | corrected (w : Word) (position : Nat)
  | poison
  | lost
  | bad (syn : Nat)
  deriving DecidableEq, Repr

/-- A sealed word with symbol `p` changed by `e`. -/
def fixSym (w : Sealed) (p e : Nat) : Sealed :=
  w ^^^ BitVec.ofNat 48 (e * 2 ^ (if p < 3 then 36 + 4 * p else 4 * (p - 3)))

/-- The reading of a sealed word by the first row of R272 that matches. -/
def readSealed (w : Sealed) : Reading :=
  let s0 := syndrome w 0
  let s1 := syndrome w 1
  let s2 := syndrome w 2
  if s0 = 0 ∧ s1 = 0 ∧ s2 = 0 then .good (dataOf w)
  else if s0 = 0 ∧ s1 = 0 ∧ s2 = 1 then .poison
  else if s0 = 0 ∧ s1 = 0 ∧ s2 = 2 then .lost
  else
    let p := (gfLog s1 + 15 - gfLog s0) % 15
    if s0 ≠ 0 ∧ s1 ≠ 0 ∧ s2 ≠ 0 ∧ gfMul s1 s1 = gfMul s0 s2 ∧ p ≤ 11 then .corrected (dataOf (fixSym w p s0)) p
    else .bad (s2 * 256 + s1 * 16 + s0)

/-- The word that a good or corrected reading delivers. -/
def Reading.word : Reading → Option Word
  | .good w => some w
  | .corrected w _ => some w
  | _ => none

/-- The sub-cause of the data error of a load (R272). -/
def Reading.errSub : Reading → Nat
  | .poison => 1
  | .lost => 2
  | _ => 0

end Sys2Proof.Machine
end

