-- ==== Sys2Proof/Machine/Tab.lean ====
section
/-! DEFINITION. Sparse tables: a list of (key, value) pairs with rising keys that lists no entry equal to what an
unlisted key reads as. Memory, the register file, the Firn and every other sparse store of State is one of these. -/

namespace Sys2Proof.Machine

/-- A sparse store, keys rising, one canonical form. -/
abbrev Tab (α : Type) := List (Nat × α)

/-- What key `k` reads as, `d` where the table lists nothing. -/
def Tab.get {α : Type} (d : α) : Tab α → Nat → α
  | [], _ => d
  | (k, v) :: t, x => if k = x then v else Tab.get d t x

/-- The table without key `x`. -/
def Tab.erase {α : Type} : Tab α → Nat → Tab α
  | [], _ => []
  | (k, v) :: t, x => if k = x then Tab.erase t x else (k, v) :: Tab.erase t x

/-- The table with key `x` listed as `v`, in its place in the rising order. -/
def Tab.insert {α : Type} : Tab α → Nat → α → Tab α
  | [], x, v => [(x, v)]
  | (k, w) :: t, x, v =>
    if x < k then (x, v) :: (k, w) :: t
    else if x = k then (x, v) :: t
    else (k, w) :: Tab.insert t x v

/-- Write `v` at `x`; writing the value an unlisted key reads as removes the entry. -/
def Tab.set {α : Type} [DecidableEq α] (d : α) (t : Tab α) (x : Nat) (v : α) : Tab α :=
  if v = d then Tab.erase t x else Tab.insert t x v

/-- Every key of the table is above `n`. -/
def Tab.above {α : Type} (n : Nat) : Tab α → Bool
  | [] => true
  | (k, _) :: t => decide (n < k) && Tab.above n t

/-- The canonical form: keys strictly rising, no entry equal to its default. -/
def Tab.wf {α : Type} [DecidableEq α] (d : Nat → α) : Tab α → Bool
  | [] => true
  | (k, v) :: t => Tab.above k t && decide (v ≠ d k) && Tab.wf d t

/-- Remove every entry whose key fails `p`. -/
def Tab.keep {α : Type} (p : Nat → Bool) : Tab α → Tab α
  | [] => []
  | (k, v) :: t => if p k then (k, v) :: Tab.keep p t else Tab.keep p t

/-- Write a list of values at consecutive keys. -/
def Tab.setRange {α : Type} [DecidableEq α] (d : α) (t : Tab α) (x : Nat) : List α → Tab α
  | [] => t
  | v :: vs => Tab.setRange d (Tab.set d t x v) (x + 1) vs

/-- The values at `n` consecutive keys. -/
def Tab.getRange {α : Type} (d : α) (t : Tab α) (x : Nat) : Nat → List α
  | 0 => []
  | n + 1 => Tab.get d t x :: Tab.getRange d t (x + 1) n

end Sys2Proof.Machine
end

