-- ==== Sys2Proof/Machine/RegMap.lean ====
section
/-! DEFINITION. The register maps of the 18 blocks, from the register tables of spec/: each register's word address,
each field's place, its access code (R4 to R12), its reset value, and whether warm reset keeps it (the dagger). -/

namespace Sys2Proof.Machine

/-- The access codes of spec/00_scope.md. -/
inductive Access where
  | ro | rw | wo | w1c | rc
  deriving DecidableEq, Repr

/-- Who may write a field: LK, SH, and the three fields whose code depends on the instance
(CP_ save registers of the secure world, PX_FCTL.PART of the PF). -/
inductive Guard where
  | none | lk | sh | secSh | lkSecSh | shVf
  deriving DecidableEq, Repr

/-- A field's value after cold reset, by the indices of its register. -/
inductive RegRst where
  | const (n : Nat)
  | refsel
  | view
  | part0 (a b : Nat)
  | win (n : Nat)
  | held
  | pxpart
  | raillo
  | railhi
  deriving DecidableEq, Repr

/-- One field of a register table; `more` is the lowest bit of its MORE companion, 36 where it has none. -/
structure FieldSpec where
  lo : Nat
  width : Nat
  acc : Access
  guard : Guard
  rst : RegRst
  keep : Bool
  more : Nat := 36
  deriving DecidableEq, Repr

/-- One row of a register map: the first word offset, the strides and counts of its indices (widest first), its fields. -/
structure RegArr where
  off : Nat
  dims : List (Nat × Nat)
  fields : List FieldSpec
  deriving DecidableEq, Repr

/-- A field of one register: word address, lowest bit, width. -/
structure Field where
  addr : Nat
  lo : Nat
  width : Nat
  deriving DecidableEq, Repr

/-- The indices at which `o` is a register of the row, none where it is not one. -/
def RegArr.indexAux : Nat → List (Nat × Nat) → Option (List Nat)
  | o, [] => if o = 0 then some [] else none
  | o, (stride, count) :: ds =>
    if o / stride < count then
      match RegArr.indexAux (o % stride) ds with
      | some is => some (o / stride :: is)
      | none => none
    else none

/-- The indices at which word offset `o` of the block is a register of the row. -/
def RegArr.index (r : RegArr) (o : Nat) : Option (List Nat) :=
  if r.off ≤ o then RegArr.indexAux (o - r.off) r.dims else none

/-- The row and indices of offset `o` in a block's map. -/
def findReg : List RegArr → Nat → Option (RegArr × List Nat)
  | [], _ => none
  | r :: rs, o =>
    match r.index o with
    | some is => some (r, is)
    | none => findReg rs o

/-- The AN_ map (spec/02_angle_timebase.md, R34 to R65 and the register tables of spec/02_angle_timebase.md). -/
def mapAN : List RegArr :=
  -- AN_TB_CFG
  [⟨0, [],
    [⟨0, 3, .rw, .lk, .const 0, true, 36⟩,
     ⟨3, 3, .rw, .lk, .const 0, true, 36⟩,
     ⟨6, 1, .rw, .lk, .const 1, true, 36⟩,
     ⟨7, 1, .rw, .lk, .const 0, true, 36⟩,
     ⟨8, 1, .rw, .lk, .const 0, true, 36⟩,
     ⟨9, 1, .rw, .lk, .const 0, true, 36⟩,
     ⟨10, 1, .rw, .lk, .const 0, true, 36⟩,
     ⟨11, 6, .rw, .lk, .const 0o03, true, 36⟩,
     ⟨17, 6, .rw, .lk, .const 0o02, true, 36⟩,
     ⟨23, 6, .rw, .lk, .const 0o06, true, 36⟩,
     ⟨29, 1, .ro, .none, .refsel, true, 36⟩]⟩] ++
  -- AN_TB_STAT
  [⟨1, [],
    [⟨0, 2, .ro, .none, .const 0, true, 36⟩,
     ⟨2, 3, .ro, .none, .const 0, true, 36⟩,
     ⟨5, 1, .ro, .none, .const 0, true, 36⟩,
     ⟨6, 2, .ro, .none, .const 3, true, 36⟩,
     ⟨8, 1, .ro, .none, .const 0, true, 36⟩,
     ⟨18, 18, .ro, .none, .const 0, true, 36⟩]⟩] ++
  -- AN_TB_INC
  [⟨2, [],
    [⟨0, 36, .ro, .none, .const 0o024000000000, true, 36⟩]⟩] ++
  -- AN_TB_OFFS
  [⟨3, [],
    [⟨0, 36, .ro, .none, .const 0, true, 36⟩]⟩] ++
  -- AN_TB_PDLY
  [⟨4, [],
    [⟨0, 36, .ro, .none, .const 0, true, 36⟩]⟩] ++
  -- AN_TB_LIM
  [⟨5, [],
    [⟨0, 18, .rw, .lk, .const 0o000144, true, 36⟩,
     ⟨18, 18, .rw, .lk, .const 0o001750, true, 36⟩]⟩] ++
  -- AN_TB_DLYLIM
  [⟨6, [],
    [⟨0, 36, .rw, .lk, .const 0o303240, true, 36⟩]⟩] ++
  -- AN_TB_STEPLIM
  [⟨7, [],
    [⟨0, 36, .rw, .lk, .const 0o023420, true, 36⟩]⟩] ++
  -- AN_TB_HOLD
  [⟨8, [],
    [⟨0, 18, .rw, .lk, .const 0o000012, true, 36⟩,
     ⟨18, 18, .rw, .lk, .const 0o007020, true, 36⟩]⟩] ++
  -- AN_TB_INDLY
  [⟨9, [],
    [⟨0, 18, .rw, .lk, .const 0, true, 36⟩]⟩] ++
  -- AN_TB_STEP
  [⟨10, [],
    [⟨0, 36, .ro, .none, .const 0, true, 36⟩]⟩] ++
  -- AN_UTC
  [⟨11, [],
    [⟨0, 18, .rw, .none, .const 0o000045, true, 36⟩,
     ⟨18, 1, .rw, .none, .const 0, true, 36⟩,
     ⟨19, 1, .rw, .none, .const 0, true, 36⟩,
     ⟨20, 2, .ro, .none, .const 0, true, 36⟩]⟩] ++
  -- AN_EVT
  [⟨12, [],
    [⟨0, 1, .w1c, .none, .const 0, true, 1⟩,
     ⟨1, 1, .w1c, .none, .const 0, true, 36⟩,
     ⟨2, 1, .w1c, .none, .const 0, true, 3⟩,
     ⟨3, 1, .w1c, .none, .const 0, true, 36⟩,
     ⟨4, 1, .w1c, .none, .const 0, true, 5⟩,
     ⟨5, 1, .w1c, .none, .const 0, true, 36⟩,
     ⟨6, 1, .w1c, .none, .const 0, true, 7⟩,
     ⟨7, 1, .w1c, .none, .const 0, true, 36⟩,
     ⟨8, 1, .w1c, .none, .const 0, true, 9⟩,
     ⟨9, 1, .w1c, .none, .const 0, true, 36⟩,
     ⟨10, 1, .w1c, .none, .const 0, true, 11⟩,
     ⟨11, 1, .w1c, .none, .const 0, true, 36⟩,
     ⟨12, 8, .w1c, .none, .const 0, true, 20⟩,
     ⟨20, 8, .w1c, .none, .const 0, true, 36⟩]⟩] ++
  -- AN_TIME_HI
  [⟨13, [],
    [⟨0, 36, .ro, .none, .const 0, true, 36⟩]⟩] ++
  -- AN_TIME_LO
  [⟨14, [],
    [⟨0, 36, .ro, .none, .const 3, true, 36⟩]⟩] ++
  -- AN_SNAP
  [⟨15, [],
    [⟨0, 36, .wo, .none, .const 0, false, 36⟩]⟩] ++
  -- AN_SNAP_HI
  [⟨16, [],
    [⟨0, 36, .ro, .none, .const 0, true, 36⟩]⟩] ++
  -- AN_SNAP_LO
  [⟨17, [],
    [⟨0, 36, .ro, .none, .const 3, true, 36⟩]⟩] ++
  -- AN_SNAP_A
  [⟨18, [(1, 8)],
    [⟨0, 36, .ro, .none, .const 0, true, 36⟩]⟩] ++
  -- AN_PPS_HI
  [⟨26, [],
    [⟨0, 36, .ro, .none, .const 0, true, 36⟩]⟩] ++
  -- AN_PPS_LO
  [⟨27, [],
    [⟨0, 36, .ro, .none, .const 3, true, 36⟩]⟩] ++
  -- AN_IRIG_HI
  [⟨28, [],
    [⟨0, 36, .ro, .none, .const 0, true, 36⟩]⟩] ++
  -- AN_IRIG_LO
  [⟨29, [],
    [⟨0, 36, .ro, .none, .const 3, true, 36⟩]⟩] ++
  -- AN_SET_HI
  [⟨30, [],
    [⟨0, 36, .rw, .none, .const 0, true, 36⟩]⟩] ++
  -- AN_SET_LO
  [⟨31, [],
    [⟨0, 36, .rw, .none, .const 0, true, 36⟩]⟩] ++
  -- AN_VIEW
  [⟨32, [(1, 16)],
    [⟨0, 32, .rw, .lk, .view, true, 36⟩]⟩] ++
  -- AN_REF_CFG
  [⟨64, [(16, 8)],
    [⟨0, 1, .rw, .lk, .const 0, true, 36⟩,
     ⟨1, 1, .rw, .lk, .const 0, true, 36⟩,
     ⟨2, 2, .rw, .lk, .const 0, true, 36⟩,
     ⟨4, 1, .rw, .lk, .const 0, true, 36⟩,
     ⟨5, 10, .rw, .lk, .const 0, true, 36⟩,
     ⟨15, 5, .rw, .lk, .const 0, true, 36⟩,
     ⟨20, 1, .rw, .lk, .const 0, true, 36⟩]⟩] ++
  -- AN_REF_STAT
  [⟨65, [(16, 8)],
    [⟨0, 3, .ro, .none, .const 0, true, 36⟩,
     ⟨3, 1, .ro, .none, .const 0, true, 36⟩,
     ⟨4, 4, .ro, .none, .const 0, true, 36⟩,
     ⟨18, 18, .ro, .none, .const 0, true, 36⟩]⟩] ++
  -- AN_REF_ANG
  [⟨66, [(16, 8)],
    [⟨0, 36, .ro, .none, .const 0, true, 36⟩]⟩] ++
  -- AN_REF_FREQ
  [⟨67, [(16, 8)],
    [⟨0, 36, .ro, .none, .const 0, true, 36⟩]⟩] ++
  -- AN_REF_FMIN
  [⟨68, [(16, 8)],
    [⟨0, 36, .rw, .lk, .const 0o001200000000, true, 36⟩]⟩] ++
  -- AN_REF_FMAX
  [⟨69, [(16, 8)],
    [⟨0, 36, .rw, .lk, .const 0o012000000000, true, 36⟩]⟩] ++
  -- AN_REF_ROCOF
  [⟨70, [(16, 8)],
    [⟨0, 36, .rw, .lk, .const 0o000500000000, true, 36⟩]⟩] ++
  -- AN_REF_LOCK
  [⟨71, [(16, 8)],
    [⟨0, 18, .rw, .lk, .const 0o004432, true, 36⟩,
     ⟨18, 4, .rw, .lk, .const 0o02, true, 36⟩,
     ⟨22, 4, .rw, .lk, .const 0o02, true, 36⟩,
     ⟨26, 9, .rw, .lk, .const 0o146, true, 36⟩]⟩] ++
  -- AN_REF_HOLD
  [⟨72, [(16, 8)],
    [⟨0, 18, .rw, .lk, .const 0o003720, true, 36⟩,
     ⟨18, 18, .rw, .lk, .const 0o400000, true, 36⟩]⟩] ++
  -- AN_REF_SLEW
  [⟨73, [(16, 8)],
    [⟨0, 36, .rw, .lk, .const 0o000040000000, true, 36⟩]⟩] ++
  -- AN_REF_PHOFF
  [⟨74, [(16, 8)],
    [⟨0, 24, .rw, .lk, .const 0, true, 36⟩]⟩] ++
  -- AN_REF_PERR
  [⟨75, [(16, 8)],
    [⟨0, 36, .ro, .none, .const 0, true, 36⟩]⟩] ++
  -- AN_REF_INC
  [⟨76, [(16, 8)],
    [⟨0, 36, .ro, .none, .const 0, true, 36⟩]⟩] ++
  -- AN_REF_CNT
  [⟨77, [(16, 8)],
    [⟨0, 18, .rc, .none, .const 0, true, 36⟩,
     ⟨18, 18, .rc, .none, .const 0, true, 36⟩]⟩] ++
  -- AN_REF_LOOP
  [⟨78, [(16, 8)],
    [⟨0, 6, .rw, .lk, .const 0o04, true, 36⟩,
     ⟨6, 6, .rw, .lk, .const 0o12, true, 36⟩]⟩] ++
  -- AN_REF_RSV
  [⟨79, [(16, 8)],
    [⟨0, 36, .ro, .none, .const 0, false, 36⟩]⟩] ++
  -- AN_VP_ANG
  [⟨256, [(32, 16), (1, 8)],
    [⟨0, 36, .ro, .none, .const 0, true, 36⟩]⟩] ++
  -- AN_VP_STAT
  [⟨264, [(32, 16), (1, 8)],
    [⟨0, 36, .ro, .none, .const 0, true, 36⟩]⟩] ++
  -- AN_VP_FREQ
  [⟨272, [(32, 16), (1, 8)],
    [⟨0, 36, .ro, .none, .const 0, true, 36⟩]⟩] ++
  -- AN_VP_HI
  [⟨280, [(32, 16)],
    [⟨0, 36, .ro, .none, .const 0, true, 36⟩]⟩] ++
  -- AN_VP_LO
  [⟨281, [(32, 16)],
    [⟨0, 36, .ro, .none, .const 3, true, 36⟩]⟩]

/-- The SC_ map (spec/03_contexts_scheduler.md, R113). -/
def mapSC : List RegArr :=
  -- SC_CFG
  [⟨0, [],
    [⟨0, 1, .rw, .lk, .const 0, false, 36⟩,
     ⟨1, 12, .rw, .lk, .const 0o1000, true, 36⟩]⟩] ++
  -- SC_STAT
  [⟨1, [],
    [⟨0, 9, .ro, .none, .const 0, false, 36⟩,
     ⟨9, 9, .ro, .none, .const 0, false, 36⟩,
     ⟨18, 13, .ro, .none, .const 0, false, 36⟩]⟩] ++
  -- SC_PRANGE
  [⟨2, [(1, 16)],
    [⟨0, 8, .rw, .sh, .const 0, true, 36⟩,
     ⟨8, 9, .rw, .sh, .part0 0o400 0, true, 36⟩]⟩] ++
  -- SC_EVOWN
  [⟨18, [(1, 64)],
    [⟨0, 32, .rw, .lk, .const 0, true, 36⟩]⟩] ++
  -- SC_CMD
  [⟨128, [(16, 16)],
    [⟨0, 4, .wo, .none, .const 0, false, 36⟩,
     ⟨4, 12, .wo, .none, .const 0, false, 36⟩,
     ⟨16, 20, .wo, .none, .const 0, false, 36⟩]⟩] ++
  -- SC_RESULT
  [⟨129, [(16, 16)],
    [⟨0, 4, .ro, .none, .const 0, false, 36⟩,
     ⟨4, 1, .ro, .none, .const 1, false, 36⟩,
     ⟨5, 12, .ro, .none, .const 0, false, 36⟩,
     ⟨17, 1, .w1c, .none, .const 0, false, 18⟩,
     ⟨18, 1, .w1c, .none, .const 0, false, 36⟩]⟩] ++
  -- SC_PSTAT
  [⟨130, [(16, 16)],
    [⟨0, 1, .w1c, .none, .const 0, false, 1⟩,
     ⟨1, 1, .w1c, .none, .const 0, false, 36⟩,
     ⟨2, 1, .w1c, .none, .const 0, false, 3⟩,
     ⟨3, 1, .w1c, .none, .const 0, false, 36⟩,
     ⟨4, 1, .w1c, .none, .const 0, false, 5⟩,
     ⟨5, 1, .w1c, .none, .const 0, false, 36⟩,
     ⟨6, 1, .w1c, .none, .const 0, false, 7⟩,
     ⟨7, 1, .w1c, .none, .const 0, false, 36⟩,
     ⟨8, 1, .w1c, .none, .const 0, false, 9⟩,
     ⟨9, 1, .w1c, .none, .const 0, false, 36⟩,
     ⟨10, 1, .w1c, .none, .const 0, false, 11⟩,
     ⟨11, 1, .w1c, .none, .const 0, false, 36⟩,
     ⟨12, 1, .w1c, .none, .const 0, false, 13⟩,
     ⟨13, 1, .w1c, .none, .const 0, false, 36⟩]⟩] ++
  -- SC_PLATE
  [⟨131, [(16, 16)],
    [⟨0, 36, .rc, .none, .const 0, false, 36⟩]⟩] ++
  -- SC_PMISS
  [⟨132, [(16, 16)],
    [⟨0, 36, .rc, .none, .const 0, false, 36⟩]⟩] ++
  -- SC_POVR
  [⟨133, [(16, 16)],
    [⟨0, 36, .rc, .none, .const 0, false, 36⟩]⟩] ++
  -- SC_EVRAISE
  [⟨134, [(16, 16)],
    [⟨0, 10, .wo, .none, .const 0, false, 36⟩]⟩] ++
  -- SC_OPAGE_F
  [⟨1024, [(2, 256)],
    [⟨0, 26, .rw, .lk, .const 0, true, 36⟩,
     ⟨26, 1, .rw, .lk, .const 0, true, 36⟩,
     ⟨27, 1, .rw, .lk, .const 0, true, 36⟩]⟩] ++
  -- SC_OPAGE_C
  [⟨1025, [(2, 256)],
    [⟨0, 12, .rw, .lk, .const 0, true, 36⟩]⟩]

/-- The FN_ map (spec/03_contexts_scheduler.md, R113). -/
def mapFN : List RegArr :=
  -- FN_STAT
  [⟨0, [],
    [⟨0, 1, .ro, .none, .const 1, false, 36⟩,
     ⟨1, 1, .ro, .none, .const 1, false, 36⟩]⟩] ++
  -- FN_ERR
  [⟨1, [],
    [⟨0, 18, .rc, .none, .const 0, true, 36⟩,
     ⟨18, 18, .rc, .none, .const 0, true, 36⟩]⟩] ++
  -- FN_UELOG
  [⟨2, [],
    [⟨0, 12, .ro, .none, .const 0, true, 36⟩,
     ⟨12, 8, .ro, .none, .const 0, true, 36⟩,
     ⟨20, 1, .w1c, .none, .const 0, true, 21⟩,
     ⟨21, 1, .w1c, .none, .const 0, true, 36⟩]⟩] ++
  -- FN_RSV
  [⟨3, [],
    [⟨0, 36, .ro, .none, .const 0, false, 36⟩]⟩] ++
  -- FN_PMAX
  [⟨4, [(1, 12)],
    [⟨0, 18, .rc, .none, .const 0, false, 36⟩,
     ⟨18, 18, .rc, .none, .const 0, false, 36⟩]⟩]

/-- The CP_ map (spec/07_privilege_traps.md, R236). -/
def mapCP : List RegArr :=
  -- CP_SVBASE
  [⟨0, [(256, 16), (4, 2)],
    [⟨11, 25, .rw, .secSh, .const 0, true, 36⟩]⟩] ++
  -- CP_EVEC
  [⟨1, [(256, 16), (4, 2)],
    [⟨2, 34, .rw, .lkSecSh, .const 0, true, 36⟩]⟩] ++
  -- CP_ETTB
  [⟨2, [(256, 16), (4, 2)],
    [⟨0, 32, .rw, .lkSecSh, .const 0, true, 36⟩,
     ⟨35, 1, .rw, .lkSecSh, .const 0, true, 36⟩]⟩] ++
  -- CP_ESP
  [⟨3, [(256, 16), (4, 2)],
    [⟨0, 36, .rw, .lkSecSh, .const 0, true, 36⟩]⟩] ++
  -- CP_IRQ
  [⟨8, [(256, 16), (1, 64)],
    [⟨0, 10, .rw, .none, .const 0, true, 36⟩,
     ⟨10, 12, .rw, .none, .const 0, true, 36⟩,
     ⟨22, 3, .rw, .none, .const 0, true, 36⟩,
     ⟨25, 1, .rw, .none, .const 0, true, 36⟩,
     ⟨26, 1, .rw, .none, .const 0, true, 36⟩]⟩] ++
  -- CP_IPEND
  [⟨72, [(256, 16), (1, 4)],
    [⟨0, 16, .w1c, .none, .const 0, false, 16⟩,
     ⟨16, 16, .w1c, .none, .const 0, false, 36⟩]⟩] ++
  -- CP_ISTAT
  [⟨76, [(256, 16)],
    [⟨0, 1, .w1c, .none, .const 0, false, 1⟩,
     ⟨1, 1, .w1c, .none, .const 0, false, 36⟩,
     ⟨2, 1, .w1c, .none, .const 0, false, 3⟩,
     ⟨3, 1, .w1c, .none, .const 0, false, 36⟩,
     ⟨4, 1, .w1c, .none, .const 0, false, 5⟩,
     ⟨5, 1, .w1c, .none, .const 0, false, 36⟩]⟩] ++
  -- CP_ASELA
  [⟨77, [(256, 16)],
    [⟨0, 36, .ro, .none, .const 0, false, 36⟩]⟩] ++
  -- CP_ASELC
  [⟨78, [(256, 16)],
    [⟨0, 12, .ro, .none, .const 0, false, 36⟩,
     ⟨12, 3, .ro, .none, .const 0, false, 36⟩]⟩]

/-- The TL_ map (spec/08_memory_management.md, R265). -/
def mapTL : List RegArr :=
  -- TL_WB
  [⟨0, [(64, 16), (2, 32)],
    [⟨0, 32, .rw, .sh, .const 0, true, 36⟩,
     ⟨32, 1, .rw, .sh, .win 1, true, 36⟩,
     ⟨33, 1, .rw, .sh, .win 1, true, 36⟩,
     ⟨34, 1, .rw, .sh, .win 1, true, 36⟩]⟩] ++
  -- TL_WL
  [⟨1, [(64, 16), (2, 32)],
    [⟨0, 32, .rw, .sh, .win 0o37777777777, true, 36⟩,
     ⟨32, 1, .rw, .sh, .win 1, true, 36⟩]⟩] ++
  -- TL_STAT
  [⟨1024, [],
    [⟨0, 1, .ro, .none, .const 0, false, 36⟩,
     ⟨1, 1, .w1c, .none, .const 0, false, 2⟩,
     ⟨2, 1, .w1c, .none, .const 0, false, 36⟩]⟩] ++
  -- TL_PVA
  [⟨1088, [(16, 48)],
    [⟨0, 36, .rw, .none, .const 0, false, 36⟩]⟩] ++
  -- TL_PROOT
  [⟨1089, [(16, 48)],
    [⟨0, 32, .rw, .none, .const 0, false, 36⟩,
     ⟨35, 1, .rw, .none, .const 0, false, 36⟩]⟩] ++
  -- TL_PCMD
  [⟨1090, [(16, 48)],
    [⟨0, 2, .wo, .none, .const 0, false, 36⟩]⟩] ++
  -- TL_PRES
  [⟨1091, [(16, 48)],
    [⟨0, 4, .ro, .none, .const 0, false, 36⟩,
     ⟨4, 1, .ro, .none, .const 1, false, 36⟩,
     ⟨5, 6, .ro, .none, .const 0, false, 36⟩,
     ⟨11, 4, .ro, .none, .const 0, false, 36⟩,
     ⟨15, 1, .w1c, .none, .const 0, false, 16⟩,
     ⟨16, 1, .w1c, .none, .const 0, false, 36⟩]⟩] ++
  -- TL_PSTAT
  [⟨1092, [(16, 48)],
    [⟨0, 1, .w1c, .none, .const 0, false, 1⟩,
     ⟨1, 1, .w1c, .none, .const 0, false, 36⟩]⟩] ++
  -- TL_PUSED
  [⟨1093, [(16, 48)],
    [⟨0, 7, .ro, .none, .const 0, false, 36⟩]⟩] ++
  -- TL_PLOST
  [⟨1094, [(16, 48)],
    [⟨0, 36, .ro, .none, .const 0, false, 36⟩]⟩]

/-- The CH_ map (spec/09_caches_coherence.md, R297). -/
def mapCH : List RegArr :=
  -- CH_CFG
  [⟨0, [],
    [⟨0, 5, .rw, .lk, .const 0o20, true, 36⟩,
     ⟨5, 1, .rw, .lk, .const 1, true, 36⟩]⟩] ++
  -- CH_STAT
  [⟨1, [],
    [⟨0, 16, .ro, .none, .const 0, false, 36⟩,
     ⟨16, 1, .ro, .none, .const 0, false, 36⟩]⟩] ++
  -- CH_DCMD
  [⟨2, [],
    [⟨0, 4, .wo, .sh, .const 0, false, 36⟩,
     ⟨4, 2, .wo, .sh, .const 0, false, 36⟩]⟩] ++
  -- CH_LKCMD
  [⟨3, [],
    [⟨0, 2, .wo, .sh, .const 0, false, 36⟩,
     ⟨2, 6, .wo, .sh, .const 0, false, 36⟩]⟩] ++
  -- CH_RES
  [⟨4, [],
    [⟨0, 4, .ro, .none, .const 0, false, 36⟩,
     ⟨4, 1, .ro, .none, .const 1, false, 36⟩,
     ⟨5, 1, .w1c, .none, .const 0, false, 6⟩,
     ⟨6, 1, .w1c, .none, .const 0, false, 36⟩]⟩] ++
  -- CH_ELOGA
  [⟨5, [],
    [⟨0, 32, .ro, .none, .const 0, true, 36⟩,
     ⟨32, 4, .ro, .none, .const 0, true, 36⟩]⟩] ++
  -- CH_ELOGB
  [⟨6, [],
    [⟨0, 12, .ro, .none, .const 0, true, 36⟩,
     ⟨12, 5, .ro, .none, .const 0, true, 36⟩,
     ⟨17, 1, .ro, .none, .const 0, true, 36⟩,
     ⟨18, 1, .w1c, .none, .const 0, true, 19⟩,
     ⟨19, 1, .w1c, .none, .const 0, true, 36⟩]⟩] ++
  -- CH_EVT
  [⟨7, [],
    [⟨0, 1, .w1c, .none, .const 0, false, 1⟩,
     ⟨1, 1, .w1c, .none, .const 0, false, 36⟩,
     ⟨2, 1, .w1c, .none, .const 0, false, 3⟩,
     ⟨3, 1, .w1c, .none, .const 0, false, 36⟩,
     ⟨4, 1, .w1c, .none, .const 0, false, 5⟩,
     ⟨5, 1, .w1c, .none, .const 0, false, 36⟩,
     ⟨6, 1, .w1c, .none, .const 0, false, 7⟩,
     ⟨7, 1, .w1c, .none, .const 0, false, 36⟩,
     ⟨8, 1, .w1c, .none, .const 0, false, 9⟩,
     ⟨9, 1, .w1c, .none, .const 0, false, 36⟩,
     ⟨10, 1, .w1c, .none, .const 0, false, 11⟩,
     ⟨11, 1, .w1c, .none, .const 0, false, 36⟩,
     ⟨12, 1, .w1c, .none, .const 0, false, 13⟩,
     ⟨13, 1, .w1c, .none, .const 0, false, 36⟩]⟩] ++
  -- CH_CNT
  [⟨8, [(1, 20)],
    [⟨0, 18, .rc, .none, .const 0, true, 36⟩,
     ⟨18, 18, .rc, .none, .const 0, true, 36⟩]⟩] ++
  -- CH_LKMISS
  [⟨28, [(1, 12)],
    [⟨0, 36, .rc, .none, .const 0, true, 36⟩]⟩] ++
  -- CH_L2B
  [⟨64, [(8, 12), (2, 4)],
    [⟨0, 21, .rw, .sh, .const 0, true, 36⟩]⟩] ++
  -- CH_L2C
  [⟨65, [(8, 12), (2, 4)],
    [⟨0, 4, .rw, .sh, .const 0, true, 36⟩,
     ⟨4, 4, .rw, .sh, .const 0, true, 36⟩,
     ⟨8, 4, .rw, .sh, .const 0, true, 36⟩,
     ⟨12, 1, .rw, .sh, .const 0, true, 36⟩,
     ⟨13, 2, .ro, .none, .const 0, true, 36⟩]⟩] ++
  -- CH_LLB
  [⟨160, [(2, 8)],
    [⟨0, 17, .rw, .sh, .const 0, true, 36⟩]⟩] ++
  -- CH_LLC
  [⟨161, [(2, 8)],
    [⟨0, 4, .rw, .sh, .const 0, true, 36⟩,
     ⟨4, 4, .rw, .sh, .const 0, true, 36⟩,
     ⟨8, 4, .rw, .sh, .const 0, true, 36⟩,
     ⟨13, 2, .ro, .none, .const 0, true, 36⟩]⟩]

/-- The LS_ map (spec/10_lockstep_pairs.md, R318). -/
def mapLS : List RegArr :=
  -- LS_EVT
  [⟨0, [],
    [⟨0, 1, .w1c, .none, .const 0, false, 1⟩,
     ⟨1, 1, .w1c, .none, .const 0, false, 36⟩,
     ⟨2, 1, .w1c, .none, .const 0, false, 3⟩,
     ⟨3, 1, .w1c, .none, .const 0, false, 36⟩,
     ⟨4, 1, .w1c, .none, .const 0, false, 5⟩,
     ⟨5, 1, .w1c, .none, .const 0, false, 36⟩,
     ⟨6, 1, .w1c, .none, .const 0, false, 7⟩,
     ⟨7, 1, .w1c, .none, .const 0, false, 36⟩,
     ⟨8, 1, .w1c, .none, .const 0, false, 9⟩,
     ⟨9, 1, .w1c, .none, .const 0, false, 36⟩,
     ⟨10, 1, .w1c, .none, .const 0, false, 11⟩,
     ⟨11, 1, .w1c, .none, .const 0, false, 36⟩,
     ⟨12, 1, .w1c, .none, .const 0, false, 13⟩,
     ⟨13, 1, .w1c, .none, .const 0, false, 36⟩,
     ⟨14, 1, .w1c, .none, .const 0, false, 15⟩,
     ⟨15, 1, .w1c, .none, .const 0, false, 36⟩,
     ⟨16, 1, .w1c, .none, .const 0, false, 17⟩,
     ⟨17, 1, .w1c, .none, .const 0, false, 36⟩]⟩] ++
  -- LS_CFG
  [⟨16, [(8, 24)],
    [⟨0, 5, .rw, .sh, .const 0, true, 36⟩,
     ⟨5, 1, .rw, .sh, .const 0, true, 36⟩,
     ⟨6, 1, .rw, .sh, .const 0, true, 36⟩]⟩] ++
  -- LS_CMD
  [⟨17, [(8, 24)],
    [⟨0, 3, .wo, .sh, .const 0, false, 36⟩]⟩] ++
  -- LS_RES
  [⟨18, [(8, 24)],
    [⟨0, 4, .ro, .none, .const 0, false, 36⟩,
     ⟨4, 1, .ro, .none, .const 1, false, 36⟩,
     ⟨5, 1, .w1c, .none, .const 0, false, 6⟩,
     ⟨6, 1, .w1c, .none, .const 0, false, 36⟩]⟩] ++
  -- LS_STAT
  [⟨19, [(8, 24)],
    [⟨0, 3, .ro, .none, .const 0, false, 36⟩,
     ⟨3, 5, .ro, .none, .const 0, false, 36⟩,
     ⟨8, 1, .ro, .none, .const 0, true, 36⟩,
     ⟨9, 1, .ro, .none, .const 0, true, 36⟩,
     ⟨10, 7, .ro, .none, .const 0, false, 36⟩]⟩] ++
  -- LS_LOGA
  [⟨20, [(8, 24)],
    [⟨0, 36, .ro, .none, .const 0, true, 36⟩]⟩] ++
  -- LS_LOGB
  [⟨21, [(8, 24)],
    [⟨0, 3, .ro, .none, .const 0, true, 36⟩,
     ⟨3, 4, .ro, .none, .const 0, true, 36⟩,
     ⟨7, 12, .ro, .none, .const 0, true, 36⟩,
     ⟨19, 1, .w1c, .none, .const 0, true, 20⟩,
     ⟨20, 1, .w1c, .none, .const 0, true, 36⟩]⟩] ++
  -- LS_CNT
  [⟨22, [(8, 24)],
    [⟨0, 12, .rc, .none, .const 0, true, 36⟩,
     ⟨12, 12, .rc, .none, .const 0, true, 36⟩,
     ⟨24, 12, .rc, .none, .const 0, true, 36⟩]⟩]

/-- The MC_ map (spec/11_dram_controller.md, R347). -/
def mapMC : List RegArr :=
  -- MC_MAP
  [⟨0, [],
    [⟨0, 6, .rw, .sh, .const 0, true, 36⟩,
     ⟨6, 4, .rw, .sh, .const 0, true, 36⟩,
     ⟨10, 1, .rw, .sh, .const 0, true, 36⟩,
     ⟨11, 1, .rw, .sh, .const 0, true, 36⟩]⟩] ++
  -- MC_CMD
  [⟨1, [],
    [⟨0, 4, .wo, .sh, .const 0, false, 36⟩,
     ⟨4, 3, .wo, .sh, .const 0, false, 36⟩,
     ⟨7, 1, .wo, .sh, .const 0, false, 36⟩]⟩] ++
  -- MC_RES
  [⟨2, [],
    [⟨0, 4, .ro, .none, .const 0, false, 36⟩,
     ⟨4, 1, .ro, .none, .const 1, false, 36⟩,
     ⟨5, 1, .w1c, .none, .const 0, false, 6⟩,
     ⟨6, 1, .w1c, .none, .const 0, false, 36⟩,
     ⟨7, 4, .ro, .none, .const 0, false, 36⟩]⟩] ++
  -- MC_EVT
  [⟨3, [],
    [⟨0, 1, .w1c, .none, .const 0, false, 1⟩,
     ⟨1, 1, .w1c, .none, .const 0, false, 36⟩,
     ⟨2, 1, .w1c, .none, .const 0, false, 3⟩,
     ⟨3, 1, .w1c, .none, .const 0, false, 36⟩,
     ⟨4, 1, .w1c, .none, .const 0, false, 5⟩,
     ⟨5, 1, .w1c, .none, .const 0, false, 36⟩,
     ⟨6, 1, .w1c, .none, .const 0, false, 7⟩,
     ⟨7, 1, .w1c, .none, .const 0, false, 36⟩,
     ⟨8, 1, .w1c, .none, .const 0, false, 9⟩,
     ⟨9, 1, .w1c, .none, .const 0, false, 36⟩,
     ⟨10, 1, .w1c, .none, .const 0, false, 11⟩,
     ⟨11, 1, .w1c, .none, .const 0, false, 36⟩,
     ⟨12, 1, .w1c, .none, .const 0, false, 13⟩,
     ⟨13, 1, .w1c, .none, .const 0, false, 36⟩,
     ⟨14, 1, .w1c, .none, .const 0, false, 15⟩,
     ⟨15, 1, .w1c, .none, .const 0, false, 36⟩,
     ⟨16, 1, .w1c, .none, .const 0, false, 17⟩,
     ⟨17, 1, .w1c, .none, .const 0, false, 36⟩]⟩] ++
  -- MC_QW
  [⟨4, [(1, 2)],
    [⟨0, 32, .rw, .sh, .const 0o002104210421, true, 36⟩]⟩] ++
  -- MC_NRSEED
  [⟨6, [],
    [⟨0, 36, .rw, .sh, .const 1, true, 36⟩]⟩] ++
  -- MC_CHCFG
  [⟨64, [(64, 6)],
    [⟨0, 1, .rw, .sh, .const 0, true, 36⟩,
     ⟨1, 1, .rw, .sh, .const 0, true, 36⟩,
     ⟨2, 1, .rw, .sh, .const 0, true, 36⟩,
     ⟨3, 1, .rw, .sh, .const 0, true, 36⟩,
     ⟨4, 1, .rw, .sh, .const 1, true, 36⟩,
     ⟨5, 1, .rw, .sh, .const 0, true, 36⟩]⟩] ++
  -- MC_CHSTAT
  [⟨65, [(64, 6)],
    [⟨0, 3, .ro, .none, .const 0, true, 36⟩,
     ⟨3, 2, .ro, .none, .const 0, true, 36⟩,
     ⟨5, 2, .ro, .none, .const 0, false, 36⟩,
     ⟨7, 2, .ro, .none, .const 0, false, 36⟩,
     ⟨9, 7, .ro, .none, .const 0, false, 36⟩,
     ⟨16, 7, .ro, .none, .const 0, false, 36⟩]⟩] ++
  -- MC_TIM0
  [⟨66, [(64, 6)],
    [⟨0, 8, .rw, .sh, .const 0o064, true, 36⟩,
     ⟨8, 8, .rw, .sh, .const 0o062, true, 36⟩,
     ⟨16, 8, .rw, .sh, .const 0o064, true, 36⟩,
     ⟨24, 8, .rw, .sh, .const 0o064, true, 36⟩]⟩] ++
  -- MC_TIM1
  [⟨67, [(64, 6)],
    [⟨0, 8, .rw, .sh, .const 0o147, true, 36⟩,
     ⟨8, 8, .rw, .sh, .const 0o140, true, 36⟩,
     ⟨16, 8, .rw, .sh, .const 0o040, true, 36⟩,
     ⟨24, 6, .rw, .sh, .const 0o20, true, 36⟩,
     ⟨30, 6, .rw, .sh, .const 0o10, true, 36⟩]⟩] ++
  -- MC_TIM2
  [⟨68, [(64, 6)],
    [⟨0, 12, .rw, .sh, .const 0o1660, true, 36⟩,
     ⟨12, 16, .rw, .sh, .const 0o030300, true, 36⟩,
     ⟨28, 8, .rw, .sh, .const 0o040, true, 36⟩]⟩] ++
  -- MC_SCHED
  [⟨69, [(64, 6)],
    [⟨0, 7, .rw, .sh, .const 0o060, true, 36⟩,
     ⟨7, 7, .rw, .sh, .const 0o020, true, 36⟩,
     ⟨14, 4, .rw, .sh, .const 0o12, true, 36⟩,
     ⟨18, 1, .rw, .sh, .const 1, true, 36⟩]⟩] ++
  -- MC_RT
  [⟨70, [(64, 6)],
    [⟨0, 8, .rw, .sh, .const 0o020, true, 36⟩,
     ⟨8, 5, .rw, .sh, .const 0o30, true, 36⟩,
     ⟨13, 1, .rw, .sh, .const 1, true, 36⟩]⟩] ++
  -- MC_NR
  [⟨71, [(64, 6)],
    [⟨0, 5, .rw, .sh, .const 0o12, true, 36⟩,
     ⟨5, 1, .rw, .sh, .const 0, true, 36⟩,
     ⟨6, 1, .rw, .sh, .const 1, true, 36⟩]⟩] ++
  -- MC_SP
  [⟨72, [(64, 6)],
    [⟨0, 24, .rw, .sh, .const 0o00010000, true, 36⟩,
     ⟨24, 4, .rw, .sh, .const 0o06, true, 36⟩,
     ⟨28, 5, .rw, .sh, .const 0o16, true, 36⟩,
     ⟨33, 1, .rw, .sh, .const 1, true, 36⟩]⟩] ++
  -- MC_CP
  [⟨73, [(64, 6)],
    [⟨0, 29, .ro, .none, .const 0, true, 36⟩]⟩] ++
  -- MC_ELOGA
  [⟨74, [(64, 6)],
    [⟨0, 29, .ro, .none, .const 0, true, 36⟩,
     ⟨29, 1, .ro, .none, .const 0, true, 36⟩,
     ⟨30, 4, .ro, .none, .const 0, true, 36⟩]⟩] ++
  -- MC_ELOGB
  [⟨75, [(64, 6)],
    [⟨0, 12, .ro, .none, .const 0, true, 36⟩,
     ⟨12, 2, .ro, .none, .const 0, true, 36⟩,
     ⟨14, 1, .w1c, .none, .const 0, true, 15⟩,
     ⟨15, 1, .w1c, .none, .const 0, true, 36⟩]⟩] ++
  -- MC_RCNT
  [⟨76, [(64, 6), (1, 2)],
    [⟨0, 24, .rw, .sh, .const 0, true, 36⟩,
     ⟨24, 12, .rw, .sh, .const 0, true, 36⟩]⟩] ++
  -- MC_NRCNT
  [⟨78, [(64, 6)],
    [⟨0, 36, .rc, .none, .const 0, true, 36⟩]⟩] ++
  -- MC_DCNT
  [⟨80, [(64, 6), (2, 2), (1, 2)],
    [⟨0, 36, .rw, .sh, .const 0, true, 36⟩]⟩] ++
  -- MC_MEAS
  [⟨84, [(64, 6), (1, 12)],
    [⟨0, 12, .ro, .none, .const 0, false, 36⟩,
     ⟨12, 12, .ro, .none, .const 0, false, 36⟩,
     ⟨24, 6, .ro, .none, .const 0, false, 36⟩,
     ⟨30, 1, .ro, .none, .const 0, false, 36⟩]⟩] ++
  -- MC_DLY
  [⟨96, [(64, 6), (12, 2), (1, 12)],
    [⟨0, 12, .rw, .sh, .const 0, true, 36⟩,
     ⟨12, 12, .rw, .sh, .const 0, true, 36⟩,
     ⟨24, 6, .ro, .none, .const 0, true, 36⟩,
     ⟨30, 6, .ro, .none, .const 0, true, 36⟩]⟩]

/-- The NP_ map (spec/12_network_ports_switch.md, R378). -/
def mapNP : List RegArr :=
  -- NP_CFG
  [⟨0, [],
    [⟨0, 2, .rw, .lk, .const 0, true, 36⟩,
     ⟨2, 2, .rw, .lk, .const 0, true, 36⟩,
     ⟨4, 1, .rw, .lk, .const 0, true, 36⟩,
     ⟨5, 9, .rw, .lk, .const 0o454, true, 36⟩,
     ⟨14, 1, .wo, .none, .const 0, false, 36⟩,
     ⟨15, 1, .rw, .lk, .const 0, true, 36⟩,
     ⟨16, 6, .rw, .lk, .const 0o60, true, 36⟩]⟩] ++
  -- NP_EVT
  [⟨1, [],
    [⟨0, 6, .w1c, .none, .const 0, false, 6⟩,
     ⟨6, 6, .w1c, .none, .const 0, false, 36⟩,
     ⟨12, 1, .w1c, .none, .const 0, false, 13⟩,
     ⟨13, 1, .w1c, .none, .const 0, false, 36⟩,
     ⟨14, 1, .w1c, .none, .const 0, false, 15⟩,
     ⟨15, 1, .w1c, .none, .const 0, false, 36⟩,
     ⟨16, 1, .w1c, .none, .const 0, false, 17⟩,
     ⟨17, 1, .w1c, .none, .const 0, false, 36⟩,
     ⟨18, 1, .w1c, .none, .const 0, false, 19⟩,
     ⟨19, 1, .w1c, .none, .const 0, false, 36⟩,
     ⟨20, 1, .w1c, .none, .const 0, false, 21⟩,
     ⟨21, 1, .w1c, .none, .const 0, false, 36⟩,
     ⟨22, 1, .w1c, .none, .const 0, false, 23⟩,
     ⟨23, 1, .w1c, .none, .const 0, false, 36⟩,
     ⟨24, 1, .w1c, .none, .const 0, false, 25⟩,
     ⟨25, 1, .w1c, .none, .const 0, false, 36⟩,
     ⟨26, 1, .w1c, .none, .const 0, false, 27⟩,
     ⟨27, 1, .w1c, .none, .const 0, false, 36⟩,
     ⟨28, 1, .w1c, .none, .const 0, false, 29⟩,
     ⟨29, 1, .w1c, .none, .const 0, false, 36⟩]⟩] ++
  -- NP_FBCFG
  [⟨2, [],
    [⟨0, 15, .rw, .lk, .const 0o04000, true, 36⟩,
     ⟨15, 15, .rw, .lk, .const 0o20000, true, 36⟩]⟩] ++
  -- NP_FBSTAT
  [⟨3, [],
    [⟨0, 16, .ro, .none, .const 0o100000, false, 36⟩,
     ⟨16, 16, .rc, .none, .const 0o100000, false, 36⟩]⟩] ++
  -- NP_PTPCFG
  [⟨4, [],
    [⟨0, 6, .rw, .lk, .const 0, true, 36⟩,
     ⟨6, 8, .rw, .lk, .const 0, true, 36⟩,
     ⟨14, 1, .rw, .lk, .const 0, true, 36⟩,
     ⟨15, 3, .rw, .lk, .const 0, true, 36⟩,
     ⟨18, 1, .rw, .lk, .const 1, true, 36⟩,
     ⟨19, 4, .rw, .lk, .const 0o03, true, 36⟩]⟩] ++
  -- NP_PTPSTAT
  [⟨5, [],
    [⟨0, 2, .ro, .none, .const 0, false, 36⟩,
     ⟨2, 3, .ro, .none, .const 7, false, 36⟩,
     ⟨5, 8, .ro, .none, .const 0, false, 36⟩,
     ⟨13, 1, .ro, .none, .const 0, false, 36⟩]⟩] ++
  -- NP_DXADDR
  [⟨6, [],
    [⟨0, 32, .rw, .lk, .const 0, true, 36⟩]⟩] ++
  -- NP_DXPORT
  [⟨7, [],
    [⟨0, 16, .rw, .lk, .const 0o141110, true, 36⟩]⟩] ++
  -- NP_PCFG
  [⟨16, [(16, 6)],
    [⟨0, 2, .rw, .lk, .const 0, true, 36⟩,
     ⟨2, 1, .rw, .lk, .const 0, true, 36⟩,
     ⟨3, 1, .rw, .lk, .const 1, true, 36⟩,
     ⟨4, 1, .rw, .lk, .const 0, true, 36⟩,
     ⟨5, 12, .rw, .lk, .const 0o2762, true, 36⟩,
     ⟨17, 3, .rw, .lk, .const 0, true, 36⟩,
     ⟨20, 1, .rw, .lk, .const 0, true, 36⟩,
     ⟨21, 7, .rw, .lk, .const 0o012, true, 36⟩,
     ⟨28, 8, .rw, .lk, .const 0o144, true, 36⟩]⟩] ++
  -- NP_PSTAT
  [⟨17, [(16, 6)],
    [⟨0, 1, .ro, .none, .const 0, false, 36⟩,
     ⟨1, 1, .ro, .none, .const 0, false, 36⟩]⟩] ++
  -- NP_MACH
  [⟨18, [(16, 6)],
    [⟨0, 24, .rw, .lk, .const 0, true, 36⟩]⟩] ++
  -- NP_MACL
  [⟨19, [(16, 6)],
    [⟨0, 24, .rw, .lk, .const 0, true, 36⟩]⟩] ++
  -- NP_FWD
  [⟨20, [(16, 6)],
    [⟨0, 7, .rw, .lk, .const 0o100, true, 36⟩]⟩] ++
  -- NP_PDLY
  [⟨21, [(16, 6)],
    [⟨0, 36, .ro, .none, .const 0, true, 36⟩]⟩] ++
  -- NP_ASYM
  [⟨22, [(16, 6)],
    [⟨0, 18, .rw, .lk, .const 0, true, 36⟩]⟩] ++
  -- NP_CRX
  [⟨23, [(16, 6)],
    [⟨0, 36, .rc, .none, .const 0, true, 36⟩]⟩] ++
  -- NP_CTX
  [⟨24, [(16, 6)],
    [⟨0, 36, .rc, .none, .const 0, true, 36⟩]⟩] ++
  -- NP_CERR
  [⟨25, [(16, 6)],
    [⟨0, 36, .rc, .none, .const 0, true, 36⟩]⟩] ++
  -- NP_CDROP
  [⟨26, [(16, 6)],
    [⟨0, 36, .rc, .none, .const 0, true, 36⟩]⟩] ++
  -- NP_RCFG
  [⟨112, [(8, 2)],
    [⟨0, 3, .rw, .lk, .const 0, true, 36⟩,
     ⟨3, 8, .rw, .lk, .const 0, true, 36⟩,
     ⟨11, 5, .rw, .lk, .const 0o02, true, 36⟩,
     ⟨16, 9, .rw, .lk, .const 0o620, true, 36⟩]⟩] ++
  -- NP_RSTAT
  [⟨113, [(8, 2)],
    [⟨0, 1, .ro, .none, .const 0, false, 36⟩,
     ⟨1, 1, .ro, .none, .const 0, false, 36⟩,
     ⟨2, 1, .ro, .none, .const 0, false, 36⟩,
     ⟨3, 9, .ro, .none, .const 0, false, 36⟩]⟩] ++
  -- NP_BYP
  [⟨114, [(8, 2)],
    [⟨0, 1, .rw, .lk, .const 0, true, 36⟩,
     ⟨1, 1, .rw, .lk, .const 0, true, 36⟩,
     ⟨2, 10, .rw, .lk, .const 0o0144, true, 36⟩,
     ⟨12, 1, .ro, .none, .const 0, false, 36⟩,
     ⟨13, 1, .ro, .none, .const 0, false, 36⟩,
     ⟨14, 1, .ro, .none, .const 0, false, 36⟩,
     ⟨15, 1, .ro, .none, .const 0, false, 36⟩]⟩] ++
  -- NP_CDUP
  [⟨115, [(8, 2)],
    [⟨0, 36, .rc, .none, .const 0, true, 36⟩]⟩] ++
  -- NP_CWRONG
  [⟨116, [(8, 2)],
    [⟨0, 36, .rc, .none, .const 0, true, 36⟩]⟩] ++
  -- NP_HRXB
  [⟨128, [(16, 16)],
    [⟨0, 36, .rw, .none, .const 0, true, 36⟩]⟩] ++
  -- NP_HRXC
  [⟨129, [(16, 16)],
    [⟨0, 4, .rw, .none, .const 0, false, 36⟩,
     ⟨4, 1, .rw, .none, .const 0, false, 36⟩,
     ⟨5, 12, .ro, .none, .const 0, false, 36⟩]⟩] ++
  -- NP_HTXB
  [⟨130, [(16, 16)],
    [⟨0, 36, .rw, .none, .const 0, true, 36⟩]⟩] ++
  -- NP_HTXC
  [⟨131, [(16, 16)],
    [⟨0, 4, .rw, .none, .const 0, false, 36⟩,
     ⟨4, 1, .rw, .none, .const 0, false, 36⟩,
     ⟨5, 12, .ro, .none, .const 0, false, 36⟩]⟩] ++
  -- NP_HTXK
  [⟨132, [(16, 16)],
    [⟨0, 36, .wo, .none, .const 0, false, 36⟩]⟩] ++
  -- NP_HFIL
  [⟨133, [(16, 16)],
    [⟨0, 12, .rw, .none, .const 0, true, 36⟩,
     ⟨12, 1, .rw, .none, .const 0, true, 36⟩,
     ⟨13, 1, .rw, .none, .const 0, true, 36⟩]⟩] ++
  -- NP_HST
  [⟨134, [(16, 16)],
    [⟨0, 1, .w1c, .none, .const 0, false, 1⟩,
     ⟨1, 1, .w1c, .none, .const 0, false, 36⟩,
     ⟨2, 1, .w1c, .none, .const 0, false, 3⟩,
     ⟨3, 1, .w1c, .none, .const 0, false, 36⟩]⟩] ++
  -- NP_STA_H
  [⟨1024, [(2, 1024)],
    [⟨0, 24, .rw, .lk, .const 0, true, 36⟩,
     ⟨24, 7, .rw, .lk, .const 0, true, 36⟩,
     ⟨31, 1, .rw, .lk, .const 0, true, 36⟩]⟩] ++
  -- NP_STA_L
  [⟨1025, [(2, 1024)],
    [⟨0, 24, .rw, .lk, .const 0, true, 36⟩,
     ⟨24, 12, .rw, .lk, .const 0, true, 36⟩]⟩]

/-- The PD_ map (spec/13_process_data_path.md, R421). -/
def mapPD : List RegArr :=
  -- PD_CTL
  [⟨0, [],
    [⟨0, 1, .rw, .sh, .const 0, true, 36⟩]⟩] ++
  -- PD_STAT
  [⟨1, [],
    [⟨0, 1, .w1c, .none, .const 0, false, 1⟩,
     ⟨1, 1, .w1c, .none, .const 0, false, 36⟩,
     ⟨2, 1, .w1c, .none, .const 0, false, 3⟩,
     ⟨3, 1, .w1c, .none, .const 0, false, 36⟩,
     ⟨4, 1, .w1c, .none, .const 0, false, 5⟩,
     ⟨5, 1, .w1c, .none, .const 0, false, 36⟩,
     ⟨6, 1, .w1c, .none, .const 0, false, 7⟩,
     ⟨7, 1, .w1c, .none, .const 0, false, 36⟩,
     ⟨8, 1, .w1c, .none, .const 0, false, 9⟩,
     ⟨9, 1, .w1c, .none, .const 0, false, 36⟩,
     ⟨10, 1, .w1c, .none, .const 0, false, 11⟩,
     ⟨11, 1, .w1c, .none, .const 0, false, 36⟩]⟩] ++
  -- PD_CMD
  [⟨2, [],
    [⟨0, 3, .wo, .sh, .const 0, false, 36⟩,
     ⟨3, 3, .wo, .sh, .const 0, false, 36⟩,
     ⟨6, 12, .wo, .sh, .const 0, false, 36⟩]⟩] ++
  -- PD_RES
  [⟨3, [],
    [⟨0, 4, .ro, .none, .const 0, false, 36⟩,
     ⟨4, 1, .ro, .none, .const 1, false, 36⟩,
     ⟨5, 1, .w1c, .none, .const 0, false, 6⟩,
     ⟨6, 1, .w1c, .none, .const 0, false, 36⟩]⟩] ++
  -- PD_TSVS
  [⟨4, [],
    [⟨0, 32, .rw, .sh, .const 0, true, 36⟩]⟩] ++
  -- PD_TRS
  [⟨5, [],
    [⟨0, 32, .rw, .sh, .const 0, true, 36⟩]⟩] ++
  -- PD_TGS
  [⟨6, [],
    [⟨0, 32, .rw, .sh, .const 0, true, 36⟩]⟩] ++
  -- PD_TGP
  [⟨7, [],
    [⟨0, 32, .rw, .sh, .const 0, true, 36⟩]⟩] ++
  -- PD_TSP
  [⟨8, [],
    [⟨0, 32, .rw, .sh, .const 0, true, 36⟩]⟩] ++
  -- PD_DIIMG
  [⟨9, [],
    [⟨0, 32, .rw, .lk, .const 0, true, 36⟩]⟩] ++
  -- PD_DICTL
  [⟨10, [],
    [⟨0, 4, .rw, .lk, .const 0, true, 36⟩,
     ⟨4, 4, .rw, .lk, .const 0, true, 36⟩,
     ⟨8, 1, .rw, .lk, .const 0, true, 36⟩]⟩] ++
  -- PD_NRCH
  [⟨11, [],
    [⟨0, 13, .ro, .none, .const 0, false, 36⟩]⟩] ++
  -- PD_CNOSUB
  [⟨12, [],
    [⟨0, 36, .rc, .none, .const 0, true, 36⟩]⟩] ++
  -- PD_CQDROP
  [⟨13, [],
    [⟨0, 36, .rc, .none, .const 0, true, 36⟩]⟩] ++
  -- PD_DICFG
  [⟨16, [(1, 16)],
    [⟨0, 10, .rw, .lk, .const 0, true, 36⟩,
     ⟨10, 1, .rw, .lk, .const 0, true, 36⟩,
     ⟨11, 1, .rw, .lk, .const 0, true, 36⟩]⟩] ++
  -- PD_DISTAT
  [⟨32, [],
    [⟨0, 16, .ro, .none, .const 0, false, 36⟩,
     ⟨16, 16, .ro, .none, .const 0, false, 36⟩]⟩] ++
  -- PD_DOCFG
  [⟨48, [(1, 8)],
    [⟨0, 1, .rw, .lk, .const 0, true, 36⟩,
     ⟨1, 10, .rw, .lk, .const 0, true, 36⟩,
     ⟨11, 16, .rw, .lk, .const 0, true, 36⟩]⟩] ++
  -- PD_DOSTAT
  [⟨56, [],
    [⟨0, 8, .ro, .none, .const 0, false, 36⟩,
     ⟨8, 8, .ro, .none, .const 0, false, 36⟩,
     ⟨16, 8, .w1c, .none, .const 0, false, 24⟩,
     ⟨24, 8, .w1c, .none, .const 0, false, 36⟩]⟩] ++
  -- PD_GPB
  [⟨512, [(1, 512)],
    [⟨0, 12, .rw, .sh, .const 0, true, 36⟩,
     ⟨12, 1, .rw, .sh, .const 0, true, 36⟩,
     ⟨13, 1, .rw, .sh, .const 0, true, 36⟩]⟩] ++
  -- PD_SPB
  [⟨1024, [(1, 64)],
    [⟨0, 12, .rw, .sh, .const 0, true, 36⟩,
     ⟨12, 1, .rw, .sh, .const 0, true, 36⟩,
     ⟨13, 1, .rw, .sh, .const 0, true, 36⟩]⟩] ++
  -- PD_DOB
  [⟨1088, [(1, 8)],
    [⟨0, 12, .rw, .sh, .const 0, true, 36⟩,
     ⟨12, 1, .rw, .sh, .const 0, true, 36⟩,
     ⟨13, 1, .rw, .sh, .const 0, true, 36⟩]⟩]

/-- The RKP_ map (spec/14_secure_world.md, R448). -/
def mapRKP : List RegArr :=
  -- RK_PSTAT
  [⟨0, [],
    [⟨0, 2, .ro, .none, .const 0, false, 36⟩,
     ⟨2, 2, .ro, .none, .const 0, false, 36⟩,
     ⟨4, 1, .ro, .none, .const 0, false, 36⟩,
     ⟨5, 1, .ro, .none, .const 0, false, 36⟩,
     ⟨6, 6, .ro, .none, .const 0, false, 36⟩,
     ⟨12, 1, .ro, .none, .const 0, false, 36⟩,
     ⟨13, 2, .ro, .none, .const 0, false, 36⟩]⟩] ++
  -- RK_DEVID_HI
  [⟨1, [],
    [⟨0, 36, .ro, .none, .const 0, false, 36⟩]⟩] ++
  -- RK_DEVID_LO
  [⟨2, [],
    [⟨0, 36, .ro, .none, .const 0, false, 36⟩]⟩] ++
  -- RK_VER
  [⟨3, [],
    [⟨0, 36, .ro, .none, .const 0, false, 36⟩]⟩]

/-- The RK_ map (spec/14_secure_world.md, R448). -/
def mapRK : List RegArr :=
  -- RK_CFG
  [⟨0, [],
    [⟨0, 10, .rw, .sh, .const 0o0144, false, 36⟩,
     ⟨10, 10, .rw, .sh, .const 0o0024, false, 36⟩,
     ⟨20, 1, .rw, .sh, .const 1, false, 36⟩,
     ⟨21, 10, .rw, .sh, .const 0o1750, false, 36⟩]⟩] ++
  -- RK_MVEC
  [⟨1, [],
    [⟨2, 34, .rw, .sh, .const 0, false, 36⟩]⟩] ++
  -- RK_MSP
  [⟨2, [],
    [⟨0, 36, .rw, .sh, .const 0, false, 36⟩]⟩] ++
  -- RK_MTTB
  [⟨3, [],
    [⟨0, 32, .rw, .sh, .const 0, false, 36⟩,
     ⟨35, 1, .rw, .sh, .const 0, false, 36⟩]⟩] ++
  -- RK_HELD
  [⟨4, [(1, 3)],
    [⟨0, 36, .rw, .sh, .held, false, 36⟩]⟩] ++
  -- RK_PSEC
  [⟨7, [],
    [⟨0, 16, .rw, .sh, .const 0, false, 36⟩]⟩] ++
  -- RK_DBG
  [⟨8, [],
    [⟨0, 1, .rw, .sh, .const 0, false, 36⟩,
     ⟨1, 1, .rw, .sh, .const 0, false, 36⟩,
     ⟨2, 1, .rw, .sh, .const 0, false, 36⟩]⟩] ++
  -- RK_PCLR
  [⟨9, [],
    [⟨0, 1, .wo, .sh, .const 0, false, 36⟩,
     ⟨1, 6, .wo, .sh, .const 0, false, 36⟩]⟩] ++
  -- RK_WDKICK
  [⟨10, [],
    [⟨0, 36, .wo, .none, .const 0, false, 36⟩]⟩] ++
  -- RK_WDSTAT
  [⟨11, [],
    [⟨0, 10, .ro, .none, .const 0o1750, false, 36⟩]⟩] ++
  -- RK_SDB
  [⟨16, [(2, 8)],
    [⟨0, 32, .rw, .sh, .const 0, false, 36⟩]⟩] ++
  -- RK_SDL
  [⟨17, [(2, 8)],
    [⟨0, 32, .rw, .sh, .const 0, false, 36⟩,
     ⟨32, 1, .rw, .sh, .const 0, false, 36⟩]⟩] ++
  -- RK_SSB
  [⟨32, [(2, 16)],
    [⟨0, 32, .rw, .sh, .const 0, false, 36⟩]⟩] ++
  -- RK_SSL
  [⟨33, [(2, 16)],
    [⟨0, 32, .rw, .sh, .const 0, false, 36⟩,
     ⟨32, 1, .rw, .sh, .const 0, false, 36⟩]⟩] ++
  -- RK_FUSE
  [⟨64, [(1, 21)],
    [⟨0, 36, .ro, .none, .const 0, false, 36⟩]⟩]

/-- The DX_ map (spec/15_dictionary_roles_moraine.md, R483). -/
def mapDX : List RegArr :=
  -- DX_CFG
  [⟨0, [],
    [⟨0, 1, .rw, .lk, .const 1, true, 36⟩,
     ⟨1, 1, .rw, .lk, .const 1, true, 36⟩,
     ⟨2, 1, .rw, .lk, .const 1, true, 36⟩,
     ⟨3, 10, .rw, .lk, .const 0o0074, true, 36⟩,
     ⟨13, 5, .rw, .lk, .const 0o03, true, 36⟩,
     ⟨18, 10, .rw, .lk, .const 0o0074, true, 36⟩,
     ⟨28, 1, .rw, .lk, .const 0, true, 36⟩]⟩] ++
  -- DX_STAT
  [⟨1, [],
    [⟨0, 5, .ro, .none, .const 0, false, 36⟩,
     ⟨5, 1, .ro, .none, .const 0, false, 36⟩]⟩] ++
  -- DX_LOCK
  [⟨2, [],
    [⟨0, 16, .ro, .none, .const 0, false, 36⟩]⟩] ++
  -- DX_EVT
  [⟨3, [],
    [⟨0, 1, .w1c, .none, .const 0, false, 1⟩,
     ⟨1, 1, .w1c, .none, .const 0, false, 36⟩,
     ⟨2, 1, .w1c, .none, .const 0, false, 3⟩,
     ⟨3, 1, .w1c, .none, .const 0, false, 36⟩,
     ⟨4, 1, .w1c, .none, .const 0, false, 5⟩,
     ⟨5, 1, .w1c, .none, .const 0, false, 36⟩,
     ⟨6, 1, .w1c, .none, .const 0, false, 7⟩,
     ⟨7, 1, .w1c, .none, .const 0, false, 36⟩,
     ⟨8, 1, .w1c, .none, .const 0, false, 9⟩,
     ⟨9, 1, .w1c, .none, .const 0, false, 36⟩,
     ⟨10, 1, .w1c, .none, .const 0, false, 11⟩,
     ⟨11, 1, .w1c, .none, .const 0, false, 36⟩]⟩] ++
  -- DX_CSGEN
  [⟨4, [],
    [⟨0, 36, .ro, .none, .const 0, false, 36⟩]⟩] ++
  -- DX_ATB
  [⟨16, [(16, 16)],
    [⟨0, 32, .rw, .lk, .const 0, true, 36⟩]⟩] ++
  -- DX_ATC
  [⟨17, [(16, 16)],
    [⟨0, 12, .rw, .lk, .const 0, true, 36⟩]⟩] ++
  -- DX_SPG
  [⟨18, [(16, 16)],
    [⟨0, 32, .rw, .lk, .const 0, true, 36⟩]⟩] ++
  -- DX_SPL
  [⟨19, [(16, 16)],
    [⟨0, 12, .rw, .lk, .const 0, true, 36⟩,
     ⟨12, 4, .rw, .lk, .const 0, true, 36⟩,
     ⟨16, 1, .rw, .lk, .const 0, true, 36⟩,
     ⟨17, 1, .ro, .none, .const 0, false, 36⟩]⟩] ++
  -- DX_QTA
  [⟨20, [(16, 16)],
    [⟨0, 5, .rw, .sh, .part0 0o20 4, true, 36⟩,
     ⟨5, 4, .rw, .sh, .part0 0o14 0, true, 36⟩,
     ⟨9, 4, .rw, .sh, .part0 0o14 0, true, 36⟩,
     ⟨13, 10, .rw, .sh, .part0 0o1000 0, true, 36⟩,
     ⟨23, 11, .rw, .sh, .part0 0o2000 0, true, 36⟩]⟩] ++
  -- DX_QTB
  [⟨21, [(16, 16)],
    [⟨0, 13, .rw, .sh, .part0 0o10000 0, true, 36⟩,
     ⟨13, 10, .rw, .sh, .part0 0o1000 0, true, 36⟩,
     ⟨23, 7, .rw, .sh, .part0 0o100 0, true, 36⟩]⟩] ++
  -- DX_MBUF
  [⟨22, [(16, 16)],
    [⟨0, 32, .rw, .none, .const 0, false, 36⟩]⟩] ++
  -- DX_MDB
  [⟨23, [(16, 16)],
    [⟨0, 11, .wo, .none, .const 0, false, 36⟩]⟩] ++
  -- DX_MST
  [⟨24, [(16, 16)],
    [⟨0, 11, .ro, .none, .const 0, false, 36⟩,
     ⟨11, 1, .ro, .none, .const 0, false, 36⟩,
     ⟨12, 1, .w1c, .none, .const 0, false, 13⟩,
     ⟨13, 1, .w1c, .none, .const 0, false, 36⟩,
     ⟨14, 10, .rw, .none, .const 0, false, 36⟩]⟩] ++
  -- DX_SESS
  [⟨512, [(1, 16)],
    [⟨0, 2, .ro, .none, .const 0, false, 36⟩,
     ⟨2, 2, .ro, .none, .const 0, false, 36⟩,
     ⟨4, 4, .ro, .none, .const 0, false, 36⟩,
     ⟨8, 2, .ro, .none, .const 0, false, 36⟩,
     ⟨10, 6, .ro, .none, .const 0, false, 36⟩,
     ⟨16, 1, .ro, .none, .const 0, false, 36⟩,
     ⟨17, 12, .ro, .none, .const 0, false, 36⟩]⟩]

/-- The MO_ map (spec/15_dictionary_roles_moraine.md, R483). -/
def mapMO : List RegArr :=
  -- MO_STAT
  [⟨0, [],
    [⟨0, 13, .ro, .none, .const 0, true, 36⟩,
     ⟨13, 1, .ro, .none, .const 0, true, 36⟩,
     ⟨14, 9, .ro, .none, .const 0, true, 36⟩,
     ⟨23, 1, .ro, .none, .const 0, true, 36⟩]⟩] ++
  -- MO_EVT
  [⟨1, [],
    [⟨0, 1, .w1c, .none, .const 0, false, 1⟩,
     ⟨1, 1, .w1c, .none, .const 0, false, 36⟩,
     ⟨2, 1, .w1c, .none, .const 0, false, 3⟩,
     ⟨3, 1, .w1c, .none, .const 0, false, 36⟩,
     ⟨4, 1, .w1c, .none, .const 0, false, 5⟩,
     ⟨5, 1, .w1c, .none, .const 0, false, 36⟩]⟩] ++
  -- MO_NEXT_HI
  [⟨2, [],
    [⟨0, 8, .ro, .none, .const 0, false, 36⟩]⟩] ++
  -- MO_NEXT_LO
  [⟨3, [],
    [⟨0, 36, .ro, .none, .const 0, false, 36⟩]⟩] ++
  -- MO_OLD_HI
  [⟨4, [],
    [⟨0, 8, .ro, .none, .const 0, false, 36⟩]⟩] ++
  -- MO_OLD_LO
  [⟨5, [],
    [⟨0, 36, .ro, .none, .const 0, false, 36⟩]⟩] ++
  -- MO_DROP
  [⟨6, [],
    [⟨0, 36, .rc, .none, .const 0, false, 36⟩]⟩] ++
  -- MO_RSEL_HI
  [⟨7, [],
    [⟨0, 8, .rw, .none, .const 0, false, 36⟩,
     ⟨35, 1, .rw, .none, .const 0, false, 36⟩]⟩] ++
  -- MO_RSEL_LO
  [⟨8, [],
    [⟨0, 36, .rw, .none, .const 0, false, 36⟩]⟩] ++
  -- MO_RST
  [⟨9, [],
    [⟨0, 3, .ro, .none, .const 0, false, 36⟩,
     ⟨3, 1, .ro, .none, .const 1, false, 36⟩]⟩] ++
  -- MO_RW
  [⟨10, [(1, 4)],
    [⟨0, 36, .ro, .none, .const 0, false, 36⟩]⟩] ++
  -- MO_RTAG_HI
  [⟨14, [],
    [⟨0, 28, .ro, .none, .const 0, false, 36⟩]⟩] ++
  -- MO_RTAG_LO
  [⟨15, [],
    [⟨0, 36, .ro, .none, .const 0, false, 36⟩]⟩]

/-- The PX_ map (spec/16_pcie_endpoint.md, R503). -/
def mapPX : List RegArr :=
  -- PX_CTL
  [⟨0, [],
    [⟨0, 1, .rw, .lk, .const 0, false, 36⟩,
     ⟨1, 5, .rw, .lk, .const 0o24, true, 36⟩,
     ⟨6, 5, .rw, .lk, .const 0o20, true, 36⟩,
     ⟨11, 3, .rw, .lk, .const 0o4, true, 36⟩]⟩] ++
  -- PX_STAT
  [⟨1, [],
    [⟨0, 2, .ro, .none, .const 0, false, 36⟩,
     ⟨2, 3, .ro, .none, .const 0, false, 36⟩,
     ⟨5, 4, .ro, .none, .const 0, false, 36⟩,
     ⟨9, 1, .ro, .none, .const 0, false, 36⟩,
     ⟨10, 5, .ro, .none, .const 0, false, 36⟩]⟩] ++
  -- PX_EVT
  [⟨2, [],
    [⟨0, 1, .w1c, .none, .const 0, false, 1⟩,
     ⟨1, 1, .w1c, .none, .const 0, false, 36⟩,
     ⟨2, 1, .w1c, .none, .const 0, false, 3⟩,
     ⟨3, 1, .w1c, .none, .const 0, false, 36⟩,
     ⟨4, 1, .w1c, .none, .const 0, false, 5⟩,
     ⟨5, 1, .w1c, .none, .const 0, false, 36⟩,
     ⟨6, 1, .w1c, .none, .const 0, false, 7⟩,
     ⟨7, 1, .w1c, .none, .const 0, false, 36⟩,
     ⟨8, 1, .w1c, .none, .const 0, false, 9⟩,
     ⟨9, 1, .w1c, .none, .const 0, false, 36⟩,
     ⟨10, 1, .w1c, .none, .const 0, false, 11⟩,
     ⟨11, 1, .w1c, .none, .const 0, false, 36⟩,
     ⟨12, 1, .w1c, .none, .const 0, false, 13⟩,
     ⟨13, 1, .w1c, .none, .const 0, false, 36⟩,
     ⟨14, 1, .w1c, .none, .const 0, false, 15⟩,
     ⟨15, 1, .w1c, .none, .const 0, false, 36⟩]⟩] ++
  -- PX_CFG
  [⟨3, [],
    [⟨0, 16, .rw, .lk, .const 0o023420, true, 36⟩,
     ⟨16, 10, .rw, .lk, .const 0, true, 36⟩,
     ⟨26, 6, .rw, .lk, .const 0, true, 36⟩,
     ⟨32, 1, .rw, .lk, .const 0, true, 36⟩]⟩] ++
  -- PX_ID
  [⟨4, [],
    [⟨0, 16, .rw, .lk, .const 0, true, 36⟩,
     ⟨16, 16, .rw, .lk, .const 0, true, 36⟩]⟩] ++
  -- PX_CNTA
  [⟨5, [],
    [⟨0, 18, .rc, .none, .const 0, true, 36⟩,
     ⟨18, 18, .rc, .none, .const 0, true, 36⟩]⟩] ++
  -- PX_CNTB
  [⟨6, [],
    [⟨0, 18, .rc, .none, .const 0, true, 36⟩,
     ⟨18, 18, .rc, .none, .const 0, true, 36⟩]⟩] ++
  -- PX_OWA
  [⟨16, [(4, 8)],
    [⟨0, 14, .rw, .lk, .const 0, true, 36⟩,
     ⟨14, 6, .rw, .lk, .const 0, true, 36⟩,
     ⟨20, 1, .rw, .lk, .const 0, true, 36⟩,
     ⟨21, 1, .rw, .lk, .const 0, true, 36⟩]⟩] ++
  -- PX_OWB
  [⟨17, [(4, 8)],
    [⟨0, 32, .rw, .lk, .const 0, true, 36⟩]⟩] ++
  -- PX_OWC
  [⟨18, [(4, 8)],
    [⟨0, 10, .rw, .lk, .const 0, true, 36⟩]⟩] ++
  -- PX_FCTL
  [⟨64, [(32, 17)],
    [⟨0, 4, .rw, .shVf, .pxpart, true, 36⟩,
     ⟨4, 1, .ro, .none, .const 0, false, 36⟩,
     ⟨5, 1, .ro, .none, .const 0, false, 36⟩,
     ⟨6, 2, .ro, .none, .const 0, false, 36⟩]⟩] ++
  -- PX_FIRQ
  [⟨65, [(32, 17)],
    [⟨0, 6, .wo, .none, .const 0, false, 36⟩]⟩] ++
  -- PX_FPEND
  [⟨66, [(32, 17), (1, 4)],
    [⟨0, 16, .w1c, .none, .const 0, false, 16⟩,
     ⟨16, 16, .w1c, .none, .const 0, false, 36⟩]⟩] ++
  -- PX_FHDB
  [⟨70, [(32, 17)],
    [⟨0, 36, .rw, .none, .const 0, false, 36⟩]⟩] ++
  -- PX_FSRC
  [⟨71, [(32, 17)],
    [⟨0, 10, .rw, .none, .const 0, false, 36⟩]⟩] ++
  -- PX_FMBDB
  [⟨72, [(32, 17)],
    [⟨0, 11, .wo, .none, .const 0, false, 36⟩]⟩] ++
  -- PX_FMBST
  [⟨73, [(32, 17)],
    [⟨0, 11, .ro, .none, .const 0, false, 36⟩,
     ⟨11, 1, .ro, .none, .const 0, false, 36⟩,
     ⟨12, 1, .w1c, .none, .const 0, false, 13⟩,
     ⟨13, 1, .w1c, .none, .const 0, false, 36⟩,
     ⟨14, 6, .rw, .none, .const 0, false, 36⟩,
     ⟨20, 1, .rw, .none, .const 0, false, 36⟩]⟩] ++
  -- PX_IWA
  [⟨80, [(32, 17), (2, 8)],
    [⟨0, 16, .rw, .sh, .const 0, true, 36⟩,
     ⟨16, 6, .rw, .sh, .const 0, true, 36⟩,
     ⟨22, 1, .rw, .sh, .const 0, true, 36⟩,
     ⟨23, 1, .rw, .sh, .const 0, true, 36⟩,
     ⟨24, 1, .rw, .sh, .const 0, true, 36⟩,
     ⟨25, 4, .rw, .sh, .const 0, true, 36⟩,
     ⟨29, 1, .rw, .sh, .const 0, true, 36⟩,
     ⟨30, 1, .rw, .sh, .const 0, true, 36⟩]⟩] ++
  -- PX_IWB
  [⟨81, [(32, 17), (2, 8)],
    [⟨0, 32, .rw, .sh, .const 0, true, 36⟩]⟩]

/-- The PM_ map (spec/17_power_reset_service.md, R527). -/
def mapPM : List RegArr :=
  -- PM_REQ
  [⟨0, [],
    [⟨0, 7, .wo, .none, .const 0, false, 36⟩,
     ⟨7, 2, .wo, .none, .const 0, false, 36⟩]⟩] ++
  -- PM_RES
  [⟨1, [],
    [⟨0, 4, .ro, .none, .const 0, false, 36⟩,
     ⟨4, 1, .ro, .none, .const 1, false, 36⟩,
     ⟨5, 1, .w1c, .none, .const 0, false, 6⟩,
     ⟨6, 1, .w1c, .none, .const 0, false, 36⟩]⟩] ++
  -- PM_RST
  [⟨2, [],
    [⟨0, 2, .wo, .sh, .const 0, false, 36⟩]⟩] ++
  -- PM_RSTC
  [⟨3, [],
    [⟨0, 4, .ro, .none, .const 1, true, 36⟩,
     ⟨4, 18, .ro, .none, .const 0, true, 36⟩]⟩] ++
  -- PM_EVT
  [⟨4, [],
    [⟨0, 1, .w1c, .none, .const 0, false, 1⟩,
     ⟨1, 1, .w1c, .none, .const 0, false, 36⟩,
     ⟨2, 1, .w1c, .none, .const 0, false, 3⟩,
     ⟨3, 1, .w1c, .none, .const 0, false, 36⟩,
     ⟨4, 1, .w1c, .none, .const 0, false, 5⟩,
     ⟨5, 1, .w1c, .none, .const 0, false, 36⟩,
     ⟨6, 1, .w1c, .none, .const 0, false, 7⟩,
     ⟨7, 1, .w1c, .none, .const 0, false, 36⟩,
     ⟨8, 1, .w1c, .none, .const 0, false, 9⟩,
     ⟨9, 1, .w1c, .none, .const 0, false, 36⟩,
     ⟨10, 1, .w1c, .none, .const 0, false, 11⟩,
     ⟨11, 1, .w1c, .none, .const 0, false, 36⟩]⟩] ++
  -- PM_CLK
  [⟨5, [],
    [⟨0, 1, .ro, .none, .const 1, false, 36⟩,
     ⟨1, 1, .ro, .none, .const 0, false, 36⟩,
     ⟨2, 4, .ro, .none, .const 0, false, 36⟩,
     ⟨6, 1, .ro, .none, .const 0, false, 36⟩,
     ⟨7, 1, .ro, .none, .const 1, false, 36⟩]⟩] ++
  -- PM_PFCFG
  [⟨6, [],
    [⟨0, 1, .rw, .sh, .const 1, true, 36⟩,
     ⟨1, 4, .rw, .sh, .const 0o02, true, 36⟩]⟩] ++
  -- PM_DSTAT
  [⟨8, [(1, 5)],
    [⟨0, 36, .ro, .none, .const 0, false, 36⟩]⟩] ++
  -- PM_RAIL
  [⟨16, [(1, 12)],
    [⟨0, 12, .ro, .none, .const 0, false, 36⟩,
     ⟨12, 12, .rw, .sh, .raillo, true, 36⟩,
     ⟨24, 12, .rw, .sh, .railhi, true, 36⟩]⟩] ++
  -- PM_TSEN
  [⟨32, [(1, 16)],
    [⟨0, 12, .ro, .none, .const 0, false, 36⟩,
     ⟨12, 12, .rc, .none, .const 0, false, 36⟩]⟩] ++
  -- PM_TLIM
  [⟨48, [(1, 16)],
    [⟨0, 12, .rw, .sh, .const 0o0644, true, 36⟩,
     ⟨12, 6, .rw, .sh, .const 0o24, true, 36⟩]⟩]

/-- The TR_ map (spec/18_trace_debug.md, R549). -/
def mapTR : List RegArr :=
  -- TR_CTL
  [⟨0, [],
    [⟨0, 1, .rw, .lk, .const 0, true, 36⟩,
     ⟨1, 4, .rw, .lk, .const 0o12, true, 36⟩]⟩] ++
  -- TR_RBASE
  [⟨64, [(16, 16)],
    [⟨0, 32, .rw, .none, .const 0, true, 36⟩]⟩] ++
  -- TR_RCTL
  [⟨65, [(16, 16)],
    [⟨0, 4, .rw, .none, .const 0, true, 36⟩,
     ⟨4, 1, .rw, .none, .const 0, true, 36⟩,
     ⟨5, 1, .rw, .none, .const 0, true, 36⟩,
     ⟨6, 4, .rw, .none, .const 0, true, 36⟩,
     ⟨10, 10, .rw, .none, .const 0, true, 36⟩]⟩] ++
  -- TR_RWP
  [⟨66, [(16, 16)],
    [⟨0, 24, .ro, .none, .const 0, true, 36⟩]⟩] ++
  -- TR_RRP
  [⟨67, [(16, 16)],
    [⟨0, 24, .rw, .none, .const 0, true, 36⟩]⟩] ++
  -- TR_RSTAT
  [⟨68, [(16, 16)],
    [⟨0, 1, .w1c, .none, .const 0, false, 1⟩,
     ⟨1, 1, .w1c, .none, .const 0, false, 36⟩,
     ⟨2, 1, .w1c, .none, .const 0, false, 3⟩,
     ⟨3, 1, .w1c, .none, .const 0, false, 36⟩]⟩] ++
  -- TR_RDROP
  [⟨69, [(16, 16)],
    [⟨0, 36, .rc, .none, .const 0, true, 36⟩]⟩] ++
  -- TR_CCFG
  [⟨1024, [(64, 48)],
    [⟨0, 1, .rw, .none, .const 0, true, 36⟩,
     ⟨1, 1, .rw, .none, .const 0, true, 36⟩,
     ⟨2, 1, .rw, .none, .const 0, true, 36⟩,
     ⟨3, 1, .rw, .none, .const 0, true, 36⟩,
     ⟨4, 1, .rw, .none, .const 0, true, 36⟩]⟩] ++
  -- TR_CSTAT
  [⟨1025, [(64, 48)],
    [⟨0, 18, .rc, .none, .const 0, false, 36⟩,
     ⟨18, 8, .ro, .none, .const 0, false, 36⟩]⟩] ++
  -- TR_ACA
  [⟨1032, [(64, 48), (3, 8)],
    [⟨0, 36, .rw, .none, .const 0, true, 36⟩]⟩] ++
  -- TR_ACB
  [⟨1033, [(64, 48), (3, 8)],
    [⟨0, 36, .rw, .none, .const 0, true, 36⟩]⟩] ++
  -- TR_ACC
  [⟨1034, [(64, 48), (3, 8)],
    [⟨0, 2, .rw, .none, .const 0, true, 36⟩,
     ⟨2, 12, .rw, .none, .const 0, true, 36⟩,
     ⟨14, 1, .rw, .none, .const 0, true, 36⟩]⟩] ++
  -- TR_DFA
  [⟨1056, [(64, 48), (3, 4)],
    [⟨0, 36, .rw, .none, .const 0, true, 36⟩]⟩] ++
  -- TR_DFB
  [⟨1057, [(64, 48), (3, 4)],
    [⟨0, 36, .rw, .none, .const 0, true, 36⟩]⟩] ++
  -- TR_DFC
  [⟨1058, [(64, 48), (3, 4)],
    [⟨0, 1, .rw, .none, .const 0, true, 36⟩,
     ⟨1, 1, .rw, .none, .const 0, true, 36⟩,
     ⟨2, 12, .rw, .none, .const 0, true, 36⟩,
     ⟨14, 1, .rw, .none, .const 0, true, 36⟩]⟩]

/-- The DB_ map (spec/18_trace_debug.md, R549). -/
def mapDB : List RegArr :=
  -- DB_TGT
  [⟨0, [],
    [⟨0, 6, .rw, .none, .const 0, false, 36⟩,
     ⟨6, 3, .rw, .none, .const 0, false, 36⟩]⟩] ++
  -- DB_CMD
  [⟨1, [],
    [⟨0, 4, .wo, .none, .const 0, false, 36⟩]⟩] ++
  -- DB_RES
  [⟨2, [],
    [⟨0, 4, .ro, .none, .const 0, false, 36⟩,
     ⟨4, 1, .ro, .none, .const 1, false, 36⟩,
     ⟨5, 6, .ro, .none, .const 0, false, 36⟩,
     ⟨11, 4, .ro, .none, .const 0, false, 36⟩,
     ⟨15, 1, .w1c, .none, .const 0, false, 16⟩,
     ⟨16, 1, .w1c, .none, .const 0, false, 36⟩]⟩] ++
  -- DB_ADDR
  [⟨3, [],
    [⟨0, 36, .rw, .none, .const 0, false, 36⟩]⟩] ++
  -- DB_DATA
  [⟨4, [],
    [⟨0, 36, .rw, .none, .const 0, false, 36⟩]⟩] ++
  -- DB_HSTAT0
  [⟨5, [],
    [⟨0, 36, .ro, .none, .const 0, false, 36⟩]⟩] ++
  -- DB_HSTAT1
  [⟨6, [],
    [⟨0, 12, .ro, .none, .const 0, false, 36⟩]⟩] ++
  -- DB_DCMD
  [⟨8, [],
    [⟨0, 2, .wo, .none, .const 0, false, 36⟩,
     ⟨2, 5, .wo, .none, .const 0, false, 36⟩]⟩]

/-- The map and base word address of the block that holds word address `a`. -/
def blockOf (a : Nat) : Option (List RegArr × Nat) :=
  if 68685923328 ≤ a ∧ a ≤ 68685924089 then some (mapAN, 68685923328)
  else if 68690116608 ≤ a ∧ a ≤ 68690118143 then some (mapSC, 68690116608)
  else if 68685922560 ≤ a ∧ a ≤ 68685922575 then some (mapFN, 68685922560)
  else if 68685930496 ≤ a ∧ a ≤ 68685934414 then some (mapCP, 68685930496)
  else if 68685955072 ≤ a ∧ a ≤ 68685956918 then some (mapTL, 68685955072)
  else if 68685971456 ≤ a ∧ a ≤ 68685971631 then some (mapCH, 68685971456)
  else if 68685979648 ≤ a ∧ a ≤ 68685979854 then some (mapLS, 68685979648)
  else if 68685987840 ≤ a ∧ a ≤ 68685988279 then some (mapMC, 68685987840)
  else if 68686053376 ≤ a ∧ a ≤ 68686056447 then some (mapNP, 68686053376)
  else if 68686118912 ≤ a ∧ a ≤ 68686120007 then some (mapPD, 68686118912)
  else if 68685922816 ≤ a ∧ a ≤ 68685922819 then some (mapRKP, 68685922816)
  else if 68711088128 ≤ a ∧ a ≤ 68711088212 then some (mapRK, 68711088128)
  else if 68686184448 ≤ a ∧ a ≤ 68686184975 then some (mapDX, 68686184448)
  else if 68686249984 ≤ a ∧ a ≤ 68686249999 then some (mapMO, 68686249984)
  else if 68686315520 ≤ a ∧ a ≤ 68686316127 then some (mapPX, 68686315520)
  else if 68686381056 ≤ a ∧ a ≤ 68686381119 then some (mapPM, 68686381056)
  else if 68686970880 ≤ a ∧ a ≤ 68686974955 then some (mapTR, 68686970880)
  else if 68687036416 ≤ a ∧ a ≤ 68687036424 then some (mapDB, 68687036416)
  else none

/-! Names: a register's word address, and each of its fields. -/

namespace Reg

abbrev AN_TB_CFG : Nat := 68685923328
abbrev AN_TB_CFG_PRI : Field := ⟨AN_TB_CFG, 0, 3⟩
abbrev AN_TB_CFG_SEC : Field := ⟨AN_TB_CFG, 3, 3⟩
abbrev AN_TB_CFG_STEPEN : Field := ⟨AN_TB_CFG, 6, 1⟩
abbrev AN_TB_CFG_IRIGX : Field := ⟨AN_TB_CFG, 7, 1⟩
abbrev AN_TB_CFG_PPSEDGE : Field := ⟨AN_TB_CFG, 8, 1⟩
abbrev AN_TB_CFG_OCXO : Field := ⟨AN_TB_CFG, 9, 1⟩
abbrev AN_TB_CFG_PPSOUT : Field := ⟨AN_TB_CFG, 10, 1⟩
abbrev AN_TB_CFG_LOSST : Field := ⟨AN_TB_CFG, 11, 6⟩
abbrev AN_TB_CFG_KP : Field := ⟨AN_TB_CFG, 17, 6⟩
abbrev AN_TB_CFG_KI : Field := ⟨AN_TB_CFG, 23, 6⟩
abbrev AN_TB_CFG_REF25 : Field := ⟨AN_TB_CFG, 29, 1⟩
abbrev AN_TB_STAT : Nat := 68685923329
abbrev AN_TB_STAT_STATE : Field := ⟨AN_TB_STAT, 0, 2⟩
abbrev AN_TB_STAT_ACT : Field := ⟨AN_TB_STAT, 2, 3⟩
abbrev AN_TB_STAT_SET : Field := ⟨AN_TB_STAT, 5, 1⟩
abbrev AN_TB_STAT_QUAL : Field := ⟨AN_TB_STAT, 6, 2⟩
abbrev AN_TB_STAT_REFLOSS : Field := ⟨AN_TB_STAT, 8, 1⟩
abbrev AN_TB_STAT_HSEC : Field := ⟨AN_TB_STAT, 18, 18⟩
abbrev AN_TB_INC : Nat := 68685923330
abbrev AN_TB_INC_INC : Field := ⟨AN_TB_INC, 0, 36⟩
abbrev AN_TB_OFFS : Nat := 68685923331
abbrev AN_TB_OFFS_OFFS : Field := ⟨AN_TB_OFFS, 0, 36⟩
abbrev AN_TB_PDLY : Nat := 68685923332
abbrev AN_TB_PDLY_PDLY : Field := ⟨AN_TB_PDLY, 0, 36⟩
abbrev AN_TB_LIM : Nat := 68685923333
abbrev AN_TB_LIM_LOCKTH : Field := ⟨AN_TB_LIM, 0, 18⟩
abbrev AN_TB_LIM_OFFLIM : Field := ⟨AN_TB_LIM, 18, 18⟩
abbrev AN_TB_DLYLIM : Nat := 68685923334
abbrev AN_TB_DLYLIM_DLYLIM : Field := ⟨AN_TB_DLYLIM, 0, 36⟩
abbrev AN_TB_STEPLIM : Nat := 68685923335
abbrev AN_TB_STEPLIM_STEPLIM : Field := ⟨AN_TB_STEPLIM, 0, 36⟩
abbrev AN_TB_HOLD : Nat := 68685923336
abbrev AN_TB_HOLD_HOLDSPEC : Field := ⟨AN_TB_HOLD, 0, 18⟩
abbrev AN_TB_HOLD_HOLDMAX : Field := ⟨AN_TB_HOLD, 18, 18⟩
abbrev AN_TB_INDLY : Nat := 68685923337
abbrev AN_TB_INDLY_INDLY : Field := ⟨AN_TB_INDLY, 0, 18⟩
abbrev AN_TB_STEP : Nat := 68685923338
abbrev AN_TB_STEP_STEP : Field := ⟨AN_TB_STEP, 0, 36⟩
abbrev AN_UTC : Nat := 68685923339
abbrev AN_UTC_OFFS : Field := ⟨AN_UTC, 0, 18⟩
abbrev AN_UTC_LEAP61 : Field := ⟨AN_UTC, 18, 1⟩
abbrev AN_UTC_LEAP59 : Field := ⟨AN_UTC, 19, 1⟩
abbrev AN_UTC_USRC : Field := ⟨AN_UTC, 20, 2⟩
abbrev AN_EVT : Nat := 68685923340
abbrev AN_EVT_TBCHG : Field := ⟨AN_EVT, 0, 1⟩
abbrev AN_EVT_TBCHG_MORE : Field := ⟨AN_EVT, 1, 1⟩
abbrev AN_EVT_TBSTEP : Field := ⟨AN_EVT, 2, 1⟩
abbrev AN_EVT_TBSTEP_MORE : Field := ⟨AN_EVT, 3, 1⟩
abbrev AN_EVT_CLKLOSS : Field := ⟨AN_EVT, 4, 1⟩
abbrev AN_EVT_CLKLOSS_MORE : Field := ⟨AN_EVT, 5, 1⟩
abbrev AN_EVT_REJ : Field := ⟨AN_EVT, 6, 1⟩
abbrev AN_EVT_REJ_MORE : Field := ⟨AN_EVT, 7, 1⟩
abbrev AN_EVT_LEAP : Field := ⟨AN_EVT, 8, 1⟩
abbrev AN_EVT_LEAP_MORE : Field := ⟨AN_EVT, 9, 1⟩
abbrev AN_EVT_SETREF : Field := ⟨AN_EVT, 10, 1⟩
abbrev AN_EVT_SETREF_MORE : Field := ⟨AN_EVT, 11, 1⟩
abbrev AN_EVT_REFCHG : Field := ⟨AN_EVT, 12, 8⟩
abbrev AN_EVT_REFCHG_MORE : Field := ⟨AN_EVT, 20, 8⟩
abbrev AN_TIME_HI : Nat := 68685923341
abbrev AN_TIME_HI_T : Field := ⟨AN_TIME_HI, 0, 36⟩
abbrev AN_TIME_LO : Nat := 68685923342
abbrev AN_TIME_LO_T : Field := ⟨AN_TIME_LO, 0, 36⟩
abbrev AN_SNAP : Nat := 68685923343
abbrev AN_SNAP_SNAP : Field := ⟨AN_SNAP, 0, 36⟩
abbrev AN_SNAP_HI : Nat := 68685923344
abbrev AN_SNAP_HI_T : Field := ⟨AN_SNAP_HI, 0, 36⟩
abbrev AN_SNAP_LO : Nat := 68685923345
abbrev AN_SNAP_LO_T : Field := ⟨AN_SNAP_LO, 0, 36⟩
abbrev AN_SNAP_A (i : Nat) : Nat := 68685923346 + i
abbrev AN_SNAP_A_A (i : Nat) : Field := ⟨(AN_SNAP_A i), 0, 36⟩
abbrev AN_PPS_HI : Nat := 68685923354
abbrev AN_PPS_HI_T : Field := ⟨AN_PPS_HI, 0, 36⟩
abbrev AN_PPS_LO : Nat := 68685923355
abbrev AN_PPS_LO_T : Field := ⟨AN_PPS_LO, 0, 36⟩
abbrev AN_IRIG_HI : Nat := 68685923356
abbrev AN_IRIG_HI_T : Field := ⟨AN_IRIG_HI, 0, 36⟩
abbrev AN_IRIG_LO : Nat := 68685923357
abbrev AN_IRIG_LO_T : Field := ⟨AN_IRIG_LO, 0, 36⟩
abbrev AN_SET_HI : Nat := 68685923358
abbrev AN_SET_HI_T : Field := ⟨AN_SET_HI, 0, 36⟩
abbrev AN_SET_LO : Nat := 68685923359
abbrev AN_SET_LO_T : Field := ⟨AN_SET_LO, 0, 36⟩
abbrev AN_VIEW (p : Nat) : Nat := 68685923360 + p
abbrev AN_VIEW_MAP (p : Nat) : Field := ⟨(AN_VIEW p), 0, 32⟩
abbrev AN_REF_CFG (n : Nat) : Nat := 68685923392 + 16 * n
abbrev AN_REF_CFG_EN (n : Nat) : Field := ⟨(AN_REF_CFG n), 0, 1⟩
abbrev AN_REF_CFG_SRC (n : Nat) : Field := ⟨(AN_REF_CFG n), 1, 1⟩
abbrev AN_REF_CFG_FNOM (n : Nat) : Field := ⟨(AN_REF_CFG n), 2, 2⟩
abbrev AN_REF_CFG_FREESEL (n : Nat) : Field := ⟨(AN_REF_CFG n), 4, 1⟩
abbrev AN_REF_CFG_CHAN (n : Nat) : Field := ⟨(AN_REF_CFG n), 5, 10⟩
abbrev AN_REF_CFG_CH (n : Nat) : Field := ⟨(AN_REF_CFG n), 15, 5⟩
abbrev AN_REF_CFG_PSEQ (n : Nat) : Field := ⟨(AN_REF_CFG n), 20, 1⟩
abbrev AN_REF_STAT (n : Nat) : Nat := 68685923393 + 16 * n
abbrev AN_REF_STAT_STATE (n : Nat) : Field := ⟨(AN_REF_STAT n), 0, 3⟩
abbrev AN_REF_STAT_ALIGNED (n : Nat) : Field := ⟨(AN_REF_STAT n), 3, 1⟩
abbrev AN_REF_STAT_LASTREJ (n : Nat) : Field := ⟨(AN_REF_STAT n), 4, 4⟩
abbrev AN_REF_STAT_HMS (n : Nat) : Field := ⟨(AN_REF_STAT n), 18, 18⟩
abbrev AN_REF_ANG (n : Nat) : Nat := 68685923394 + 16 * n
abbrev AN_REF_ANG_ANG (n : Nat) : Field := ⟨(AN_REF_ANG n), 0, 36⟩
abbrev AN_REF_FREQ (n : Nat) : Nat := 68685923395 + 16 * n
abbrev AN_REF_FREQ_FREQ (n : Nat) : Field := ⟨(AN_REF_FREQ n), 0, 36⟩
abbrev AN_REF_FMIN (n : Nat) : Nat := 68685923396 + 16 * n
abbrev AN_REF_FMIN_FMIN (n : Nat) : Field := ⟨(AN_REF_FMIN n), 0, 36⟩
abbrev AN_REF_FMAX (n : Nat) : Nat := 68685923397 + 16 * n
abbrev AN_REF_FMAX_FMAX (n : Nat) : Field := ⟨(AN_REF_FMAX n), 0, 36⟩
abbrev AN_REF_ROCOF (n : Nat) : Nat := 68685923398 + 16 * n
abbrev AN_REF_ROCOF_ROCOF (n : Nat) : Field := ⟨(AN_REF_ROCOF n), 0, 36⟩
abbrev AN_REF_LOCK (n : Nat) : Nat := 68685923399 + 16 * n
abbrev AN_REF_LOCK_LOCKTH (n : Nat) : Field := ⟨(AN_REF_LOCK n), 0, 18⟩
abbrev AN_REF_LOCK_LOCKN (n : Nat) : Field := ⟨(AN_REF_LOCK n), 18, 4⟩
abbrev AN_REF_LOCK_RELOCKN (n : Nat) : Field := ⟨(AN_REF_LOCK n), 22, 4⟩
abbrev AN_REF_LOCK_VMIN (n : Nat) : Field := ⟨(AN_REF_LOCK n), 26, 9⟩
abbrev AN_REF_HOLD (n : Nat) : Nat := 68685923400 + 16 * n
abbrev AN_REF_HOLD_HOLDMS (n : Nat) : Field := ⟨(AN_REF_HOLD n), 0, 18⟩
abbrev AN_REF_HOLD_PJMP (n : Nat) : Field := ⟨(AN_REF_HOLD n), 18, 18⟩
abbrev AN_REF_SLEW (n : Nat) : Nat := 68685923401 + 16 * n
abbrev AN_REF_SLEW_SLEW (n : Nat) : Field := ⟨(AN_REF_SLEW n), 0, 36⟩
abbrev AN_REF_PHOFF (n : Nat) : Nat := 68685923402 + 16 * n
abbrev AN_REF_PHOFF_PHOFF (n : Nat) : Field := ⟨(AN_REF_PHOFF n), 0, 24⟩
abbrev AN_REF_PERR (n : Nat) : Nat := 68685923403 + 16 * n
abbrev AN_REF_PERR_PERR (n : Nat) : Field := ⟨(AN_REF_PERR n), 0, 36⟩
abbrev AN_REF_INC (n : Nat) : Nat := 68685923404 + 16 * n
abbrev AN_REF_INC_INC (n : Nat) : Field := ⟨(AN_REF_INC n), 0, 36⟩
abbrev AN_REF_CNT (n : Nat) : Nat := 68685923405 + 16 * n
abbrev AN_REF_CNT_REJ (n : Nat) : Field := ⟨(AN_REF_CNT n), 0, 18⟩
abbrev AN_REF_CNT_RELK (n : Nat) : Field := ⟨(AN_REF_CNT n), 18, 18⟩
abbrev AN_REF_LOOP (n : Nat) : Nat := 68685923406 + 16 * n
abbrev AN_REF_LOOP_KP (n : Nat) : Field := ⟨(AN_REF_LOOP n), 0, 6⟩
abbrev AN_REF_LOOP_KI (n : Nat) : Field := ⟨(AN_REF_LOOP n), 6, 6⟩
abbrev AN_REF_RSV (n : Nat) : Nat := 68685923407 + 16 * n
abbrev AN_REF_RSV_RSV (n : Nat) : Field := ⟨(AN_REF_RSV n), 0, 36⟩
abbrev AN_VP_ANG (p i : Nat) : Nat := 68685923584 + 32 * p + i
abbrev AN_VP_ANG_ANG (p i : Nat) : Field := ⟨(AN_VP_ANG p i), 0, 36⟩
abbrev AN_VP_STAT (p i : Nat) : Nat := 68685923592 + 32 * p + i
abbrev AN_VP_STAT_STAT (p i : Nat) : Field := ⟨(AN_VP_STAT p i), 0, 36⟩
abbrev AN_VP_FREQ (p i : Nat) : Nat := 68685923600 + 32 * p + i
abbrev AN_VP_FREQ_FREQ (p i : Nat) : Field := ⟨(AN_VP_FREQ p i), 0, 36⟩
abbrev AN_VP_HI (p : Nat) : Nat := 68685923608 + 32 * p
abbrev AN_VP_HI_T (p : Nat) : Field := ⟨(AN_VP_HI p), 0, 36⟩
abbrev AN_VP_LO (p : Nat) : Nat := 68685923609 + 32 * p
abbrev AN_VP_LO_T (p : Nat) : Field := ⟨(AN_VP_LO p), 0, 36⟩
abbrev SC_CFG : Nat := 68690116608
abbrev SC_CFG_EN : Field := ⟨SC_CFG, 0, 1⟩
abbrev SC_CFG_LEAD : Field := ⟨SC_CFG, 1, 12⟩
abbrev SC_STAT : Nat := 68690116609
abbrev SC_STAT_NSTAGED : Field := ⟨SC_STAT, 0, 9⟩
abbrev SC_STAT_NRUN : Field := ⟨SC_STAT, 9, 9⟩
abbrev SC_STAT_NWAIT : Field := ⟨SC_STAT, 18, 13⟩
abbrev SC_PRANGE (p : Nat) : Nat := 68690116610 + p
abbrev SC_PRANGE_BASE (p : Nat) : Field := ⟨(SC_PRANGE p), 0, 8⟩
abbrev SC_PRANGE_COUNT (p : Nat) : Field := ⟨(SC_PRANGE p), 8, 9⟩
abbrev SC_EVOWN (w : Nat) : Nat := 68690116626 + w
abbrev SC_EVOWN_OWN (w : Nat) : Field := ⟨(SC_EVOWN w), 0, 32⟩
abbrev SC_CMD (p : Nat) : Nat := 68690116736 + 16 * p
abbrev SC_CMD_OP (p : Nat) : Field := ⟨(SC_CMD p), 0, 4⟩
abbrev SC_CMD_CTX (p : Nat) : Field := ⟨(SC_CMD p), 4, 12⟩
abbrev SC_CMD_ARG (p : Nat) : Field := ⟨(SC_CMD p), 16, 20⟩
abbrev SC_RESULT (p : Nat) : Nat := 68690116737 + 16 * p
abbrev SC_RESULT_STATUS (p : Nat) : Field := ⟨(SC_RESULT p), 0, 4⟩
abbrev SC_RESULT_DONE (p : Nat) : Field := ⟨(SC_RESULT p), 4, 1⟩
abbrev SC_RESULT_CTX (p : Nat) : Field := ⟨(SC_RESULT p), 5, 12⟩
abbrev SC_RESULT_BUSYHIT (p : Nat) : Field := ⟨(SC_RESULT p), 17, 1⟩
abbrev SC_RESULT_BUSYHIT_MORE (p : Nat) : Field := ⟨(SC_RESULT p), 18, 1⟩
abbrev SC_PSTAT (p : Nat) : Nat := 68690116738 + 16 * p
abbrev SC_PSTAT_LATE (p : Nat) : Field := ⟨(SC_PSTAT p), 0, 1⟩
abbrev SC_PSTAT_LATE_MORE (p : Nat) : Field := ⟨(SC_PSTAT p), 1, 1⟩
abbrev SC_PSTAT_OVR (p : Nat) : Field := ⟨(SC_PSTAT p), 2, 1⟩
abbrev SC_PSTAT_OVR_MORE (p : Nat) : Field := ⟨(SC_PSTAT p), 3, 1⟩
abbrev SC_PSTAT_MISS (p : Nat) : Field := ⟨(SC_PSTAT p), 4, 1⟩
abbrev SC_PSTAT_MISS_MORE (p : Nat) : Field := ⟨(SC_PSTAT p), 5, 1⟩
abbrev SC_PSTAT_HALT (p : Nat) : Field := ⟨(SC_PSTAT p), 6, 1⟩
abbrev SC_PSTAT_HALT_MORE (p : Nat) : Field := ⟨(SC_PSTAT p), 7, 1⟩
abbrev SC_PSTAT_PARK (p : Nat) : Field := ⟨(SC_PSTAT p), 8, 1⟩
abbrev SC_PSTAT_PARK_MORE (p : Nat) : Field := ⟨(SC_PSTAT p), 9, 1⟩
abbrev SC_PSTAT_BADRAISE (p : Nat) : Field := ⟨(SC_PSTAT p), 10, 1⟩
abbrev SC_PSTAT_BADRAISE_MORE (p : Nat) : Field := ⟨(SC_PSTAT p), 11, 1⟩
abbrev SC_PSTAT_INTLK (p : Nat) : Field := ⟨(SC_PSTAT p), 12, 1⟩
abbrev SC_PSTAT_INTLK_MORE (p : Nat) : Field := ⟨(SC_PSTAT p), 13, 1⟩
abbrev SC_PLATE (p : Nat) : Nat := 68690116739 + 16 * p
abbrev SC_PLATE_N (p : Nat) : Field := ⟨(SC_PLATE p), 0, 36⟩
abbrev SC_PMISS (p : Nat) : Nat := 68690116740 + 16 * p
abbrev SC_PMISS_N (p : Nat) : Field := ⟨(SC_PMISS p), 0, 36⟩
abbrev SC_POVR (p : Nat) : Nat := 68690116741 + 16 * p
abbrev SC_POVR_N (p : Nat) : Field := ⟨(SC_POVR p), 0, 36⟩
abbrev SC_EVRAISE (p : Nat) : Nat := 68690116742 + 16 * p
abbrev SC_EVRAISE_SRC (p : Nat) : Field := ⟨(SC_EVRAISE p), 0, 10⟩
abbrev SC_OPAGE_F (n : Nat) : Nat := 68690117632 + 2 * n
abbrev SC_OPAGE_F_FRAME (n : Nat) : Field := ⟨(SC_OPAGE_F n), 0, 26⟩
abbrev SC_OPAGE_F_V (n : Nat) : Field := ⟨(SC_OPAGE_F n), 26, 1⟩
abbrev SC_OPAGE_F_INTLK (n : Nat) : Field := ⟨(SC_OPAGE_F n), 27, 1⟩
abbrev SC_OPAGE_C (n : Nat) : Nat := 68690117633 + 2 * n
abbrev SC_OPAGE_C_CTX (n : Nat) : Field := ⟨(SC_OPAGE_C n), 0, 12⟩
abbrev FN_STAT : Nat := 68685922560
abbrev FN_STAT_H0UP : Field := ⟨FN_STAT, 0, 1⟩
abbrev FN_STAT_H1UP : Field := ⟨FN_STAT, 1, 1⟩
abbrev FN_ERR : Nat := 68685922561
abbrev FN_ERR_CE : Field := ⟨FN_ERR, 0, 18⟩
abbrev FN_ERR_UE : Field := ⟨FN_ERR, 18, 18⟩
abbrev FN_UELOG : Nat := 68685922562
abbrev FN_UELOG_CTX : Field := ⟨FN_UELOG, 0, 12⟩
abbrev FN_UELOG_WORD : Field := ⟨FN_UELOG, 12, 8⟩
abbrev FN_UELOG_V : Field := ⟨FN_UELOG, 20, 1⟩
abbrev FN_UELOG_V_MORE : Field := ⟨FN_UELOG, 21, 1⟩
abbrev FN_RSV : Nat := 68685922563
abbrev FN_RSV_RSV : Field := ⟨FN_RSV, 0, 36⟩
abbrev FN_PMAX (n : Nat) : Nat := 68685922564 + n
abbrev FN_PMAX_STG (n : Nat) : Field := ⟨(FN_PMAX n), 0, 18⟩
abbrev FN_PMAX_WB (n : Nat) : Field := ⟨(FN_PMAX n), 18, 18⟩
abbrev CP_SVBASE (p w : Nat) : Nat := 68685930496 + 256 * p + 4 * w
abbrev CP_SVBASE_BASE (p w : Nat) : Field := ⟨(CP_SVBASE p w), 11, 25⟩
abbrev CP_EVEC (p w : Nat) : Nat := 68685930497 + 256 * p + 4 * w
abbrev CP_EVEC_VEC (p w : Nat) : Field := ⟨(CP_EVEC p w), 2, 34⟩
abbrev CP_ETTB (p w : Nat) : Nat := 68685930498 + 256 * p + 4 * w
abbrev CP_ETTB_ROOT (p w : Nat) : Field := ⟨(CP_ETTB p w), 0, 32⟩
abbrev CP_ETTB_V (p w : Nat) : Field := ⟨(CP_ETTB p w), 35, 1⟩
abbrev CP_ESP (p w : Nat) : Nat := 68685930499 + 256 * p + 4 * w
abbrev CP_ESP_SP (p w : Nat) : Field := ⟨(CP_ESP p w), 0, 36⟩
abbrev CP_IRQ (p l : Nat) : Nat := 68685930504 + 256 * p + l
abbrev CP_IRQ_SRC (p l : Nat) : Field := ⟨(CP_IRQ p l), 0, 10⟩
abbrev CP_IRQ_TGT (p l : Nat) : Field := ⟨(CP_IRQ p l), 10, 12⟩
abbrev CP_IRQ_PRI (p l : Nat) : Field := ⟨(CP_IRQ p l), 22, 3⟩
abbrev CP_IRQ_EN (p l : Nat) : Field := ⟨(CP_IRQ p l), 25, 1⟩
abbrev CP_IRQ_WAKE (p l : Nat) : Field := ⟨(CP_IRQ p l), 26, 1⟩
abbrev CP_IPEND (p k : Nat) : Nat := 68685930568 + 256 * p + k
abbrev CP_IPEND_PEND (p k : Nat) : Field := ⟨(CP_IPEND p k), 0, 16⟩
abbrev CP_IPEND_PEND_MORE (p k : Nat) : Field := ⟨(CP_IPEND p k), 16, 16⟩
abbrev CP_ISTAT (p : Nat) : Nat := 68685930572 + 256 * p
abbrev CP_ISTAT_ORPHAN (p : Nat) : Field := ⟨(CP_ISTAT p), 0, 1⟩
abbrev CP_ISTAT_ORPHAN_MORE (p : Nat) : Field := ⟨(CP_ISTAT p), 1, 1⟩
abbrev CP_ISTAT_BADSRC (p : Nat) : Field := ⟨(CP_ISTAT p), 2, 1⟩
abbrev CP_ISTAT_BADSRC_MORE (p : Nat) : Field := ⟨(CP_ISTAT p), 3, 1⟩
abbrev CP_ISTAT_ASEL (p : Nat) : Field := ⟨(CP_ISTAT p), 4, 1⟩
abbrev CP_ISTAT_ASEL_MORE (p : Nat) : Field := ⟨(CP_ISTAT p), 5, 1⟩
abbrev CP_ASELA (p : Nat) : Nat := 68685930573 + 256 * p
abbrev CP_ASELA_ADDR (p : Nat) : Field := ⟨(CP_ASELA p), 0, 36⟩
abbrev CP_ASELC (p : Nat) : Nat := 68685930574 + 256 * p
abbrev CP_ASELC_CTX (p : Nat) : Field := ⟨(CP_ASELC p), 0, 12⟩
abbrev CP_ASELC_SUB (p : Nat) : Field := ⟨(CP_ASELC p), 12, 3⟩
abbrev TL_WB (p k : Nat) : Nat := 68685955072 + 64 * p + 2 * k
abbrev TL_WB_BASE (p k : Nat) : Field := ⟨(TL_WB p k), 0, 32⟩
abbrev TL_WB_R (p k : Nat) : Field := ⟨(TL_WB p k), 32, 1⟩
abbrev TL_WB_W (p k : Nat) : Field := ⟨(TL_WB p k), 33, 1⟩
abbrev TL_WB_X (p k : Nat) : Field := ⟨(TL_WB p k), 34, 1⟩
abbrev TL_WL (p k : Nat) : Nat := 68685955073 + 64 * p + 2 * k
abbrev TL_WL_LIMIT (p k : Nat) : Field := ⟨(TL_WL p k), 0, 32⟩
abbrev TL_WL_V (p k : Nat) : Field := ⟨(TL_WL p k), 32, 1⟩
abbrev TL_STAT : Nat := 68685956096
abbrev TL_STAT_WPEND : Field := ⟨TL_STAT, 0, 1⟩
abbrev TL_STAT_WREF : Field := ⟨TL_STAT, 1, 1⟩
abbrev TL_STAT_WREF_MORE : Field := ⟨TL_STAT, 2, 1⟩
abbrev TL_PVA (n : Nat) : Nat := 68685956160 + 16 * n
abbrev TL_PVA_VA (n : Nat) : Field := ⟨(TL_PVA n), 0, 36⟩
abbrev TL_PROOT (n : Nat) : Nat := 68685956161 + 16 * n
abbrev TL_PROOT_ROOT (n : Nat) : Field := ⟨(TL_PROOT n), 0, 32⟩
abbrev TL_PROOT_V (n : Nat) : Field := ⟨(TL_PROOT n), 35, 1⟩
abbrev TL_PCMD (n : Nat) : Nat := 68685956162 + 16 * n
abbrev TL_PCMD_OP (n : Nat) : Field := ⟨(TL_PCMD n), 0, 2⟩
abbrev TL_PRES (n : Nat) : Nat := 68685956163 + 16 * n
abbrev TL_PRES_STATUS (n : Nat) : Field := ⟨(TL_PRES n), 0, 4⟩
abbrev TL_PRES_DONE (n : Nat) : Field := ⟨(TL_PRES n), 4, 1⟩
abbrev TL_PRES_CODE (n : Nat) : Field := ⟨(TL_PRES n), 5, 6⟩
abbrev TL_PRES_SUB (n : Nat) : Field := ⟨(TL_PRES n), 11, 4⟩
abbrev TL_PRES_BUSYHIT (n : Nat) : Field := ⟨(TL_PRES n), 15, 1⟩
abbrev TL_PRES_BUSYHIT_MORE (n : Nat) : Field := ⟨(TL_PRES n), 16, 1⟩
abbrev TL_PSTAT (n : Nat) : Nat := 68685956164 + 16 * n
abbrev TL_PSTAT_PINLOST (n : Nat) : Field := ⟨(TL_PSTAT n), 0, 1⟩
abbrev TL_PSTAT_PINLOST_MORE (n : Nat) : Field := ⟨(TL_PSTAT n), 1, 1⟩
abbrev TL_PUSED (n : Nat) : Nat := 68685956165 + 16 * n
abbrev TL_PUSED_COUNT (n : Nat) : Field := ⟨(TL_PUSED n), 0, 7⟩
abbrev TL_PLOST (n : Nat) : Nat := 68685956166 + 16 * n
abbrev TL_PLOST_VA (n : Nat) : Field := ⟨(TL_PLOST n), 0, 36⟩
abbrev CH_CFG : Nat := 68685971456
abbrev CH_CFG_SCRUB : Field := ⟨CH_CFG, 0, 5⟩
abbrev CH_CFG_SCRUBEN : Field := ⟨CH_CFG, 5, 1⟩
abbrev CH_STAT : Nat := 68685971457
abbrev CH_STAT_DEAD : Field := ⟨CH_STAT, 0, 16⟩
abbrev CH_STAT_RECL : Field := ⟨CH_STAT, 16, 1⟩
abbrev CH_DCMD : Nat := 68685971458
abbrev CH_DCMD_AGENT : Field := ⟨CH_DCMD, 0, 4⟩
abbrev CH_DCMD_OP : Field := ⟨CH_DCMD, 4, 2⟩
abbrev CH_LKCMD : Nat := 68685971459
abbrev CH_LKCMD_OP : Field := ⟨CH_LKCMD, 0, 2⟩
abbrev CH_LKCMD_TGT : Field := ⟨CH_LKCMD, 2, 6⟩
abbrev CH_RES : Nat := 68685971460
abbrev CH_RES_STATUS : Field := ⟨CH_RES, 0, 4⟩
abbrev CH_RES_DONE : Field := ⟨CH_RES, 4, 1⟩
abbrev CH_RES_BUSYHIT : Field := ⟨CH_RES, 5, 1⟩
abbrev CH_RES_BUSYHIT_MORE : Field := ⟨CH_RES, 6, 1⟩
abbrev CH_ELOGA : Nat := 68685971461
abbrev CH_ELOGA_LINE : Field := ⟨CH_ELOGA, 0, 32⟩
abbrev CH_ELOGA_WORD : Field := ⟨CH_ELOGA, 32, 4⟩
abbrev CH_ELOGB : Nat := 68685971462
abbrev CH_ELOGB_SYN : Field := ⟨CH_ELOGB, 0, 12⟩
abbrev CH_ELOGB_SRC : Field := ⟨CH_ELOGB, 12, 5⟩
abbrev CH_ELOGB_L1 : Field := ⟨CH_ELOGB, 17, 1⟩
abbrev CH_ELOGB_V : Field := ⟨CH_ELOGB, 18, 1⟩
abbrev CH_ELOGB_V_MORE : Field := ⟨CH_ELOGB, 19, 1⟩
abbrev CH_EVT : Nat := 68685971463
abbrev CH_EVT_UE : Field := ⟨CH_EVT, 0, 1⟩
abbrev CH_EVT_UE_MORE : Field := ⟨CH_EVT, 1, 1⟩
abbrev CH_EVT_LOSTRD : Field := ⟨CH_EVT, 2, 1⟩
abbrev CH_EVT_LOSTRD_MORE : Field := ⟨CH_EVT, 3, 1⟩
abbrev CH_EVT_DEAD : Field := ⟨CH_EVT, 4, 1⟩
abbrev CH_EVT_DEAD_MORE : Field := ⟨CH_EVT, 5, 1⟩
abbrev CH_EVT_WHDROP : Field := ⟨CH_EVT, 6, 1⟩
abbrev CH_EVT_WHDROP_MORE : Field := ⟨CH_EVT, 7, 1⟩
abbrev CH_EVT_LKREF : Field := ⟨CH_EVT, 8, 1⟩
abbrev CH_EVT_LKREF_MORE : Field := ⟨CH_EVT, 9, 1⟩
abbrev CH_EVT_LKDONE : Field := ⟨CH_EVT, 10, 1⟩
abbrev CH_EVT_LKDONE_MORE : Field := ⟨CH_EVT, 11, 1⟩
abbrev CH_EVT_SLICELOSS : Field := ⟨CH_EVT, 12, 1⟩
abbrev CH_EVT_SLICELOSS_MORE : Field := ⟨CH_EVT, 13, 1⟩
abbrev CH_CNT (x : Nat) : Nat := 68685971464 + x
abbrev CH_CNT_CE (x : Nat) : Field := ⟨(CH_CNT x), 0, 18⟩
abbrev CH_CNT_UE (x : Nat) : Field := ⟨(CH_CNT x), 18, 18⟩
abbrev CH_LKMISS (c : Nat) : Nat := 68685971484 + c
abbrev CH_LKMISS_COUNT (c : Nat) : Field := ⟨(CH_LKMISS c), 0, 36⟩
abbrev CH_L2B (c r : Nat) : Nat := 68685971520 + 8 * c + 2 * r
abbrev CH_L2B_BASE (c r : Nat) : Field := ⟨(CH_L2B c r), 0, 21⟩
abbrev CH_L2C (c r : Nat) : Nat := 68685971521 + 8 * c + 2 * r
abbrev CH_L2C_PART (c r : Nat) : Field := ⟨(CH_L2C c r), 0, 4⟩
abbrev CH_L2C_WAYS (c r : Nat) : Field := ⟨(CH_L2C c r), 4, 4⟩
abbrev CH_L2C_FIRST (c r : Nat) : Field := ⟨(CH_L2C c r), 8, 4⟩
abbrev CH_L2C_WX (c r : Nat) : Field := ⟨(CH_L2C c r), 12, 1⟩
abbrev CH_L2C_STATE (c r : Nat) : Field := ⟨(CH_L2C c r), 13, 2⟩
abbrev CH_LLB (r : Nat) : Nat := 68685971616 + 2 * r
abbrev CH_LLB_BASE (r : Nat) : Field := ⟨(CH_LLB r), 0, 17⟩
abbrev CH_LLC (r : Nat) : Nat := 68685971617 + 2 * r
abbrev CH_LLC_PART (r : Nat) : Field := ⟨(CH_LLC r), 0, 4⟩
abbrev CH_LLC_WAYS (r : Nat) : Field := ⟨(CH_LLC r), 4, 4⟩
abbrev CH_LLC_FIRST (r : Nat) : Field := ⟨(CH_LLC r), 8, 4⟩
abbrev CH_LLC_STATE (r : Nat) : Field := ⟨(CH_LLC r), 13, 2⟩
abbrev LS_EVT : Nat := 68685979648
abbrev LS_EVT_MISM : Field := ⟨LS_EVT, 0, 1⟩
abbrev LS_EVT_MISM_MORE : Field := ⟨LS_EVT, 1, 1⟩
abbrev LS_EVT_PASS : Field := ⟨LS_EVT, 2, 1⟩
abbrev LS_EVT_PASS_MORE : Field := ⟨LS_EVT, 3, 1⟩
abbrev LS_EVT_FENCE : Field := ⟨LS_EVT, 4, 1⟩
abbrev LS_EVT_FENCE_MORE : Field := ⟨LS_EVT, 5, 1⟩
abbrev LS_EVT_STALE : Field := ⟨LS_EVT, 6, 1⟩
abbrev LS_EVT_STALE_MORE : Field := ⟨LS_EVT, 7, 1⟩
abbrev LS_EVT_TAKE : Field := ⟨LS_EVT, 8, 1⟩
abbrev LS_EVT_TAKE_MORE : Field := ⟨LS_EVT, 9, 1⟩
abbrev LS_EVT_NOSPARE : Field := ⟨LS_EVT, 10, 1⟩
abbrev LS_EVT_NOSPARE_MORE : Field := ⟨LS_EVT, 11, 1⟩
abbrev LS_EVT_SPLOST : Field := ⟨LS_EVT, 12, 1⟩
abbrev LS_EVT_SPLOST_MORE : Field := ⟨LS_EVT, 13, 1⟩
abbrev LS_EVT_MODE : Field := ⟨LS_EVT, 14, 1⟩
abbrev LS_EVT_MODE_MORE : Field := ⟨LS_EVT, 15, 1⟩
abbrev LS_EVT_LOSTL : Field := ⟨LS_EVT, 16, 1⟩
abbrev LS_EVT_LOSTL_MORE : Field := ⟨LS_EVT, 17, 1⟩
abbrev LS_CFG (k : Nat) : Nat := 68685979664 + 8 * k
abbrev LS_CFG_SPARE (k : Nat) : Field := ⟨(LS_CFG k), 0, 5⟩
abbrev LS_CFG_SPAREV (k : Nat) : Field := ⟨(LS_CFG k), 5, 1⟩
abbrev LS_CFG_SURVG (k : Nat) : Field := ⟨(LS_CFG k), 6, 1⟩
abbrev LS_CMD (k : Nat) : Nat := 68685979665 + 8 * k
abbrev LS_CMD_OP (k : Nat) : Field := ⟨(LS_CMD k), 0, 3⟩
abbrev LS_RES (k : Nat) : Nat := 68685979666 + 8 * k
abbrev LS_RES_STATUS (k : Nat) : Field := ⟨(LS_RES k), 0, 4⟩
abbrev LS_RES_DONE (k : Nat) : Field := ⟨(LS_RES k), 4, 1⟩
abbrev LS_RES_BUSYHIT (k : Nat) : Field := ⟨(LS_RES k), 5, 1⟩
abbrev LS_RES_BUSYHIT_MORE (k : Nat) : Field := ⟨(LS_RES k), 6, 1⟩
abbrev LS_STAT (k : Nat) : Nat := 68685979667 + 8 * k
abbrev LS_STAT_STATE (k : Nat) : Field := ⟨(LS_STAT k), 0, 3⟩
abbrev LS_STAT_OWNER (k : Nat) : Field := ⟨(LS_STAT k), 3, 5⟩
abbrev LS_STAT_FAILM (k : Nat) : Field := ⟨(LS_STAT k), 8, 1⟩
abbrev LS_STAT_FAILC (k : Nat) : Field := ⟨(LS_STAT k), 9, 1⟩
abbrev LS_STAT_PINS (k : Nat) : Field := ⟨(LS_STAT k), 10, 7⟩
abbrev LS_LOGA (k : Nat) : Nat := 68685979668 + 8 * k
abbrev LS_LOGA_CYC (k : Nat) : Field := ⟨(LS_LOGA k), 0, 36⟩
abbrev LS_LOGB (k : Nat) : Nat := 68685979669 + 8 * k
abbrev LS_LOGB_SLOT (k : Nat) : Field := ⟨(LS_LOGB k), 0, 3⟩
abbrev LS_LOGB_KIND (k : Nat) : Field := ⟨(LS_LOGB k), 3, 4⟩
abbrev LS_LOGB_CTX (k : Nat) : Field := ⟨(LS_LOGB k), 7, 12⟩
abbrev LS_LOGB_V (k : Nat) : Field := ⟨(LS_LOGB k), 19, 1⟩
abbrev LS_LOGB_V_MORE (k : Nat) : Field := ⟨(LS_LOGB k), 20, 1⟩
abbrev LS_CNT (k : Nat) : Nat := 68685979670 + 8 * k
abbrev LS_CNT_MISM (k : Nat) : Field := ⟨(LS_CNT k), 0, 12⟩
abbrev LS_CNT_PASS (k : Nat) : Field := ⟨(LS_CNT k), 12, 12⟩
abbrev LS_CNT_LOSTL (k : Nat) : Field := ⟨(LS_CNT k), 24, 12⟩
abbrev MC_MAP : Nat := 68685987840
abbrev MC_MAP_CHMASK : Field := ⟨MC_MAP, 0, 6⟩
abbrev MC_MAP_GRAIN : Field := ⟨MC_MAP, 6, 4⟩
abbrev MC_MAP_MRANKS : Field := ⟨MC_MAP, 10, 1⟩
abbrev MC_MAP_DENS : Field := ⟨MC_MAP, 11, 1⟩
abbrev MC_CMD : Nat := 68685987841
abbrev MC_CMD_OP : Field := ⟨MC_CMD, 0, 4⟩
abbrev MC_CMD_CH : Field := ⟨MC_CMD, 4, 3⟩
abbrev MC_CMD_RANK : Field := ⟨MC_CMD, 7, 1⟩
abbrev MC_RES : Nat := 68685987842
abbrev MC_RES_STATUS : Field := ⟨MC_RES, 0, 4⟩
abbrev MC_RES_DONE : Field := ⟨MC_RES, 4, 1⟩
abbrev MC_RES_BUSYHIT : Field := ⟨MC_RES, 5, 1⟩
abbrev MC_RES_BUSYHIT_MORE : Field := ⟨MC_RES, 6, 1⟩
abbrev MC_RES_FAILDEV : Field := ⟨MC_RES, 7, 4⟩
abbrev MC_EVT : Nat := 68685987843
abbrev MC_EVT_UE : Field := ⟨MC_EVT, 0, 1⟩
abbrev MC_EVT_UE_MORE : Field := ⟨MC_EVT, 1, 1⟩
abbrev MC_EVT_THR : Field := ⟨MC_EVT, 2, 1⟩
abbrev MC_EVT_THR_MORE : Field := ⟨MC_EVT, 3, 1⟩
abbrev MC_EVT_MIGST : Field := ⟨MC_EVT, 4, 1⟩
abbrev MC_EVT_MIGST_MORE : Field := ⟨MC_EVT, 5, 1⟩
abbrev MC_EVT_MIGDONE : Field := ⟨MC_EVT, 6, 1⟩
abbrev MC_EVT_MIGDONE_MORE : Field := ⟨MC_EVT, 7, 1⟩
abbrev MC_EVT_DRIFT : Field := ⟨MC_EVT, 8, 1⟩
abbrev MC_EVT_DRIFT_MORE : Field := ⟨MC_EVT, 9, 1⟩
abbrev MC_EVT_TEMP : Field := ⟨MC_EVT, 10, 1⟩
abbrev MC_EVT_TEMP_MORE : Field := ⟨MC_EVT, 11, 1⟩
abbrev MC_EVT_LOST : Field := ⟨MC_EVT, 12, 1⟩
abbrev MC_EVT_LOST_MORE : Field := ⟨MC_EVT, 13, 1⟩
abbrev MC_EVT_CFGREF : Field := ⟨MC_EVT, 14, 1⟩
abbrev MC_EVT_CFGREF_MORE : Field := ⟨MC_EVT, 15, 1⟩
abbrev MC_EVT_MEAS : Field := ⟨MC_EVT, 16, 1⟩
abbrev MC_EVT_MEAS_MORE : Field := ⟨MC_EVT, 17, 1⟩
abbrev MC_QW (i : Nat) : Nat := 68685987844 + i
abbrev MC_QW_WT (i : Nat) : Field := ⟨(MC_QW i), 0, 32⟩
abbrev MC_NRSEED : Nat := 68685987846
abbrev MC_NRSEED_SEED : Field := ⟨MC_NRSEED, 0, 36⟩
abbrev MC_CHCFG (c : Nat) : Nat := 68685987904 + 64 * c
abbrev MC_CHCFG_PR2 (c : Nat) : Field := ⟨(MC_CHCFG c), 0, 1⟩
abbrev MC_CHCFG_LMAP (c : Nat) : Field := ⟨(MC_CHCFG c), 1, 1⟩
abbrev MC_CHCFG_SPAREV (c : Nat) : Field := ⟨(MC_CHCFG c), 2, 1⟩
abbrev MC_CHCFG_AUTO (c : Nat) : Field := ⟨(MC_CHCFG c), 3, 1⟩
abbrev MC_CHCFG_AUTOX (c : Nat) : Field := ⟨(MC_CHCFG c), 4, 1⟩
abbrev MC_CHCFG_REFX2 (c : Nat) : Field := ⟨(MC_CHCFG c), 5, 1⟩
abbrev MC_CHSTAT (c : Nat) : Nat := 68685987905 + 64 * c
abbrev MC_CHSTAT_STATE (c : Nat) : Field := ⟨(MC_CHSTAT c), 0, 3⟩
abbrev MC_CHSTAT_SPST (c : Nat) : Field := ⟨(MC_CHSTAT c), 3, 2⟩
abbrev MC_CHSTAT_REFX2 (c : Nat) : Field := ⟨(MC_CHSTAT c), 5, 2⟩
abbrev MC_CHSTAT_DLYPEND (c : Nat) : Field := ⟨(MC_CHSTAT c), 7, 2⟩
abbrev MC_CHSTAT_RQ (c : Nat) : Field := ⟨(MC_CHSTAT c), 9, 7⟩
abbrev MC_CHSTAT_WQ (c : Nat) : Field := ⟨(MC_CHSTAT c), 16, 7⟩
abbrev MC_TIM0 (c : Nat) : Nat := 68685987906 + 64 * c
abbrev MC_TIM0_CL (c : Nat) : Field := ⟨(MC_TIM0 c), 0, 8⟩
abbrev MC_TIM0_CWL (c : Nat) : Field := ⟨(MC_TIM0 c), 8, 8⟩
abbrev MC_TIM0_RCD (c : Nat) : Field := ⟨(MC_TIM0 c), 16, 8⟩
abbrev MC_TIM0_RP (c : Nat) : Field := ⟨(MC_TIM0 c), 24, 8⟩
abbrev MC_TIM1 (c : Nat) : Nat := 68685987907 + 64 * c
abbrev MC_TIM1_RAS (c : Nat) : Field := ⟨(MC_TIM1 c), 0, 8⟩
abbrev MC_TIM1_WR (c : Nat) : Field := ⟨(MC_TIM1 c), 8, 8⟩
abbrev MC_TIM1_FAW (c : Nat) : Field := ⟨(MC_TIM1 c), 16, 8⟩
abbrev MC_TIM1_RRDL (c : Nat) : Field := ⟨(MC_TIM1 c), 24, 6⟩
abbrev MC_TIM1_RRDS (c : Nat) : Field := ⟨(MC_TIM1 c), 30, 6⟩
abbrev MC_TIM2 (c : Nat) : Nat := 68685987908 + 64 * c
abbrev MC_TIM2_RFC (c : Nat) : Field := ⟨(MC_TIM2 c), 0, 12⟩
abbrev MC_TIM2_REFI (c : Nat) : Field := ⟨(MC_TIM2 c), 12, 16⟩
abbrev MC_TIM2_WTRL (c : Nat) : Field := ⟨(MC_TIM2 c), 28, 8⟩
abbrev MC_SCHED (c : Nat) : Nat := 68685987909 + 64 * c
abbrev MC_SCHED_WHI (c : Nat) : Field := ⟨(MC_SCHED c), 0, 7⟩
abbrev MC_SCHED_WLO (c : Nat) : Field := ⟨(MC_SCHED c), 7, 7⟩
abbrev MC_SCHED_AGE (c : Nat) : Field := ⟨(MC_SCHED c), 14, 4⟩
abbrev MC_SCHED_IDLEW (c : Nat) : Field := ⟨(MC_SCHED c), 18, 1⟩
abbrev MC_RT (c : Nat) : Nat := 68685987910 + 64 * c
abbrev MC_RT_RTPER (c : Nat) : Field := ⟨(MC_RT c), 0, 8⟩
abbrev MC_RT_CWIN (c : Nat) : Field := ⟨(MC_RT c), 8, 5⟩
abbrev MC_RT_RTEN (c : Nat) : Field := ⟨(MC_RT c), 13, 1⟩
abbrev MC_NR (c : Nat) : Nat := 68685987911 + 64 * c
abbrev MC_NR_K (c : Nat) : Field := ⟨(MC_NR c), 0, 5⟩
abbrev MC_NR_RADIUS2 (c : Nat) : Field := ⟨(MC_NR c), 5, 1⟩
abbrev MC_NR_NREN (c : Nat) : Field := ⟨(MC_NR c), 6, 1⟩
abbrev MC_SP (c : Nat) : Nat := 68685987912 + 64 * c
abbrev MC_SP_THR (c : Nat) : Field := ⟨(MC_SP c), 0, 24⟩
abbrev MC_SP_RATE (c : Nat) : Field := ⟨(MC_SP c), 24, 4⟩
abbrev MC_SP_PSCRUB (c : Nat) : Field := ⟨(MC_SP c), 28, 5⟩
abbrev MC_SP_PSEN (c : Nat) : Field := ⟨(MC_SP c), 33, 1⟩
abbrev MC_CP (c : Nat) : Nat := 68685987913 + 64 * c
abbrev MC_CP_CP (c : Nat) : Field := ⟨(MC_CP c), 0, 29⟩
abbrev MC_ELOGA (c : Nat) : Nat := 68685987914 + 64 * c
abbrev MC_ELOGA_CL (c : Nat) : Field := ⟨(MC_ELOGA c), 0, 29⟩
abbrev MC_ELOGA_RANK (c : Nat) : Field := ⟨(MC_ELOGA c), 29, 1⟩
abbrev MC_ELOGA_WORD (c : Nat) : Field := ⟨(MC_ELOGA c), 30, 4⟩
abbrev MC_ELOGB (c : Nat) : Nat := 68685987915 + 64 * c
abbrev MC_ELOGB_SYN (c : Nat) : Field := ⟨(MC_ELOGB c), 0, 12⟩
abbrev MC_ELOGB_SRC (c : Nat) : Field := ⟨(MC_ELOGB c), 12, 2⟩
abbrev MC_ELOGB_V (c : Nat) : Field := ⟨(MC_ELOGB c), 14, 1⟩
abbrev MC_ELOGB_V_MORE (c : Nat) : Field := ⟨(MC_ELOGB c), 15, 1⟩
abbrev MC_RCNT (c r : Nat) : Nat := 68685987916 + 64 * c + r
abbrev MC_RCNT_CE (c r : Nat) : Field := ⟨(MC_RCNT c r), 0, 24⟩
abbrev MC_RCNT_UE (c r : Nat) : Field := ⟨(MC_RCNT c r), 24, 12⟩
abbrev MC_NRCNT (c : Nat) : Nat := 68685987918 + 64 * c
abbrev MC_NRCNT_N (c : Nat) : Field := ⟨(MC_NRCNT c), 0, 36⟩
abbrev MC_DCNT (c r i : Nat) : Nat := 68685987920 + 64 * c + 2 * r + i
abbrev MC_DCNT_CNT (c r i : Nat) : Field := ⟨(MC_DCNT c r i), 0, 36⟩
abbrev MC_MEAS (c d : Nat) : Nat := 68685987924 + 64 * c + d
abbrev MC_MEAS_RCTR (c d : Nat) : Field := ⟨(MC_MEAS c d), 0, 12⟩
abbrev MC_MEAS_WCTR (c d : Nat) : Field := ⟨(MC_MEAS c d), 12, 12⟩
abbrev MC_MEAS_RWID (c d : Nat) : Field := ⟨(MC_MEAS c d), 24, 6⟩
abbrev MC_MEAS_V (c d : Nat) : Field := ⟨(MC_MEAS c d), 30, 1⟩
abbrev MC_DLY (c r d : Nat) : Nat := 68685987936 + 64 * c + 12 * r + d
abbrev MC_DLY_RBASE (c r d : Nat) : Field := ⟨(MC_DLY c r d), 0, 12⟩
abbrev MC_DLY_WBASE (c r d : Nat) : Field := ⟨(MC_DLY c r d), 12, 12⟩
abbrev MC_DLY_RCORR (c r d : Nat) : Field := ⟨(MC_DLY c r d), 24, 6⟩
abbrev MC_DLY_WCORR (c r d : Nat) : Field := ⟨(MC_DLY c r d), 30, 6⟩
abbrev NP_CFG : Nat := 68686053376
abbrev NP_CFG_PM0 : Field := ⟨NP_CFG, 0, 2⟩
abbrev NP_CFG_PM1 : Field := ⟨NP_CFG, 2, 2⟩
abbrev NP_CFG_FWDEN : Field := ⟨NP_CFG, 4, 1⟩
abbrev NP_CFG_AGE : Field := ⟨NP_CFG, 5, 9⟩
abbrev NP_CFG_FLUSH : Field := ⟨NP_CFG, 14, 1⟩
abbrev NP_CFG_FLOODMC : Field := ⟨NP_CFG, 15, 1⟩
abbrev NP_CFG_DXP : Field := ⟨NP_CFG, 16, 6⟩
abbrev NP_EVT : Nat := 68686053377
abbrev NP_EVT_LINK : Field := ⟨NP_EVT, 0, 6⟩
abbrev NP_EVT_LINK_MORE : Field := ⟨NP_EVT, 6, 6⟩
abbrev NP_EVT_RING0 : Field := ⟨NP_EVT, 12, 1⟩
abbrev NP_EVT_RING0_MORE : Field := ⟨NP_EVT, 13, 1⟩
abbrev NP_EVT_RING1 : Field := ⟨NP_EVT, 14, 1⟩
abbrev NP_EVT_RING1_MORE : Field := ⟨NP_EVT, 15, 1⟩
abbrev NP_EVT_BYPF : Field := ⟨NP_EVT, 16, 1⟩
abbrev NP_EVT_BYPF_MORE : Field := ⟨NP_EVT, 17, 1⟩
abbrev NP_EVT_PTPSW : Field := ⟨NP_EVT, 18, 1⟩
abbrev NP_EVT_PTPSW_MORE : Field := ⟨NP_EVT, 19, 1⟩
abbrev NP_EVT_PTPGM : Field := ⟨NP_EVT, 20, 1⟩
abbrev NP_EVT_PTPGM_MORE : Field := ⟨NP_EVT, 21, 1⟩
abbrev NP_EVT_PTPTO : Field := ⟨NP_EVT, 22, 1⟩
abbrev NP_EVT_PTPTO_MORE : Field := ⟨NP_EVT, 23, 1⟩
abbrev NP_EVT_FBDROP : Field := ⟨NP_EVT, 24, 1⟩
abbrev NP_EVT_FBDROP_MORE : Field := ⟨NP_EVT, 25, 1⟩
abbrev NP_EVT_ERRH : Field := ⟨NP_EVT, 26, 1⟩
abbrev NP_EVT_ERRH_MORE : Field := ⟨NP_EVT, 27, 1⟩
abbrev NP_EVT_CFGREF : Field := ⟨NP_EVT, 28, 1⟩
abbrev NP_EVT_CFGREF_MORE : Field := ⟨NP_EVT, 29, 1⟩
abbrev NP_FBCFG : Nat := 68686053378
abbrev NP_FBCFG_RES7 : Field := ⟨NP_FBCFG, 0, 15⟩
abbrev NP_FBCFG_PLIM : Field := ⟨NP_FBCFG, 15, 15⟩
abbrev NP_FBSTAT : Nat := 68686053379
abbrev NP_FBSTAT_FREE : Field := ⟨NP_FBSTAT, 0, 16⟩
abbrev NP_FBSTAT_MINFREE : Field := ⟨NP_FBSTAT, 16, 16⟩
abbrev NP_PTPCFG : Nat := 68686053380
abbrev NP_PTPCFG_PSET : Field := ⟨NP_PTPCFG, 0, 6⟩
abbrev NP_PTPCFG_DOM : Field := ⟨NP_PTPCFG, 6, 8⟩
abbrev NP_PTPCFG_ONESTEP : Field := ⟨NP_PTPCFG, 14, 1⟩
abbrev NP_PTPCFG_PDIV : Field := ⟨NP_PTPCFG, 15, 3⟩
abbrev NP_PTPCFG_TCEN : Field := ⟨NP_PTPCFG, 18, 1⟩
abbrev NP_PTPCFG_ANNTO : Field := ⟨NP_PTPCFG, 19, 4⟩
abbrev NP_PTPSTAT : Nat := 68686053381
abbrev NP_PTPSTAT_STATE : Field := ⟨NP_PTPSTAT, 0, 2⟩
abbrev NP_PTPSTAT_ACT : Field := ⟨NP_PTPSTAT, 2, 3⟩
abbrev NP_PTPSTAT_GMCLASS : Field := ⟨NP_PTPSTAT, 5, 8⟩
abbrev NP_PTPSTAT_UTCV : Field := ⟨NP_PTPSTAT, 13, 1⟩
abbrev NP_DXADDR : Nat := 68686053382
abbrev NP_DXADDR_IP : Field := ⟨NP_DXADDR, 0, 32⟩
abbrev NP_DXPORT : Nat := 68686053383
abbrev NP_DXPORT_PORT : Field := ⟨NP_DXPORT, 0, 16⟩
abbrev NP_PCFG (x : Nat) : Nat := 68686053392 + 16 * x
abbrev NP_PCFG_MODE (x : Nat) : Field := ⟨(NP_PCFG x), 0, 2⟩
abbrev NP_PCFG_EN (x : Nat) : Field := ⟨(NP_PCFG x), 2, 1⟩
abbrev NP_PCFG_AN (x : Nat) : Field := ⟨(NP_PCFG x), 3, 1⟩
abbrev NP_PCFG_RGDLY (x : Nat) : Field := ⟨(NP_PCFG x), 4, 1⟩
abbrev NP_PCFG_MAXLEN (x : Nat) : Field := ⟨(NP_PCFG x), 5, 12⟩
abbrev NP_PCFG_DEFPCP (x : Nat) : Field := ⟨(NP_PCFG x), 17, 3⟩
abbrev NP_PCFG_PDEN (x : Nat) : Field := ⟨(NP_PCFG x), 20, 1⟩
abbrev NP_PCFG_LINKUP (x : Nat) : Field := ⟨(NP_PCFG x), 21, 7⟩
abbrev NP_PCFG_ERRLIM (x : Nat) : Field := ⟨(NP_PCFG x), 28, 8⟩
abbrev NP_PSTAT (x : Nat) : Nat := 68686053393 + 16 * x
abbrev NP_PSTAT_LINK (x : Nat) : Field := ⟨(NP_PSTAT x), 0, 1⟩
abbrev NP_PSTAT_ERRH (x : Nat) : Field := ⟨(NP_PSTAT x), 1, 1⟩
abbrev NP_MACH (x : Nat) : Nat := 68686053394 + 16 * x
abbrev NP_MACH_MAC (x : Nat) : Field := ⟨(NP_MACH x), 0, 24⟩
abbrev NP_MACL (x : Nat) : Nat := 68686053395 + 16 * x
abbrev NP_MACL_MAC (x : Nat) : Field := ⟨(NP_MACL x), 0, 24⟩
abbrev NP_FWD (x : Nat) : Nat := 68686053396 + 16 * x
abbrev NP_FWD_MASK (x : Nat) : Field := ⟨(NP_FWD x), 0, 7⟩
abbrev NP_PDLY (x : Nat) : Nat := 68686053397 + 16 * x
abbrev NP_PDLY_D (x : Nat) : Field := ⟨(NP_PDLY x), 0, 36⟩
abbrev NP_ASYM (x : Nat) : Nat := 68686053398 + 16 * x
abbrev NP_ASYM_A (x : Nat) : Field := ⟨(NP_ASYM x), 0, 18⟩
abbrev NP_CRX (x : Nat) : Nat := 68686053399 + 16 * x
abbrev NP_CRX_N (x : Nat) : Field := ⟨(NP_CRX x), 0, 36⟩
abbrev NP_CTX (x : Nat) : Nat := 68686053400 + 16 * x
abbrev NP_CTX_N (x : Nat) : Field := ⟨(NP_CTX x), 0, 36⟩
abbrev NP_CERR (x : Nat) : Nat := 68686053401 + 16 * x
abbrev NP_CERR_N (x : Nat) : Field := ⟨(NP_CERR x), 0, 36⟩
abbrev NP_CDROP (x : Nat) : Nat := 68686053402 + 16 * x
abbrev NP_CDROP_N (x : Nat) : Field := ⟨(NP_CDROP x), 0, 36⟩
abbrev NP_RCFG (k : Nat) : Nat := 68686053488 + 8 * k
abbrev NP_RCFG_NETID (k : Nat) : Field := ⟨(NP_RCFG k), 0, 3⟩
abbrev NP_RCFG_SUPLSB (k : Nat) : Field := ⟨(NP_RCFG k), 3, 8⟩
abbrev NP_RCFG_LIFE (k : Nat) : Field := ⟨(NP_RCFG k), 11, 5⟩
abbrev NP_RCFG_FORGET (k : Nat) : Field := ⟨(NP_RCFG k), 16, 9⟩
abbrev NP_RSTAT (k : Nat) : Nat := 68686053489 + 8 * k
abbrev NP_RSTAT_OPEN (k : Nat) : Field := ⟨(NP_RSTAT k), 0, 1⟩
abbrev NP_RSTAT_SILA (k : Nat) : Field := ⟨(NP_RSTAT k), 1, 1⟩
abbrev NP_RSTAT_SILB (k : Nat) : Field := ⟨(NP_RSTAT k), 2, 1⟩
abbrev NP_RSTAT_NODES (k : Nat) : Field := ⟨(NP_RSTAT k), 3, 9⟩
abbrev NP_BYP (k : Nat) : Nat := 68686053490 + 8 * k
abbrev NP_BYP_EN (k : Nat) : Field := ⟨(NP_BYP k), 0, 1⟩
abbrev NP_BYP_FORCE (k : Nat) : Field := ⟨(NP_BYP k), 1, 1⟩
abbrev NP_BYP_HOLDDLY (k : Nat) : Field := ⟨(NP_BYP k), 2, 10⟩
abbrev NP_BYP_HEALTHY (k : Nat) : Field := ⟨(NP_BYP k), 12, 1⟩
abbrev NP_BYP_HOLD (k : Nat) : Field := ⟨(NP_BYP k), 13, 1⟩
abbrev NP_BYP_OPEN (k : Nat) : Field := ⟨(NP_BYP k), 14, 1⟩
abbrev NP_BYP_SHORT (k : Nat) : Field := ⟨(NP_BYP k), 15, 1⟩
abbrev NP_CDUP (k : Nat) : Nat := 68686053491 + 8 * k
abbrev NP_CDUP_N (k : Nat) : Field := ⟨(NP_CDUP k), 0, 36⟩
abbrev NP_CWRONG (k : Nat) : Nat := 68686053492 + 8 * k
abbrev NP_CWRONG_N (k : Nat) : Field := ⟨(NP_CWRONG k), 0, 36⟩
abbrev NP_HRXB (p : Nat) : Nat := 68686053504 + 16 * p
abbrev NP_HRXB_B (p : Nat) : Field := ⟨(NP_HRXB p), 0, 36⟩
abbrev NP_HRXC (p : Nat) : Nat := 68686053505 + 16 * p
abbrev NP_HRXC_SIZE (p : Nat) : Field := ⟨(NP_HRXC p), 0, 4⟩
abbrev NP_HRXC_EN (p : Nat) : Field := ⟨(NP_HRXC p), 4, 1⟩
abbrev NP_HRXC_NEXT (p : Nat) : Field := ⟨(NP_HRXC p), 5, 12⟩
abbrev NP_HTXB (p : Nat) : Nat := 68686053506 + 16 * p
abbrev NP_HTXB_B (p : Nat) : Field := ⟨(NP_HTXB p), 0, 36⟩
abbrev NP_HTXC (p : Nat) : Nat := 68686053507 + 16 * p
abbrev NP_HTXC_SIZE (p : Nat) : Field := ⟨(NP_HTXC p), 0, 4⟩
abbrev NP_HTXC_EN (p : Nat) : Field := ⟨(NP_HTXC p), 4, 1⟩
abbrev NP_HTXC_NEXT (p : Nat) : Field := ⟨(NP_HTXC p), 5, 12⟩
abbrev NP_HTXK (p : Nat) : Nat := 68686053508 + 16 * p
abbrev NP_HTXK_K (p : Nat) : Field := ⟨(NP_HTXK p), 0, 36⟩
abbrev NP_HFIL (p : Nat) : Nat := 68686053509 + 16 * p
abbrev NP_HFIL_VID (p : Nat) : Field := ⟨(NP_HFIL p), 0, 12⟩
abbrev NP_HFIL_VEN (p : Nat) : Field := ⟨(NP_HFIL p), 12, 1⟩
abbrev NP_HFIL_MC (p : Nat) : Field := ⟨(NP_HFIL p), 13, 1⟩
abbrev NP_HST (p : Nat) : Nat := 68686053510 + 16 * p
abbrev NP_HST_RXNB (p : Nat) : Field := ⟨(NP_HST p), 0, 1⟩
abbrev NP_HST_RXNB_MORE (p : Nat) : Field := ⟨(NP_HST p), 1, 1⟩
abbrev NP_HST_WIN (p : Nat) : Field := ⟨(NP_HST p), 2, 1⟩
abbrev NP_HST_WIN_MORE (p : Nat) : Field := ⟨(NP_HST p), 3, 1⟩
abbrev NP_STA_H (e : Nat) : Nat := 68686054400 + 2 * e
abbrev NP_STA_H_MAC (e : Nat) : Field := ⟨(NP_STA_H e), 0, 24⟩
abbrev NP_STA_H_MASK (e : Nat) : Field := ⟨(NP_STA_H e), 24, 7⟩
abbrev NP_STA_H_V (e : Nat) : Field := ⟨(NP_STA_H e), 31, 1⟩
abbrev NP_STA_L (e : Nat) : Nat := 68686054401 + 2 * e
abbrev NP_STA_L_MAC (e : Nat) : Field := ⟨(NP_STA_L e), 0, 24⟩
abbrev NP_STA_L_VID (e : Nat) : Field := ⟨(NP_STA_L e), 24, 12⟩
abbrev PD_CTL : Nat := 68686118912
abbrev PD_CTL_EN : Field := ⟨PD_CTL, 0, 1⟩
abbrev PD_STAT : Nat := 68686118913
abbrev PD_STAT_SVLOSS : Field := ⟨PD_STAT, 0, 1⟩
abbrev PD_STAT_SVLOSS_MORE : Field := ⟨PD_STAT, 1, 1⟩
abbrev PD_STAT_GOLOSS : Field := ⟨PD_STAT, 2, 1⟩
abbrev PD_STAT_GOLOSS_MORE : Field := ⟨PD_STAT, 3, 1⟩
abbrev PD_STAT_AUTHF : Field := ⟨PD_STAT, 4, 1⟩
abbrev PD_STAT_AUTHF_MORE : Field := ⟨PD_STAT, 5, 1⟩
abbrev PD_STAT_KEYX : Field := ⟨PD_STAT, 6, 1⟩
abbrev PD_STAT_KEYX_MORE : Field := ⟨PD_STAT, 7, 1⟩
abbrev PD_STAT_FAULT : Field := ⟨PD_STAT, 8, 1⟩
abbrev PD_STAT_FAULT_MORE : Field := ⟨PD_STAT, 9, 1⟩
abbrev PD_STAT_RSOVR : Field := ⟨PD_STAT, 10, 1⟩
abbrev PD_STAT_RSOVR_MORE : Field := ⟨PD_STAT, 11, 1⟩
abbrev PD_CMD : Nat := 68686118914
abbrev PD_CMD_OP : Field := ⟨PD_CMD, 0, 3⟩
abbrev PD_CMD_TBL : Field := ⟨PD_CMD, 3, 3⟩
abbrev PD_CMD_IDX : Field := ⟨PD_CMD, 6, 12⟩
abbrev PD_RES : Nat := 68686118915
abbrev PD_RES_STATUS : Field := ⟨PD_RES, 0, 4⟩
abbrev PD_RES_DONE : Field := ⟨PD_RES, 4, 1⟩
abbrev PD_RES_BUSYHIT : Field := ⟨PD_RES, 5, 1⟩
abbrev PD_RES_BUSYHIT_MORE : Field := ⟨PD_RES, 6, 1⟩
abbrev PD_TSVS : Nat := 68686118916
abbrev PD_TSVS_BASE : Field := ⟨PD_TSVS, 0, 32⟩
abbrev PD_TRS : Nat := 68686118917
abbrev PD_TRS_BASE : Field := ⟨PD_TRS, 0, 32⟩
abbrev PD_TGS : Nat := 68686118918
abbrev PD_TGS_BASE : Field := ⟨PD_TGS, 0, 32⟩
abbrev PD_TGP : Nat := 68686118919
abbrev PD_TGP_BASE : Field := ⟨PD_TGP, 0, 32⟩
abbrev PD_TSP : Nat := 68686118920
abbrev PD_TSP_BASE : Field := ⟨PD_TSP, 0, 32⟩
abbrev PD_DIIMG : Nat := 68686118921
abbrev PD_DIIMG_ADDR : Field := ⟨PD_DIIMG, 0, 32⟩
abbrev PD_DICTL : Nat := 68686118922
abbrev PD_DICTL_PART : Field := ⟨PD_DICTL, 0, 4⟩
abbrev PD_DICTL_TCL : Field := ⟨PD_DICTL, 4, 4⟩
abbrev PD_DICTL_TCLV : Field := ⟨PD_DICTL, 8, 1⟩
abbrev PD_NRCH : Nat := 68686118923
abbrev PD_NRCH_COUNT : Field := ⟨PD_NRCH, 0, 13⟩
abbrev PD_CNOSUB : Nat := 68686118924
abbrev PD_CNOSUB_N : Field := ⟨PD_CNOSUB, 0, 36⟩
abbrev PD_CQDROP : Nat := 68686118925
abbrev PD_CQDROP_N : Field := ⟨PD_CQDROP, 0, 36⟩
abbrev PD_DICFG (n : Nat) : Nat := 68686118928 + n
abbrev PD_DICFG_FILT (n : Nat) : Field := ⟨(PD_DICFG n), 0, 10⟩
abbrev PD_DICFG_INV (n : Nat) : Field := ⟨(PD_DICFG n), 10, 1⟩
abbrev PD_DICFG_EN (n : Nat) : Field := ⟨(PD_DICFG n), 11, 1⟩
abbrev PD_DISTAT : Nat := 68686118944
abbrev PD_DISTAT_STATE : Field := ⟨PD_DISTAT, 0, 16⟩
abbrev PD_DISTAT_RAW : Field := ⟨PD_DISTAT, 16, 16⟩
abbrev PD_DOCFG (n : Nat) : Nat := 68686118960 + n
abbrev PD_DOCFG_EN (n : Nat) : Field := ⟨(PD_DOCFG n), 0, 1⟩
abbrev PD_DOCFG_MINON (n : Nat) : Field := ⟨(PD_DOCFG n), 1, 10⟩
abbrev PD_DOCFG_DEADMAN (n : Nat) : Field := ⟨(PD_DOCFG n), 11, 16⟩
abbrev PD_DOSTAT : Nat := 68686118968
abbrev PD_DOSTAT_CMD : Field := ⟨PD_DOSTAT, 0, 8⟩
abbrev PD_DOSTAT_OUT : Field := ⟨PD_DOSTAT, 8, 8⟩
abbrev PD_DOSTAT_FAULT : Field := ⟨PD_DOSTAT, 16, 8⟩
abbrev PD_DOSTAT_FAULT_MORE : Field := ⟨PD_DOSTAT, 24, 8⟩
abbrev PD_GPB (g : Nat) : Nat := 68686119424 + g
abbrev PD_GPB_CTX (g : Nat) : Field := ⟨(PD_GPB g), 0, 12⟩
abbrev PD_GPB_V (g : Nat) : Field := ⟨(PD_GPB g), 12, 1⟩
abbrev PD_GPB_INTLK (g : Nat) : Field := ⟨(PD_GPB g), 13, 1⟩
abbrev PD_SPB (s : Nat) : Nat := 68686119936 + s
abbrev PD_SPB_CTX (s : Nat) : Field := ⟨(PD_SPB s), 0, 12⟩
abbrev PD_SPB_V (s : Nat) : Field := ⟨(PD_SPB s), 12, 1⟩
abbrev PD_SPB_INTLK (s : Nat) : Field := ⟨(PD_SPB s), 13, 1⟩
abbrev PD_DOB (n : Nat) : Nat := 68686120000 + n
abbrev PD_DOB_CTX (n : Nat) : Field := ⟨(PD_DOB n), 0, 12⟩
abbrev PD_DOB_V (n : Nat) : Field := ⟨(PD_DOB n), 12, 1⟩
abbrev PD_DOB_INTLK (n : Nat) : Field := ⟨(PD_DOB n), 13, 1⟩
abbrev RK_PSTAT : Nat := 68685922816
abbrev RK_PSTAT_PROF : Field := ⟨RK_PSTAT, 0, 2⟩
abbrev RK_PSTAT_LC : Field := ⟨RK_PSTAT, 2, 2⟩
abbrev RK_PSTAT_HUNG : Field := ⟨RK_PSTAT, 4, 1⟩
abbrev RK_PSTAT_IMG : Field := ⟨RK_PSTAT, 5, 1⟩
abbrev RK_PSTAT_RBK : Field := ⟨RK_PSTAT, 6, 6⟩
abbrev RK_PSTAT_UPD : Field := ⟨RK_PSTAT, 12, 1⟩
abbrev RK_PSTAT_UPDRES : Field := ⟨RK_PSTAT, 13, 2⟩
abbrev RK_DEVID_HI : Nat := 68685922817
abbrev RK_DEVID_HI_ID : Field := ⟨RK_DEVID_HI, 0, 36⟩
abbrev RK_DEVID_LO : Nat := 68685922818
abbrev RK_DEVID_LO_ID : Field := ⟨RK_DEVID_LO, 0, 36⟩
abbrev RK_VER : Nat := 68685922819
abbrev RK_VER_VER : Field := ⟨RK_VER, 0, 36⟩
abbrev RK_CFG : Nat := 68711088128
abbrev RK_CFG_MTO : Field := ⟨RK_CFG, 0, 10⟩
abbrev RK_CFG_ILTO : Field := ⟨RK_CFG, 10, 10⟩
abbrev RK_CFG_PCLRX : Field := ⟨RK_CFG, 20, 1⟩
abbrev RK_CFG_WDPER : Field := ⟨RK_CFG, 21, 10⟩
abbrev RK_MVEC : Nat := 68711088129
abbrev RK_MVEC_VEC : Field := ⟨RK_MVEC, 2, 34⟩
abbrev RK_MSP : Nat := 68711088130
abbrev RK_MSP_SP : Field := ⟨RK_MSP, 0, 36⟩
abbrev RK_MTTB : Nat := 68711088131
abbrev RK_MTTB_ROOT : Field := ⟨RK_MTTB, 0, 32⟩
abbrev RK_MTTB_V : Field := ⟨RK_MTTB, 35, 1⟩
abbrev RK_HELD (w : Nat) : Nat := 68711088132 + w
abbrev RK_HELD_HELD (w : Nat) : Field := ⟨(RK_HELD w), 0, 36⟩
abbrev RK_PSEC : Nat := 68711088135
abbrev RK_PSEC_EN : Field := ⟨RK_PSEC, 0, 16⟩
abbrev RK_DBG : Nat := 68711088136
abbrev RK_DBG_NDBG : Field := ⟨RK_DBG, 0, 1⟩
abbrev RK_DBG_SDBG : Field := ⟨RK_DBG, 1, 1⟩
abbrev RK_DBG_STRC : Field := ⟨RK_DBG, 2, 1⟩
abbrev RK_PCLR : Nat := 68711088137
abbrev RK_PCLR_WORLD : Field := ⟨RK_PCLR, 0, 1⟩
abbrev RK_PCLR_CORE : Field := ⟨RK_PCLR, 1, 6⟩
abbrev RK_WDKICK : Nat := 68711088138
abbrev RK_WDKICK_K : Field := ⟨RK_WDKICK, 0, 36⟩
abbrev RK_WDSTAT : Nat := 68711088139
abbrev RK_WDSTAT_LEFT : Field := ⟨RK_WDSTAT, 0, 10⟩
abbrev RK_SDB (k : Nat) : Nat := 68711088144 + 2 * k
abbrev RK_SDB_BASE (k : Nat) : Field := ⟨(RK_SDB k), 0, 32⟩
abbrev RK_SDL (k : Nat) : Nat := 68711088145 + 2 * k
abbrev RK_SDL_LIMIT (k : Nat) : Field := ⟨(RK_SDL k), 0, 32⟩
abbrev RK_SDL_V (k : Nat) : Field := ⟨(RK_SDL k), 32, 1⟩
abbrev RK_SSB (p : Nat) : Nat := 68711088160 + 2 * p
abbrev RK_SSB_BASE (p : Nat) : Field := ⟨(RK_SSB p), 0, 32⟩
abbrev RK_SSL (p : Nat) : Nat := 68711088161 + 2 * p
abbrev RK_SSL_LIMIT (p : Nat) : Field := ⟨(RK_SSL p), 0, 32⟩
abbrev RK_SSL_V (p : Nat) : Field := ⟨(RK_SSL p), 32, 1⟩
abbrev RK_FUSE (f : Nat) : Nat := 68711088192 + f
abbrev RK_FUSE_W (f : Nat) : Field := ⟨(RK_FUSE f), 0, 36⟩
abbrev DX_CFG : Nat := 68686184448
abbrev DX_CFG_UDPEN : Field := ⟨DX_CFG, 0, 1⟩
abbrev DX_CFG_PCIEN : Field := ⟨DX_CFG, 1, 1⟩
abbrev DX_CFG_MBXEN : Field := ⟨DX_CFG, 2, 1⟩
abbrev DX_CFG_IDLE : Field := ⟨DX_CFG, 3, 10⟩
abbrev DX_CFG_TRIES : Field := ⟨DX_CFG, 13, 5⟩
abbrev DX_CFG_LOCKT : Field := ⟨DX_CFG, 18, 10⟩
abbrev DX_CFG_CONFREQ : Field := ⟨DX_CFG, 28, 1⟩
abbrev DX_STAT : Nat := 68686184449
abbrev DX_STAT_NSESS : Field := ⟨DX_STAT, 0, 5⟩
abbrev DX_STAT_STORE : Field := ⟨DX_STAT, 5, 1⟩
abbrev DX_LOCK : Nat := 68686184450
abbrev DX_LOCK_LOCKED : Field := ⟨DX_LOCK, 0, 16⟩
abbrev DX_EVT : Nat := 68686184451
abbrev DX_EVT_AUTHF : Field := ⟨DX_EVT, 0, 1⟩
abbrev DX_EVT_AUTHF_MORE : Field := ⟨DX_EVT, 1, 1⟩
abbrev DX_EVT_LOCKOUT : Field := ⟨DX_EVT, 2, 1⟩
abbrev DX_EVT_LOCKOUT_MORE : Field := ⟨DX_EVT, 3, 1⟩
abbrev DX_EVT_REPLAY : Field := ⟨DX_EVT, 4, 1⟩
abbrev DX_EVT_REPLAY_MORE : Field := ⟨DX_EVT, 5, 1⟩
abbrev DX_EVT_SFULL : Field := ⟨DX_EVT, 6, 1⟩
abbrev DX_EVT_SFULL_MORE : Field := ⟨DX_EVT, 7, 1⟩
abbrev DX_EVT_REFUSE : Field := ⟨DX_EVT, 8, 1⟩
abbrev DX_EVT_REFUSE_MORE : Field := ⟨DX_EVT, 9, 1⟩
abbrev DX_EVT_CSERR : Field := ⟨DX_EVT, 10, 1⟩
abbrev DX_EVT_CSERR_MORE : Field := ⟨DX_EVT, 11, 1⟩
abbrev DX_CSGEN : Nat := 68686184452
abbrev DX_CSGEN_GEN : Field := ⟨DX_CSGEN, 0, 36⟩
abbrev DX_ATB (p : Nat) : Nat := 68686184464 + 16 * p
abbrev DX_ATB_BASE (p : Nat) : Field := ⟨(DX_ATB p), 0, 32⟩
abbrev DX_ATC (p : Nat) : Nat := 68686184465 + 16 * p
abbrev DX_ATC_COUNT (p : Nat) : Field := ⟨(DX_ATC p), 0, 12⟩
abbrev DX_SPG (p : Nat) : Nat := 68686184466 + 16 * p
abbrev DX_SPG_BASE (p : Nat) : Field := ⟨(DX_SPG p), 0, 32⟩
abbrev DX_SPL (p : Nat) : Nat := 68686184467 + 16 * p
abbrev DX_SPL_LEN (p : Nat) : Field := ⟨(DX_SPL p), 0, 12⟩
abbrev DX_SPL_TCL (p : Nat) : Field := ⟨(DX_SPL p), 12, 4⟩
abbrev DX_SPL_TCLV (p : Nat) : Field := ⟨(DX_SPL p), 16, 1⟩
abbrev DX_SPL_FLIP (p : Nat) : Field := ⟨(DX_SPL p), 17, 1⟩
abbrev DX_QTA (p : Nat) : Nat := 68686184468 + 16 * p
abbrev DX_QTA_SESS (p : Nat) : Field := ⟨(DX_QTA p), 0, 5⟩
abbrev DX_QTA_LLCW (p : Nat) : Field := ⟨(DX_QTA p), 5, 4⟩
abbrev DX_QTA_L2W (p : Nat) : Field := ⟨(DX_QTA p), 9, 4⟩
abbrev DX_QTA_EVS (p : Nat) : Field := ⟨(DX_QTA p), 13, 10⟩
abbrev DX_QTA_SVS (p : Nat) : Field := ⟨(DX_QTA p), 23, 11⟩
abbrev DX_QTB (p : Nat) : Nat := 68686184469 + 16 * p
abbrev DX_QTB_GSUB (p : Nat) : Field := ⟨(DX_QTB p), 0, 13⟩
abbrev DX_QTB_GPUB (p : Nat) : Field := ⟨(DX_QTB p), 13, 10⟩
abbrev DX_QTB_SPUB (p : Nat) : Field := ⟨(DX_QTB p), 23, 7⟩
abbrev DX_MBUF (p : Nat) : Nat := 68686184470 + 16 * p
abbrev DX_MBUF_BASE (p : Nat) : Field := ⟨(DX_MBUF p), 0, 32⟩
abbrev DX_MDB (p : Nat) : Nat := 68686184471 + 16 * p
abbrev DX_MDB_LEN (p : Nat) : Field := ⟨(DX_MDB p), 0, 11⟩
abbrev DX_MST (p : Nat) : Nat := 68686184472 + 16 * p
abbrev DX_MST_RLEN (p : Nat) : Field := ⟨(DX_MST p), 0, 11⟩
abbrev DX_MST_BUSY (p : Nat) : Field := ⟨(DX_MST p), 11, 1⟩
abbrev DX_MST_DONE (p : Nat) : Field := ⟨(DX_MST p), 12, 1⟩
abbrev DX_MST_DONE_MORE (p : Nat) : Field := ⟨(DX_MST p), 13, 1⟩
abbrev DX_MST_SRC (p : Nat) : Field := ⟨(DX_MST p), 14, 10⟩
abbrev DX_SESS (n : Nat) : Nat := 68686184960 + n
abbrev DX_SESS_STATE (n : Nat) : Field := ⟨(DX_SESS n), 0, 2⟩
abbrev DX_SESS_ROLE (n : Nat) : Field := ⟨(DX_SESS n), 2, 2⟩
abbrev DX_SESS_PART (n : Nat) : Field := ⟨(DX_SESS n), 4, 4⟩
abbrev DX_SESS_TR (n : Nat) : Field := ⟨(DX_SESS n), 8, 2⟩
abbrev DX_SESS_CRED (n : Nat) : Field := ⟨(DX_SESS n), 10, 6⟩
abbrev DX_SESS_CONF (n : Nat) : Field := ⟨(DX_SESS n), 16, 1⟩
abbrev DX_SESS_IDLE (n : Nat) : Field := ⟨(DX_SESS n), 17, 12⟩
abbrev MO_STAT : Nat := 68686249984
abbrev MO_STAT_FFCNT : Field := ⟨MO_STAT, 0, 13⟩
abbrev MO_STAT_FFFULL : Field := ⟨MO_STAT, 13, 1⟩
abbrev MO_STAT_QDEP : Field := ⟨MO_STAT, 14, 9⟩
abbrev MO_STAT_READY : Field := ⟨MO_STAT, 23, 1⟩
abbrev MO_EVT : Nat := 68686249985
abbrev MO_EVT_DROP : Field := ⟨MO_EVT, 0, 1⟩
abbrev MO_EVT_DROP_MORE : Field := ⟨MO_EVT, 1, 1⟩
abbrev MO_EVT_MERR : Field := ⟨MO_EVT, 2, 1⟩
abbrev MO_EVT_MERR_MORE : Field := ⟨MO_EVT, 3, 1⟩
abbrev MO_EVT_FFFULL : Field := ⟨MO_EVT, 4, 1⟩
abbrev MO_EVT_FFFULL_MORE : Field := ⟨MO_EVT, 5, 1⟩
abbrev MO_NEXT_HI : Nat := 68686249986
abbrev MO_NEXT_HI_SEQ : Field := ⟨MO_NEXT_HI, 0, 8⟩
abbrev MO_NEXT_LO : Nat := 68686249987
abbrev MO_NEXT_LO_SEQ : Field := ⟨MO_NEXT_LO, 0, 36⟩
abbrev MO_OLD_HI : Nat := 68686249988
abbrev MO_OLD_HI_SEQ : Field := ⟨MO_OLD_HI, 0, 8⟩
abbrev MO_OLD_LO : Nat := 68686249989
abbrev MO_OLD_LO_SEQ : Field := ⟨MO_OLD_LO, 0, 36⟩
abbrev MO_DROP : Nat := 68686249990
abbrev MO_DROP_COUNT : Field := ⟨MO_DROP, 0, 36⟩
abbrev MO_RSEL_HI : Nat := 68686249991
abbrev MO_RSEL_HI_SEQ : Field := ⟨MO_RSEL_HI, 0, 8⟩
abbrev MO_RSEL_HI_FF : Field := ⟨MO_RSEL_HI, 35, 1⟩
abbrev MO_RSEL_LO : Nat := 68686249992
abbrev MO_RSEL_LO_SEQ : Field := ⟨MO_RSEL_LO, 0, 36⟩
abbrev MO_RST : Nat := 68686249993
abbrev MO_RST_STATUS : Field := ⟨MO_RST, 0, 3⟩
abbrev MO_RST_DONE : Field := ⟨MO_RST, 3, 1⟩
abbrev MO_RW (i : Nat) : Nat := 68686249994 + i
abbrev MO_RW_W (i : Nat) : Field := ⟨(MO_RW i), 0, 36⟩
abbrev MO_RTAG_HI : Nat := 68686249998
abbrev MO_RTAG_HI_T : Field := ⟨MO_RTAG_HI, 0, 28⟩
abbrev MO_RTAG_LO : Nat := 68686249999
abbrev MO_RTAG_LO_T : Field := ⟨MO_RTAG_LO, 0, 36⟩
abbrev PX_CTL : Nat := 68686315520
abbrev PX_CTL_EN : Field := ⟨PX_CTL, 0, 1⟩
abbrev PX_CTL_BARSZ : Field := ⟨PX_CTL, 1, 5⟩
abbrev PX_CTL_VBARSZ : Field := ⟨PX_CTL, 6, 5⟩
abbrev PX_CTL_MAXSPD : Field := ⟨PX_CTL, 11, 3⟩
abbrev PX_STAT : Nat := 68686315521
abbrev PX_STAT_LINK : Field := ⟨PX_STAT, 0, 2⟩
abbrev PX_STAT_SPEED : Field := ⟨PX_STAT, 2, 3⟩
abbrev PX_STAT_WIDTH : Field := ⟨PX_STAT, 5, 4⟩
abbrev PX_STAT_PERST : Field := ⟨PX_STAT, 9, 1⟩
abbrev PX_STAT_NUMVF : Field := ⟨PX_STAT, 10, 5⟩
abbrev PX_EVT : Nat := 68686315522
abbrev PX_EVT_LINK : Field := ⟨PX_EVT, 0, 1⟩
abbrev PX_EVT_LINK_MORE : Field := ⟨PX_EVT, 1, 1⟩
abbrev PX_EVT_HOTRST : Field := ⟨PX_EVT, 2, 1⟩
abbrev PX_EVT_HOTRST_MORE : Field := ⟨PX_EVT, 3, 1⟩
abbrev PX_EVT_FLR : Field := ⟨PX_EVT, 4, 1⟩
abbrev PX_EVT_FLR_MORE : Field := ⟨PX_EVT, 5, 1⟩
abbrev PX_EVT_CTO : Field := ⟨PX_EVT, 6, 1⟩
abbrev PX_EVT_CTO_MORE : Field := ⟨PX_EVT, 7, 1⟩
abbrev PX_EVT_UR : Field := ⟨PX_EVT, 8, 1⟩
abbrev PX_EVT_UR_MORE : Field := ⟨PX_EVT, 9, 1⟩
abbrev PX_EVT_PARTW : Field := ⟨PX_EVT, 10, 1⟩
abbrev PX_EVT_PARTW_MORE : Field := ⟨PX_EVT, 11, 1⟩
abbrev PX_EVT_POISON : Field := ⟨PX_EVT, 12, 1⟩
abbrev PX_EVT_POISON_MORE : Field := ⟨PX_EVT, 13, 1⟩
abbrev PX_EVT_CFGREF : Field := ⟨PX_EVT, 14, 1⟩
abbrev PX_EVT_CFGREF_MORE : Field := ⟨PX_EVT, 15, 1⟩
abbrev PX_CFG : Nat := 68686315523
abbrev PX_CFG_CTO : Field := ⟨PX_CFG, 0, 16⟩
abbrev PX_CFG_ESRC : Field := ⟨PX_CFG, 16, 10⟩
abbrev PX_CFG_ERRVEC : Field := ⟨PX_CFG, 26, 6⟩
abbrev PX_CFG_ERRVEN : Field := ⟨PX_CFG, 32, 1⟩
abbrev PX_ID : Nat := 68686315524
abbrev PX_ID_SSVID : Field := ⟨PX_ID, 0, 16⟩
abbrev PX_ID_SSID : Field := ⟨PX_ID, 16, 16⟩
abbrev PX_CNTA : Nat := 68686315525
abbrev PX_CNTA_CE : Field := ⟨PX_CNTA, 0, 18⟩
abbrev PX_CNTA_UE : Field := ⟨PX_CNTA, 18, 18⟩
abbrev PX_CNTB : Nat := 68686315526
abbrev PX_CNTB_PART : Field := ⟨PX_CNTB, 0, 18⟩
abbrev PX_CNTB_URIN : Field := ⟨PX_CNTB, 18, 18⟩
abbrev PX_OWA (k : Nat) : Nat := 68686315536 + 4 * k
abbrev PX_OWA_BASE (k : Nat) : Field := ⟨(PX_OWA k), 0, 14⟩
abbrev PX_OWA_LOG2 (k : Nat) : Field := ⟨(PX_OWA k), 14, 6⟩
abbrev PX_OWA_VIEW (k : Nat) : Field := ⟨(PX_OWA k), 20, 1⟩
abbrev PX_OWA_V (k : Nat) : Field := ⟨(PX_OWA k), 21, 1⟩
abbrev PX_OWB (k : Nat) : Nat := 68686315537 + 4 * k
abbrev PX_OWB_HADDR (k : Nat) : Field := ⟨(PX_OWB k), 0, 32⟩
abbrev PX_OWC (k : Nat) : Nat := 68686315538 + 4 * k
abbrev PX_OWC_HADDR (k : Nat) : Field := ⟨(PX_OWC k), 0, 10⟩
abbrev PX_FCTL (f : Nat) : Nat := 68686315584 + 32 * f
abbrev PX_FCTL_PART (f : Nat) : Field := ⟨(PX_FCTL f), 0, 4⟩
abbrev PX_FCTL_BME (f : Nat) : Field := ⟨(PX_FCTL f), 4, 1⟩
abbrev PX_FCTL_MSE (f : Nat) : Field := ⟨(PX_FCTL f), 5, 1⟩
abbrev PX_FCTL_IMODE (f : Nat) : Field := ⟨(PX_FCTL f), 6, 2⟩
abbrev PX_FIRQ (f : Nat) : Nat := 68686315585 + 32 * f
abbrev PX_FIRQ_VEC (f : Nat) : Field := ⟨(PX_FIRQ f), 0, 6⟩
abbrev PX_FPEND (f k : Nat) : Nat := 68686315586 + 32 * f + k
abbrev PX_FPEND_PEND (f k : Nat) : Field := ⟨(PX_FPEND f k), 0, 16⟩
abbrev PX_FPEND_PEND_MORE (f k : Nat) : Field := ⟨(PX_FPEND f k), 16, 16⟩
abbrev PX_FHDB (f : Nat) : Nat := 68686315590 + 32 * f
abbrev PX_FHDB_VAL (f : Nat) : Field := ⟨(PX_FHDB f), 0, 36⟩
abbrev PX_FSRC (f : Nat) : Nat := 68686315591 + 32 * f
abbrev PX_FSRC_SRC (f : Nat) : Field := ⟨(PX_FSRC f), 0, 10⟩
abbrev PX_FMBDB (f : Nat) : Nat := 68686315592 + 32 * f
abbrev PX_FMBDB_LEN (f : Nat) : Field := ⟨(PX_FMBDB f), 0, 11⟩
abbrev PX_FMBST (f : Nat) : Nat := 68686315593 + 32 * f
abbrev PX_FMBST_RLEN (f : Nat) : Field := ⟨(PX_FMBST f), 0, 11⟩
abbrev PX_FMBST_BUSY (f : Nat) : Field := ⟨(PX_FMBST f), 11, 1⟩
abbrev PX_FMBST_DONE (f : Nat) : Field := ⟨(PX_FMBST f), 12, 1⟩
abbrev PX_FMBST_DONE_MORE (f : Nat) : Field := ⟨(PX_FMBST f), 13, 1⟩
abbrev PX_FMBST_MBVEC (f : Nat) : Field := ⟨(PX_FMBST f), 14, 6⟩
abbrev PX_FMBST_MBVEN (f : Nat) : Field := ⟨(PX_FMBST f), 20, 1⟩
abbrev PX_IWA (f w : Nat) : Nat := 68686315600 + 32 * f + 2 * w
abbrev PX_IWA_OFF (f w : Nat) : Field := ⟨(PX_IWA f w), 0, 16⟩
abbrev PX_IWA_LOG2 (f w : Nat) : Field := ⟨(PX_IWA f w), 16, 6⟩
abbrev PX_IWA_VIEW (f w : Nat) : Field := ⟨(PX_IWA f w), 22, 1⟩
abbrev PX_IWA_R (f w : Nat) : Field := ⟨(PX_IWA f w), 23, 1⟩
abbrev PX_IWA_W (f w : Nat) : Field := ⟨(PX_IWA f w), 24, 1⟩
abbrev PX_IWA_TCL (f w : Nat) : Field := ⟨(PX_IWA f w), 25, 4⟩
abbrev PX_IWA_TCLV (f w : Nat) : Field := ⟨(PX_IWA f w), 29, 1⟩
abbrev PX_IWA_V (f w : Nat) : Field := ⟨(PX_IWA f w), 30, 1⟩
abbrev PX_IWB (f w : Nat) : Nat := 68686315601 + 32 * f + 2 * w
abbrev PX_IWB_TARGET (f w : Nat) : Field := ⟨(PX_IWB f w), 0, 32⟩
abbrev PM_REQ : Nat := 68686381056
abbrev PM_REQ_DOMAIN : Field := ⟨PM_REQ, 0, 7⟩
abbrev PM_REQ_OP : Field := ⟨PM_REQ, 7, 2⟩
abbrev PM_RES : Nat := 68686381057
abbrev PM_RES_STATUS : Field := ⟨PM_RES, 0, 4⟩
abbrev PM_RES_DONE : Field := ⟨PM_RES, 4, 1⟩
abbrev PM_RES_BUSYHIT : Field := ⟨PM_RES, 5, 1⟩
abbrev PM_RES_BUSYHIT_MORE : Field := ⟨PM_RES, 6, 1⟩
abbrev PM_RST : Nat := 68686381058
abbrev PM_RST_OP : Field := ⟨PM_RST, 0, 2⟩
abbrev PM_RSTC : Nat := 68686381059
abbrev PM_RSTC_CAUSE : Field := ⟨PM_RSTC, 0, 4⟩
abbrev PM_RSTC_WARMCNT : Field := ⟨PM_RSTC, 4, 18⟩
abbrev PM_EVT : Nat := 68686381060
abbrev PM_EVT_RAIL : Field := ⟨PM_EVT, 0, 1⟩
abbrev PM_EVT_RAIL_MORE : Field := ⟨PM_EVT, 1, 1⟩
abbrev PM_EVT_RBACK : Field := ⟨PM_EVT, 2, 1⟩
abbrev PM_EVT_RBACK_MORE : Field := ⟨PM_EVT, 3, 1⟩
abbrev PM_EVT_TEMP : Field := ⟨PM_EVT, 4, 1⟩
abbrev PM_EVT_TEMP_MORE : Field := ⟨PM_EVT, 5, 1⟩
abbrev PM_EVT_TBACK : Field := ⟨PM_EVT, 6, 1⟩
abbrev PM_EVT_TBACK_MORE : Field := ⟨PM_EVT, 7, 1⟩
abbrev PM_EVT_CLK : Field := ⟨PM_EVT, 8, 1⟩
abbrev PM_EVT_CLK_MORE : Field := ⟨PM_EVT, 9, 1⟩
abbrev PM_EVT_DLOST : Field := ⟨PM_EVT, 10, 1⟩
abbrev PM_EVT_DLOST_MORE : Field := ⟨PM_EVT, 11, 1⟩
abbrev PM_CLK : Nat := 68686381061
abbrev PM_CLK_CORE : Field := ⟨PM_CLK, 0, 1⟩
abbrev PM_CLK_DRAM : Field := ⟨PM_CLK, 1, 1⟩
abbrev PM_CLK_SER : Field := ⟨PM_CLK, 2, 4⟩
abbrev PM_CLK_PCIREF : Field := ⟨PM_CLK, 6, 1⟩
abbrev PM_CLK_REF : Field := ⟨PM_CLK, 7, 1⟩
abbrev PM_PFCFG : Nat := 68686381062
abbrev PM_PFCFG_PFEN : Field := ⟨PM_PFCFG, 0, 1⟩
abbrev PM_PFCFG_PFFILT : Field := ⟨PM_PFCFG, 1, 4⟩
abbrev PM_DSTAT (w : Nat) : Nat := 68686381064 + w
abbrev PM_DSTAT_ST (w : Nat) : Field := ⟨(PM_DSTAT w), 0, 36⟩
abbrev PM_RAIL (r : Nat) : Nat := 68686381072 + r
abbrev PM_RAIL_VAL (r : Nat) : Field := ⟨(PM_RAIL r), 0, 12⟩
abbrev PM_RAIL_LO (r : Nat) : Field := ⟨(PM_RAIL r), 12, 12⟩
abbrev PM_RAIL_HI (r : Nat) : Field := ⟨(PM_RAIL r), 24, 12⟩
abbrev PM_TSEN (s : Nat) : Nat := 68686381088 + s
abbrev PM_TSEN_TEMP (s : Nat) : Field := ⟨(PM_TSEN s), 0, 12⟩
abbrev PM_TSEN_MAX (s : Nat) : Field := ⟨(PM_TSEN s), 12, 12⟩
abbrev PM_TLIM (s : Nat) : Nat := 68686381104 + s
abbrev PM_TLIM_HI (s : Nat) : Field := ⟨(PM_TLIM s), 0, 12⟩
abbrev PM_TLIM_HYST (s : Nat) : Field := ⟨(PM_TLIM s), 12, 6⟩
abbrev TR_CTL : Nat := 68686970880
abbrev TR_CTL_EN : Field := ⟨TR_CTL, 0, 1⟩
abbrev TR_CTL_SYNCP : Field := ⟨TR_CTL, 1, 4⟩
abbrev TR_RBASE (p : Nat) : Nat := 68686970944 + 16 * p
abbrev TR_RBASE_BASE (p : Nat) : Field := ⟨(TR_RBASE p), 0, 32⟩
abbrev TR_RCTL (p : Nat) : Nat := 68686970945 + 16 * p
abbrev TR_RCTL_SIZE (p : Nat) : Field := ⟨(TR_RCTL p), 0, 4⟩
abbrev TR_RCTL_EN (p : Nat) : Field := ⟨(TR_RCTL p), 4, 1⟩
abbrev TR_RCTL_MODE (p : Nat) : Field := ⟨(TR_RCTL p), 5, 1⟩
abbrev TR_RCTL_WMK (p : Nat) : Field := ⟨(TR_RCTL p), 6, 4⟩
abbrev TR_RCTL_ESRC (p : Nat) : Field := ⟨(TR_RCTL p), 10, 10⟩
abbrev TR_RWP (p : Nat) : Nat := 68686970946 + 16 * p
abbrev TR_RWP_WP (p : Nat) : Field := ⟨(TR_RWP p), 0, 24⟩
abbrev TR_RRP (p : Nat) : Nat := 68686970947 + 16 * p
abbrev TR_RRP_RP (p : Nat) : Field := ⟨(TR_RRP p), 0, 24⟩
abbrev TR_RSTAT (p : Nat) : Nat := 68686970948 + 16 * p
abbrev TR_RSTAT_WIN (p : Nat) : Field := ⟨(TR_RSTAT p), 0, 1⟩
abbrev TR_RSTAT_WIN_MORE (p : Nat) : Field := ⟨(TR_RSTAT p), 1, 1⟩
abbrev TR_RSTAT_FULL (p : Nat) : Field := ⟨(TR_RSTAT p), 2, 1⟩
abbrev TR_RSTAT_FULL_MORE (p : Nat) : Field := ⟨(TR_RSTAT p), 3, 1⟩
abbrev TR_RDROP (p : Nat) : Nat := 68686970949 + 16 * p
abbrev TR_RDROP_N (p : Nat) : Field := ⟨(TR_RDROP p), 0, 36⟩
abbrev TR_CCFG (n : Nat) : Nat := 68686971904 + 64 * n
abbrev TR_CCFG_EN (n : Nat) : Field := ⟨(TR_CCFG n), 0, 1⟩
abbrev TR_CCFG_CU (n : Nat) : Field := ⟨(TR_CCFG n), 1, 1⟩
abbrev TR_CCFG_CS (n : Nat) : Field := ⟨(TR_CCFG n), 2, 1⟩
abbrev TR_CCFG_CE (n : Nat) : Field := ⟨(TR_CCFG n), 3, 1⟩
abbrev TR_CCFG_CM (n : Nat) : Field := ⟨(TR_CCFG n), 4, 1⟩
abbrev TR_CSTAT (n : Nat) : Nat := 68686971905 + 64 * n
abbrev TR_CSTAT_DROP (n : Nat) : Field := ⟨(TR_CSTAT n), 0, 18⟩
abbrev TR_CSTAT_TRON (n : Nat) : Field := ⟨(TR_CSTAT n), 18, 8⟩
abbrev TR_ACA (n i : Nat) : Nat := 68686971912 + 64 * n + 3 * i
abbrev TR_ACA_BASE (n i : Nat) : Field := ⟨(TR_ACA n i), 0, 36⟩
abbrev TR_ACB (n i : Nat) : Nat := 68686971913 + 64 * n + 3 * i
abbrev TR_ACB_LIMIT (n i : Nat) : Field := ⟨(TR_ACB n i), 0, 36⟩
abbrev TR_ACC (n i : Nat) : Nat := 68686971914 + 64 * n + 3 * i
abbrev TR_ACC_FUNC (n i : Nat) : Field := ⟨(TR_ACC n i), 0, 2⟩
abbrev TR_ACC_CTX (n i : Nat) : Field := ⟨(TR_ACC n i), 2, 12⟩
abbrev TR_ACC_CTXV (n i : Nat) : Field := ⟨(TR_ACC n i), 14, 1⟩
abbrev TR_DFA (n k : Nat) : Nat := 68686971936 + 64 * n + 3 * k
abbrev TR_DFA_BASE (n k : Nat) : Field := ⟨(TR_DFA n k), 0, 36⟩
abbrev TR_DFB (n k : Nat) : Nat := 68686971937 + 64 * n + 3 * k
abbrev TR_DFB_LIMIT (n k : Nat) : Field := ⟨(TR_DFB n k), 0, 36⟩
abbrev TR_DFC (n k : Nat) : Nat := 68686971938 + 64 * n + 3 * k
abbrev TR_DFC_LD (n k : Nat) : Field := ⟨(TR_DFC n k), 0, 1⟩
abbrev TR_DFC_ST (n k : Nat) : Field := ⟨(TR_DFC n k), 1, 1⟩
abbrev TR_DFC_CTX (n k : Nat) : Field := ⟨(TR_DFC n k), 2, 12⟩
abbrev TR_DFC_CTXV (n k : Nat) : Field := ⟨(TR_DFC n k), 14, 1⟩
abbrev DB_TGT : Nat := 68687036416
abbrev DB_TGT_CORE : Field := ⟨DB_TGT, 0, 6⟩
abbrev DB_TGT_SLOT : Field := ⟨DB_TGT, 6, 3⟩
abbrev DB_CMD : Nat := 68687036417
abbrev DB_CMD_OP : Field := ⟨DB_CMD, 0, 4⟩
abbrev DB_RES : Nat := 68687036418
abbrev DB_RES_STATUS : Field := ⟨DB_RES, 0, 4⟩
abbrev DB_RES_DONE : Field := ⟨DB_RES, 4, 1⟩
abbrev DB_RES_CODE : Field := ⟨DB_RES, 5, 6⟩
abbrev DB_RES_SUB : Field := ⟨DB_RES, 11, 4⟩
abbrev DB_RES_BUSYHIT : Field := ⟨DB_RES, 15, 1⟩
abbrev DB_RES_BUSYHIT_MORE : Field := ⟨DB_RES, 16, 1⟩
abbrev DB_ADDR : Nat := 68687036419
abbrev DB_ADDR_A : Field := ⟨DB_ADDR, 0, 36⟩
abbrev DB_DATA : Nat := 68687036420
abbrev DB_DATA_D : Field := ⟨DB_DATA, 0, 36⟩
abbrev DB_HSTAT0 : Nat := 68687036421
abbrev DB_HSTAT0_H : Field := ⟨DB_HSTAT0, 0, 36⟩
abbrev DB_HSTAT1 : Nat := 68687036422
abbrev DB_HSTAT1_H : Field := ⟨DB_HSTAT1, 0, 12⟩
abbrev DB_DCMD : Nat := 68687036424
abbrev DB_DCMD_OP : Field := ⟨DB_DCMD, 0, 2⟩
abbrev DB_DCMD_PAIR : Field := ⟨DB_DCMD, 2, 5⟩

end Reg

end Sys2Proof.Machine
end

