-- ==== Sys2Proof/Machine/State.lean ====
section
/-! DEFINITION. The state of the block as plain data: every register (one sparse file keyed by word address), the time
base and angle references, the scheduler and the Firn, the slots and their images, caches, directory and DRAM, the
network, process data, Rook, dictionary, Moraine, PCIe, power, trace and test state the spec names, and the queue of
commands that wait. -/

namespace Sys2Proof.Machine

/-- No condition the spec describes stops the block, so no constructor of this type is ever raised.
`none`: raised by no meaning. Safe. -/
inductive Fault where
  | none
  deriving DecidableEq, Repr

/-- `notModelled`: an arm of exec that has no meaning yet, by its mnemonic. Safe: nothing is claimed of the command. -/
inductive Refusal where
  | notModelled (mnemonic : String)
  deriving DecidableEq, Repr

/-! ## Time and angle (spec/02_angle_timebase.md) -/

/-- One phasor of a reference as R52 and R53 need it again one nominal turn later: its TAI stamp in ns, whether it was
valid, its angle in turns, and f_inst when it could be formed. -/
structure PhasorRec where
  stamp : Nat
  valid : Bool
  theta : Rat
  fInst : Option Rat
  deriving DecidableEq, Repr

/-- One angle reference (R50 to R62, R577): the 72-bit phase accumulator, the integral frequency F and the applied f in
Hz, the configuration word and PHOFF in effect since the last epoch boundary, the last accepted phasor, the running conditions
of R54, each with the stamp at which its run began, the alignment that waits for a boundary (θ − PHOFF in turns, its stamp,
f_inst), and whether HMS counts. -/
structure RefSt where
  acc : BitVec 72
  loopF : Rat
  freq : Rat
  cfg : Word
  phoff : Nat
  hist : List PhasorRec
  lastAcc : Option Nat
  errSince : Option Nat
  accSince : Option Nat
  accF : Rat
  alignNow : Option (Rat × Nat × Rat)
  lockNow : Bool
  relockNow : Bool
  ignoreUntil : Nat
  hmsSub : Nat
  hmsOn : Bool
  started : Bool
  deriving DecidableEq, Repr

/-- What the unit hands to the process-data engine at an epoch boundary (R60): the count of the time base, the increment of
the time base, and each reference's 72-bit angle and increment. -/
structure Epoch where
  tb : Nat
  tbInc : Nat
  angles : List (BitVec 72)
  incs : List Nat
  deriving DecidableEq, Repr

/-- The time base and the references. `servoI` is the integral term I of R576; the flags are those of R35, R36, R40, R41;
`priRun` counts the consecutive intervals on which PRI was accepted; `lastOk` is the cycle of each source's last accepted sample;
`steps` counts the steps of the count; `irig` is the TAI second of the last IRIG-B frame, none where it did not decode, with
the cycle of its marker; `ptpUtc` the announced UTC offset when valid (R46). -/
structure Ang where
  servoI : Rat
  acqFromLocked : Bool
  stepped : Bool
  goodRun : Nat
  priRun : Nat
  usable : Tab Bool
  steps : Nat
  irig : Option (Option Nat × Nat)
  lastOk : Tab Nat
  ptpUtc : Option Int
  hsecSub : Nat
  ppsOutEnd : Nat
  refs : Tab RefSt
  epochs : List Epoch
  deriving DecidableEq, Repr

/-! ## Contexts and scheduler (spec/03_contexts_scheduler.md) -/

/-- One scheduler entry (R77, R113): its eight words, whether a due point is pending (R88), the cycle in which the pending
point fell due, whether the write-back of the run in COMMIT has been agreed (R72), whether a class-G run starts from IDLE
(R208), and the cycle of the stage decision (FN_PMAX). -/
structure Entry where
  cfg : Word
  trig : Word
  next0 : Word
  next1 : Word
  bud : Word
  stat : Word
  cnt : Word
  max : Word
  pend : Bool
  due : Nat
  agreed : Bool
  fresh : Bool
  decided : Nat
  deriving DecidableEq, Repr

/-- A captured output (R101): word 0 is KIND and target, word 1 the value; `err` is the error pattern on the sealed word that holds the
value (R27), 0 where it is as it was written. -/
structure CommitEntry where
  target : Word
  value : Word
  err : BitVec 48 := 0
  deriving DecidableEq, Repr

/-- A transfer of an image over a cluster port (R71, R76); a stage-in whose entry was disabled moves on to its end and delivers to no
slot. -/
structure Transfer where
  ctx : Nat
  slot : Nat
  stageIn : Bool
  classD : Bool
  due : Nat
  req : Nat
  disabled : Bool := false
  deriving DecidableEq, Repr

/-- A cluster port: the transfers requested, the one granted, and the landing buffer's owner is the one granted (R72). -/
structure Port where
  queue : List Transfer
  cur : Option Transfer
  deriving DecidableEq, Repr

/-- The scheduler: Firn images (sealed words, key 256 ctx + word), entries, the error patterns on the sealed words that hold their words
(R27, key 8 ctx + word), commit buffers, the releases whose
interlocked entries wait for Rook's answer, oldest first, with those entries (R104), cluster ports, the interrupt lines (64
partition + line) that wait for a slot to wake their target (R231), and the output aperture's values (R406). -/
structure Sch where
  firn : Tab Sealed
  entries : Tab Entry
  entryErr : Tab (BitVec 48)
  commit : Tab (List CommitEntry)
  intlk : List (Nat × List CommitEntry)
  ports : Tab Port
  wakes : List Nat
  outVal : Tab Word
  deriving DecidableEq, Repr

/-! ## Slots and cores (spec/04_keang36_instruction_set.md to spec/08_memory_management.md) -/

/-- Where a register's word is held (R114, R117): an image word of the slot, a word of a trap window of the slot (level 1 S,
2 E, 3 M), or nowhere (c0, R115); DB_DATA is where a debugger's read puts its data (R545), and `step` is the step of an instruction of
many accesses that reads the host's memory (R172, R496). -/
inductive Place where
  | img (w : Nat)
  | win (lvl : Nat) (i : Nat)
  | zero
  | dbData
  | step
  deriving DecidableEq, Repr

/-- A long operation in flight (R178, R179): the words it writes, the sticky bits it sets in SPSTAT, whether RSAT is among its destinations,
and the cycle in which it completes. -/
structure LongOp where
  writes : List (Place × Word)
  stat : Word
  rsat : Bool := false
  due : Nat := 0
  deriving DecidableEq, Repr

/-- A store-buffer entry (R191): an aligned 4-word group by physical group number (address ÷ 16), its virtual address, one
enable bit per nonet, the data, the leaf's ATTR, who stored, the ROOT its translation came from, the TLBIs whose acknowledgement waits
for its drain (R260), and whether WPEND waits for it (R254). -/
structure StoreEntry where
  group : Nat
  va : Word
  en : BitVec 16
  data : BitVec 144
  attr : Nat
  req : Requester
  root : Nat
  waits : List Nat
  wpend : Bool
  deriving DecidableEq, Repr

/-- A latched asynchronous store error (R227); its address stands in ASEADDR. -/
structure Ase where
  sub : Nat
  multi : Bool
  deriving DecidableEq, Repr

/-- Why a slot's context is being written back: the end of a run, a displacement or STOP, or SWAPCTX to a context. -/
inductive Leaving where
  | none | commit | park | swap (target : Nat)
  deriving DecidableEq, Repr

/-- An access to memory as the TR stage reports it (R530): whether it writes, its virtual address, its value, and its size (0
nonet, 1 half, 2 word). -/
structure TrAcc where
  write : Bool
  va : Word
  value : Word
  size : Nat
  deriving DecidableEq, Repr

/-- What the TR stage reports of an instruction (R528 to R533): its address, its level, 1 for a taken and 2 for a not-taken
transfer, 3 for ERET, where it went, and its accesses. -/
structure Retire where
  pc : Word
  level : Nat
  kind : Nat
  target : Word
  accs : List TrAcc
  deriving DecidableEq, Repr

/-- A load whose data have not returned (R182, R500): its destination, addresses, size in nonets, sign extension, the descriptor
it advances, and whether it is an outbound PCIe load. -/
structure LoadWait where
  place : Place
  va : Word
  pa : Nat
  size : Nat
  signed : Bool
  adv : Option Nat
  out : Bool
  deriving DecidableEq, Repr

/-- A word of a fetched group: the word, or the sub-cause of its data error (R190, R272). -/
inductive FetchWord where
  | word (w : Word)
  | err (sub : Nat)
  deriving DecidableEq, Repr

/-- A group of the fetch buffer (R187): its virtual address ÷ 16, and its four words as they were fetched (R194). -/
structure FetchGroup where
  group : Nat
  words : List FetchWord
  deriving DecidableEq, Repr

/-- One hardware slot; `kept` is the PIN = 1 context that keeps the slot though its run was ended without write-back (R95). Of its
issue (R183, R184): `next` is the first cycle in which the data of its last access no longer hold it, `away` says that they come
without a bound, `judged` and `portAt` are the cycle after the last one whose issue, and whose port, have been counted, and `lastPc`
and `lastLvl` are the address and level of the instruction that issued last (R206). `hostData` are the words that the host has returned to
the step under way, of which `hostUsed` have been taken. -/
structure Slot where
  ctx : Option Nat
  resv : Option Nat
  kept : Option Nat
  gate : Bool
  stopped : Bool
  leaving : Leaving
  parkReq : Bool
  dslot : Bool
  first : Bool
  fetch : List FetchGroup
  sb : List StoreEntry
  ase : Option Ase
  long : List LongOp
  outLoad : Option LoadWait
  hist : BitVec 64
  rstack : List Word
  lastWorld : Option Bool
  loLatch : Tab Word
  hiHold : Tab Word
  retire : Option Retire
  next : Nat
  away : Bool
  judged : Nat
  portAt : Nat
  lastPc : Word
  lastLvl : Nat
  hostData : List Word
  hostUsed : Nat
  deriving DecidableEq, Repr

/-- A TLB entry (R255); `inD` and `inI` say whether the first levels hold it, `used` the turn of its last use, and `ue` that its
sealed words read as uncorrectable (R257). -/
structure TlbEntry where
  vbase : Nat
  z : Nat
  pbase : Nat
  r : Bool
  w : Bool
  x : Bool
  u : Bool
  g : Bool
  a : Bool
  d : Bool
  attr : Nat
  secure : Bool
  part : Nat
  root : Nat
  pinned : Bool
  inD : Bool
  inI : Bool
  used : Nat
  ue : Bool
  deriving DecidableEq, Repr

/-- What a pin waits for: nothing, a refresh (R263), the walk that restores it on a pair that takes up work again (R264, R308), or that of
its PIN command (R262). -/
inductive PinWalk where
  | none | refresh | restore | command
  deriving DecidableEq, Repr

/-- A pin (R264): its virtual address and ROOT, the size exponent of its page, the walk it waits for, and the TLBIs whose acknowledgement
waits for that (R260). -/
structure Pin where
  va : Word
  root : Nat
  z : Nat
  walk : PinWalk
  waits : List Nat
  deriving DecidableEq, Repr

/-- A TLBI on its way to one core (R260). -/
structure Tlbi where
  id : Nat
  core : Nat
  slot : Nat
  form : Nat
  arg : Word
  part : Nat
  secure : Bool
  arrived : Bool
  deriving DecidableEq, Repr

/-- An entry of a core's tagged-history predictor (R198): table 0 is the base table. -/
structure PredEntry where
  table : Nat
  index : Nat
  tag : Nat
  secure : Bool
  ctx : Nat
  taken : Bool
  deriving DecidableEq, Repr

/-- The cores: slots, images (key 256 slot + word), trap windows (key 32 slot + 8 level + i), the E and M save sets (key
16 slot + 8 (level − 2) + register), programmable counters (key 8 core + j), their control registers (key 16 core + k: 0–7
PMSELj, 8 PMOVF, 9 PMSPC, 10 PMSINF), TLBs and pins per core, TLBIs on their way, predictors per core, and the pairs whose reconcile is under way (R306). -/
structure CoreSt where
  slots : Tab Slot
  image : Tab Word
  trapWin : Tab Word
  save : Tab Word
  pmc : Tab (BitVec 72)
  pmr : Tab Word
  tlb : Tab (List TlbEntry)
  pins : Tab (List Pin)
  tlbis : List Tlbi
  nextTlbi : Nat
  pred : Tab (List PredEntry)
  recon : Tab Bool
  deriving DecidableEq, Repr

/-! ## Caches, directory and DRAM (spec/09_caches_coherence.md, spec/11_dram_controller.md) -/

/-- The state of a line in an agent (R287). -/
inductive LineSt where
  | i | s | e | m | evictingClean | evictingData
  deriving DecidableEq, Repr

/-- The state of a directory entry (R287); `absent` where the LLC does not hold the line. -/
inductive DirSt where
  | absent | dn | ds | dx | db
  deriving DecidableEq, Repr

/-- A line in the LLC (R287): its directory entry, the turn at which the LLC last used it (R270), and its sealed words. -/
structure DirEntry where
  st : DirSt
  ptrs : List Nat
  dirty : Bool
  used : Nat
  words : List Sealed
  deriving DecidableEq, Repr

/-- A line in an agent (R286, R287): its state, its sealed words, and the turn of its last use (R270). -/
structure AgentLine where
  st : LineSt
  words : List Sealed
  used : Nat
  deriving DecidableEq, Repr

/-- A way of an L1 (R269): the line it holds, in I, S or M, and its sealed words. -/
structure L1Way where
  line : Nat
  st : LineSt
  words : List Sealed
  deriving DecidableEq, Repr

/-- A set of an L1 (R266, R270): its four ways and the three bits of its tree. -/
structure L1Set where
  ways : List L1Way
  tree : BitVec 3
  deriving DecidableEq, Repr

/-- The requests of R287. -/
inductive LineOp where
  | rds | rdx | upg | wbd | evn
  | wrh (words : List (Fin 16 × Word)) (target : Option (Fin 12))
  deriving DecidableEq, Repr

/-- A request at its home. -/
structure LineReq where
  agent : Nat
  op : LineOp
  deriving DecidableEq, Repr

/-- A line's queue at its home (R288): the request in service, the agents whose snoop is on its way, those that have answered
and whose answer is on its way, and the requests held. -/
structure LineQ where
  service : Option LineReq
  snoops : List Nat
  answers : List Nat
  queue : List LineReq
  deriving DecidableEq, Repr

/-- The last correction a structure recorded (R276): the word and the time in ns. -/
structure LastCorr where
  word : Nat
  ns : Nat
  deriving DecidableEq, Repr

/-- The caches: the LLC by line, the agents' lines (key 2^32 agent + line), the sets of the L1s (key 512 core + set, plus 256
for L1I), home queues, lines whose loss was read (R293), last
correction per structure (R276), the secure SRAM and ROM by word address (R422), the turns the caches have counted, the slices
whose domain was lost (R296), and the dead agents whose domain has not been powered up since (R293). -/
structure Mem where
  dirs : Tab DirEntry
  agents : Tab AgentLine
  l1 : Tab L1Set
  lineq : Tab LineQ
  lostSeen : Tab Bool
  lastCorr : Tab LastCorr
  sram : Tab Sealed
  turn : Nat
  lostSlices : List Nat
  unclean : List Nat
  deriving DecidableEq, Repr

/-- A line read waiting in a channel (R332, R333): the line, the partition it is read for, and the cycle it came. -/
structure RdReq where
  line : Nat
  part : Nat
  at_ : Nat
  deriving DecidableEq, Repr

/-- A line waiting in a channel's write queue (R332): the physical rank and channel line, its words, and whether it is the
migration copy's (R340). -/
structure WrReq where
  rank : Nat
  cl : Nat
  words : List Sealed
  copy : Bool
  deriving DecidableEq, Repr

/-- What INIT writes to a channel's controller and to the mode registers of a rank's devices (R327, R561): drive and termination in Ω, and
the latencies. -/
structure DramPhy where
  ctrlDrive : Nat
  ctrlTerm : Nat
  devDrive : Nat
  rttWr : Nat
  rttNomWr : Nat
  rttNomRd : Nat
  rttPark : Nat
  caOdt : Nat
  csOdt : Nat
  ckOdt : Nat
  cl : Nat
  cwl : Nat
  deriving DecidableEq, Repr

/-- One DRAM channel (R325 to R345) beside its registers: queues, reads issued and
not returned, the weighted turn of R333, write batch (1 from WHI, 2 idle), refreshes owed and
refreshes since the last pause per rank, pauses due, base delays stored and not yet in force (key 12 rank + device), rows whose
neighbours wait for refresh (256 rank + 16 bank group + bank, and row; in order), the LFSR, ranks that passed INIT, ranks under MEASURE, device 2x
reports per rank, the line the patrol reads next, whether the copy of line CP is queued, and the settings that INIT has
written to each rank. -/
structure Chan where
  rq : List RdReq
  issued : List RdReq
  turn : Nat
  credit : Nat
  wq : List WrReq
  batch : Nat
  owed : Tab Nat
  sincePause : Tab Nat
  pauseDue : Tab Bool
  dlyPend : Tab Word
  nrDue : List (Nat × Nat)
  openRow : Tab Nat
  lfsr : BitVec 36
  initOk : Tab Bool
  measuring : Tab Bool
  hot : Tab Bool
  patrol : Nat
  copyQueued : Bool
  warmSref : Bool
  phy : Tab (Option DramPhy)
  deriving DecidableEq, Repr

/-- The DRAM: cells by key ((2 channel + rank) 2^30 + channel line) 16 + beat, the six channels, and the command
(OP, channel, rank) whose completion MC_RES.DONE waits for (R345). -/
structure Dram where
  cells : Tab Sealed
  chans : Tab Chan
  cmd : Option (Nat × Nat × Nat)
  deriving DecidableEq, Repr

/-! ## Network (spec/12_network_ports_switch.md) -/

/-- A frame that waits at an egress port (R355, R356): its buffer number and cells, the port it came in by (6 the internal
port) with the ingress stamp in ns, the transmit descriptor whose egress stamp it owes, and whether a word of its cells is uncorrectable
(R27, R358). -/
structure TxFrame where
  frame : Frame
  ue : Bool
  id : Nat
  cells : Nat
  inPort : Nat
  ingress : Nat
  stamp : Option (Nat × Nat)
  deriving DecidableEq, Repr

/-- An entry of a pair's discard table (R361). -/
structure DupEntry where
  src : BitVec 48
  seq : BitVec 16
  port : Nat
  deriving DecidableEq, Repr

/-- A port's PTP state (R368 to R371): the master its Announce names, the two-step Sync whose Follow_Up is awaited (sequence
number, ingress ns, correctionField, interval), and its own Pdelay_Req with the first half of a two-step answer. -/
structure PtpPort where
  master : Option Announce
  sync : Option (BitVec 16 × Nat × Int × Nat)
  req : Option (BitVec 16 × Nat)
  resp : Option (BitVec 16 × Nat × Nat × Int)
  seq : BitVec 16
  deriving DecidableEq, Repr

/-- The switch: learning table by MAC, discard tables and node tables per pair, frames each ring port has sent (source,
sequence number), ports on which a pair's own supervision frame has returned, sequence numbers per pair, egress queues (key
16 port + 2 class, plus 1 for forwarded frames), the next buffer number, the frame that left each port last, PTP per port, the
grandmaster last selected, residence times owed to Follow_Ups (egress port, source, sequence number, amount), and errored frames of this second. -/
structure Net where
  learn : Tab Nat
  dups : Tab (List DupEntry)
  ringSent : Tab (List (BitVec 48 × BitVec 16))
  nodes : Tab (List (BitVec 48))
  back : Tab Nat
  seqs : Tab (BitVec 16)
  egress : Tab (List TxFrame)
  nextId : Nat
  sent : Tab (Option Frame)
  ptp : Tab PtpPort
  gm : Option (BitVec 64)
  owed : List (Nat × BitVec 80 × BitVec 16 × Int)
  errs : Tab Nat
  deriving DecidableEq, Repr

/-! ## Process data (spec/13_process_data_path.md) -/

/-- A raw sample as the engine keeps it (R391): V, its time in ns, the values, the channels' quality codes, and how often the
time base had stepped. -/
structure RawSample where
  v : Bool
  ns : Nat
  vals : List Int
  quals : List Nat
  steps : Nat
  deriving DecidableEq, Repr

/-- A sampled-value subscription (R385, R389): its state, whether its first accepted ASDU since WAIT is still to come, last count
and rejection code, ring position, accepted in a row, its raw samples, newest first, and whether its first frame without a key
has been told. -/
structure SvSub where
  state : Nat
  fresh : Bool
  lastCnt : Nat
  lastRej : Nat
  next : Nat
  run : Nat
  hist : List RawSample
  keyTold : Bool
  deriving DecidableEq, Repr

/-- An enabled GOOSE subscription (R401): state, numbers, last rejection, deadline in ns. -/
structure GooseSub where
  state : Nat
  lastRej : Nat
  stNum : BitVec 32
  sqNum : BitVec 32
  deadline : Nat
  keyTold : Bool
  deriving DecidableEq, Repr

/-- A resample set (R394 to R399): its state, physical reference and channels as ENABLE found them, the label it forms next,
the label it awaits, the label last written and the one the marker names, the last values, and the labels abandoned. A label
is N × turn + index. -/
structure RsSet where
  state : Nat
  sub : Nat
  ref : Nat
  nch : Nat
  next : Nat
  label : Nat
  last : Nat
  marked : Option Nat
  prev : List Word
  aband : List Nat
  deriving DecidableEq, Repr

/-- A publication (R409, R413): its state, numbers, for GOOSE the interval to the next retransmission in µs and the time of the
last new state in ns, and whether the loss of its key has been told. -/
structure Pub where
  state : Nat
  stNum : Nat
  sqNum : Nat
  interval : Nat
  tstate : Nat
  keyTold : Bool
  deriving DecidableEq, Repr

/-- Entries a release passes to the engine (R102, R408): the context, the entries, and whether they are the last of it. -/
structure Released where
  ctx : Nat
  entries : List CommitEntry
  final : Bool
  deriving DecidableEq, Repr

/-- What the process-data engine and the switch have still to do in memory that does not answer yet, in order (R20, R29, R286): a received
frame for the engine (R384), with the cells' `ue` of R358, or for the receive ring of a partition (R374); words of an image (R405, R416),
with the table and entry that fail with them; a value of a release for an output (R408), the end of a release, a class-G store (R412), a
publication to send; the descriptors of a transmit ring (R375), and one whose frame has left, with its stamp. -/
inductive EngineJob where
  | frame (ns : Nat) (ue : Bool) (f : Frame)
  | hostRx (p x ns : Nat) (ue : Bool) (f : Frame)
  | image (part : Nat) (hint : Option (Fin 12)) (img : Nat) (words : List (Nat × Word)) (tbl idx : Nat)
  | entry (ctx off : Nat) (v : Word)
  | finish (ctx : Nat)
  | store (off : Nat) (v : Word)
  | send (tbl i : Nat) (changed : Bool)
  | hostTx (p : Nat)
  | hostDone (p desc : Nat) (hi lo : Word)
  | command (op tbl idx : Nat)
  deriving DecidableEq, Repr

/-- A discrete output (R417): the time of its last ON in cycles of the time base, and whether an OFF waits for MINON. -/
structure DiscOut where
  onNs : Option Nat
  offDue : Bool
  deriving DecidableEq, Repr

/-- The process-data engine: entries by index, releases passed to it, publications touched per releasing context (KIND, entry,
whether a value changed), what waits for memory, outputs, and whether frames are dropped until the release of a warm reset (R376, R419). -/
structure Pd where
  sv : Tab SvSub
  goose : Tab GooseSub
  rs : Tab RsSet
  gpub : Tab Pub
  spub : Tab Pub
  released : List Released
  touched : Tab (List (Nat × Nat × Bool))
  jobs : List EngineJob
  outs : Tab DiscOut
  hold : Bool
  deriving DecidableEq, Repr

/-! ## The dictionary (spec/15_dictionary_roles_moraine.md) -/

/-- An alarm of a partition (R461): its event source when bound, and its state word. -/
structure Alarm where
  src : Option Nat
  state : Word
  deriving DecidableEq, Repr

/-- A credential (R452, R466): role, partitions, the secret S, the cycles of its failed proofs, and whether it is locked out. -/
structure Cred where
  role : Nat
  parts : BitVec 16
  secret : BitVec 256
  fails : List Nat
  locked : Bool
  deriving DecidableEq, Repr

/-- A write of a setting that is staged or flips (R456, R457): the index, sub and GROUP octet it came with, the group it changes, its
value, and whether it is STORED. Index 0700h changes the active group to `toGroup`. -/
structure SetWrite where
  toGroup : Nat
  words : List Word
  index : Nat
  sub : Nat
  group : Nat
  stored : Bool
  deriving DecidableEq, Repr

/-- What a session's request in progress waits for (R453, R456, R471): nothing, a flip, the configuration store, or the register
at an address showing a completion. -/
inductive DxWait where
  | none | flip | store | reg (addr : Nat)
  deriving DecidableEq, Repr

/-- A session beside its DX_SESS register (R466 to R468): nonces, keys, numbering, the last trailer, the octets of the last response, messages that
failed integrity, staged writes, the request in progress with its MTYPE, whether the session ends once it is answered (R472), and
whether the store is to be written when its flip is made. -/
structure Session where
  tr : Option Transport
  nc : BitVec 128
  ns : BitVec 128
  km : BitVec 256
  ke : BitVec 256
  seqIn : Nat
  seqOut : Nat
  lastTrailer : BitVec 128
  lastResp : List (BitVec 8)
  bad : Nat
  stage : List SetWrite
  wait : DxWait
  mtype : Nat
  ending : Bool
  thenStore : Bool
  deriving DecidableEq, Repr

/-- A flip between its steps 1 and 3 (R456): the session it answers, the new group, and the changes. -/
structure Flip where
  sid : Nat
  group : Nat
  changes : List SetWrite
  stored : Bool
  deriving DecidableEq, Repr

/-- The dictionary service and the configuration store: alarms (key 256 partition + alarm), partitions that exist, credentials,
sessions, setting values (key (8 partition + group) 2^24 + 2^8 index + sub), active groups, application entries in force (key 2^24
partition + 2^8 index + sub, a VOLATILE one 2^40 above), flips under way, class-D runs begun before the last flip of each partition, the STORED
values, the two areas of the boot flash with their generations, sessions whose values wait to be stored, responses for the
partitions' mailboxes as octets, and the last response sent over UDP with its port. -/
structure Dict where
  alarms : Tab Alarm
  parts : BitVec 16
  creds : Tab (Option Cred)
  sess : Tab (Option Session)
  settings : Tab (List Word)
  groups : Tab Nat
  apps : Tab (List Word)
  flips : Tab (Option Flip)
  oldRuns : Tab (List (Nat × Nat × Word × Word))
  store : Tab (List Word)
  area : Tab (List Word)
  area2 : Tab (List Word)
  gen : Nat
  gen2 : Nat
  toStore : List Nat
  mbox : Tab (List (BitVec 8))
  udp : Option (Nat × List (BitVec 8))
  deriving DecidableEq, Repr

/-! ## Rook (spec/14_secure_world.md) -/

/-- A key (R435): ALG, the 32-bit identifier, USE (bit 0 verify, 1 sign, 2 CRYPT), START and EXPIRY in ns, and its value. -/
structure Key where
  alg : Nat
  ident : BitVec 32
  use : BitVec 3
  start : Nat
  expiry : Nat
  value : BitVec 256
  deriving DecidableEq, Repr

/-- A key group (R435): its current key and its successor. -/
structure KeyGroup where
  cur : Option Key
  succ : Option Key
  deriving DecidableEq, Repr

/-- A CRYPT job in the queue of its partition (R434): the descriptor's word address, on whose behalf it reads and writes. -/
structure CryptJob where
  desc : Nat
  secure : Bool
  ctx : Nat
  deriving DecidableEq, Repr

/-- A request posted to the secure core (R431, R433): the slot and context of the call, its partition and world, its number and
arguments, and whether the call still waits for a status. -/
structure MonWait where
  slot : Nat
  ctx : Nat
  part : Nat
  secure : Bool
  call : Nat
  args : List Word
  live : Bool
  deriving DecidableEq, Repr

/-- The secure island beside its registers: the key store, CRYPT jobs per partition, the posted requests, oldest first, and the image
an UPDATE is writing with the image's number. -/
structure Rook where
  keys : Tab KeyGroup
  jobs : Tab (List CryptJob)
  waits : List MonWait
  upd : Option (Nat × List (BitVec 8))
  deriving DecidableEq, Repr

/-! ## The Moraine (spec/15_dictionary_roles_moraine.md) -/

/-- A slot of the MRAM (R473): the four record words as sealed words and the 64-bit tag. -/
structure MoSlot where
  words : List Sealed
  tag : BitVec 64
  deriving DecidableEq, Repr

/-- A slot waiting to be written (R474, R476, R477): whether it goes to the first-fault region, its place in its record (0 the
head) and the record's slot count, its words, and the region of the queue it counts in. -/
structure MoPend where
  ff : Bool
  idx : Nat
  total : Nat
  words : List Word
  deriving DecidableEq, Repr

/-- The Moraine: the ring by SEQ, the first-fault region by index, the writer's queue, the next SEQ, the record being written,
the slots of the record in
hand that are written, drops not yet told by a LOSS record (R477), power fail seen and drops since (R479), a read in progress
(R480). The ring is keyed by SEQ modulo its 61,440 slots. -/
structure Mor where
  ring : Tab MoSlot
  ff : Tab MoSlot
  queue : List MoPend
  next : Nat
  base : Nat
  done : List MoPend
  dropped : Nat
  powerFail : Bool
  pfDropped : Nat
  reading : Bool
  deriving DecidableEq, Repr

/-! ## PCIe (spec/16_pcie_endpoint.md) -/

/-- What leaves the endpoint by its queue (R495 to R497): an outbound write and an outbound read with the function that makes it,
the place of a vector in the queue, and what a vector becomes on the link. -/
inductive PxTlp where
  | write (f addr : Nat) (octets : List (BitVec 8))
  | read (f slot addr len : Nat)
  | vector (f n : Nat)
  | message (f : Nat) (addr : BitVec 64) (data : BitVec 32)
  | inta (on : Bool)
  deriving DecidableEq, Repr

/-- A completion (R499): 0 successful, 1 UR, 2 Configuration Request Retry Status; EP; its octets. -/
structure PxCpl where
  status : Nat
  ep : Bool
  octets : List (BitVec 8)
  deriving DecidableEq, Repr

/-- The endpoint beside its registers: writable bits of configuration space (key 1024 function + DWORD), MSI-X tables (key 256
function + DWORD), mailbox buffers (key 2048 function + octet), the queue of R495, what the last command put on the link, the
last completion, whether INTA is asserted, whether Rook has yet to release the endpoint (R14), functions whose mailbox
response is to be discarded (R501), and the slots whose outbound loads get the error of R500. -/
structure Pcie where
  cfg : Tab (BitVec 32)
  msix : Tab (BitVec 32)
  mbuf : Tab (BitVec 8)
  queue : List PxTlp
  sent : List PxTlp
  cpl : Option PxCpl
  inta : Bool
  held : Bool
  discard : Tab Bool
  failed : List Nat
  deriving DecidableEq, Repr

/-! ## Power, reset and start-up (spec/17_power_reset_service.md) -/

/-- What holds the part: nothing, power-on reset (R510), a thermal shutdown (R512), or a power fail (R513). -/
inductive PowHold where
  | none | por | thermal | failed
  deriving DecidableEq, Repr

/-- The power manager beside its registers: what holds the part, TESTEN, whether a warm reset is under way, the reset a store asks
for (0 none, 1 warm, 2 cold), the domain transition under way with its target state, good windows in a row per clock monitor, rails with an excursion raised and sensors
whose TEMP is raised. -/
structure Pow where
  hold : PowHold
  testen : Bool
  warm : Bool
  rstReq : Nat
  trans : Option (Nat × Nat)
  good : Tab Nat
  railOut : Tab Bool
  tempHi : Tab Bool
  deriving DecidableEq, Repr

/-- Start-up and the boot flash (R520 to R525): the octets and STATE of images A and B, ACTIVE, TRIES, whether the secure core
is in the ROM, whether it has found no image to accept, the steps of R522 done, and the image of a handover under way. -/
structure Boot where
  flash : Tab (List (BitVec 8))
  st : Tab Nat
  active : Nat
  tries : Nat
  rom : Bool
  refused : Bool
  done : Nat
  hand : Option Nat
  deriving DecidableEq, Repr

/-! ## Trace and test (spec/18_trace_debug.md) -/

/-- A trace packet (R533): its core, and its words. -/
structure TrPkt where
  core : Nat
  words : List Word
  deriving DecidableEq, Repr

/-- The trace units and the router: queues per cluster, not-taken branches since the last packet of a slot, slots whose
suppression has been told (R531), cores whose units owe a GAP of R528, packets of a core since its last SYNC (none before its
first), packets dropped at a ring and not yet told by an OVERFLOW, the cluster whose turn it is, packets written into a ring whose words
are not yet visible, by partition and length (R535), and the units that have told SLEEP, by cluster, 12 for the router (R537, R538). -/
structure Trc where
  queues : Tab (List TrPkt)
  nots : Tab Nat
  told : Tab Bool
  gap : Tab Bool
  since : Tab (Option Nat)
  ovf : Tab Nat
  turn : Nat
  vis : List (Nat × Nat)
  slept : List Nat
  deriving DecidableEq, Repr

/-- What the boundary register does to the pins (R540, R541). -/
inductive PinDrive where
  | normal | extest | clamp | highz
  deriving DecidableEq, Repr

/-- The test access port and the debugger: the instruction register, what the last access of DBGACC or DIAG left for the next
Capture-DR (R542), the boundary cells, the challenge of the last DBGAUTH capture, whether DBGAUTH has allowed DIAG, its failures,
the command of DB_CMD until it is carried out (23 for a WRMEM whose store has yet to drain), the slot that STEP lets issue, and the
pairs under a self-test of DIAG (1 a FENCED pair, 2 a HALF pair that runs on its main core, 3 one that runs on its checker). -/
structure Tap where
  ir : BitVec 8
  acc : BitVec 52
  cells : List (Cell × Bool)
  challenge : BitVec 128
  allowed : Bool
  fails : Nat
  cmd : Option Nat
  stepSlot : Option Nat
  selfTest : Tab Nat
  deriving DecidableEq, Repr

/-! ## The block -/

/-- The state of the block. `rdata` is the data the last register or aperture read
returned and `rerr` whether it got an error response; `freeCtr` is the model's own
counter from which free values are taken; `pending` is the queue of commands, first in first out. -/
structure State where
  regs : Tab Word
  rdata : Word
  rerr : Bool
  cyc : Nat
  tb : Nat
  ang : Ang
  sch : Sch
  core : CoreSt
  mem : Mem
  dram : Dram
  net : Net
  pd : Pd
  rook : Rook
  dict : Dict
  mor : Mor
  pcie : Pcie
  pow : Pow
  boot : Boot
  trc : Trc
  tap : Tap
  freeCtr : Nat
  pending : List Instr
  deriving DecidableEq, Repr

/-- The angle unit after cold reset (R45, R576). -/
def Ang.reset : Ang :=
  { servoI := 0, acqFromLocked := false, stepped := false, goodRun := 0, priRun := 0, usable := [], steps := 0, irig := none,
    lastOk := [], ptpUtc := none, hsecSub := 0, ppsOutEnd := 0, refs := [], epochs := [] }

/-- The scheduler after cold reset: every entry FREE, the Firn zero (R111). -/
def Sch.reset : Sch :=
  { firn := [], entries := [], entryErr := [], commit := [], intlk := [], ports := [], wakes := [], outVal := [] }

/-- The cores after cold reset. -/
def CoreSt.reset : CoreSt :=
  { slots := [], image := [], trapWin := [], save := [], pmc := [], pmr := [], tlb := [], pins := [], tlbis := [],
    nextTlbi := 0, pred := [], recon := [] }

/-- The caches after cold reset: every line invalid (R296). -/
def Mem.reset : Mem :=
  { dirs := [], agents := [], l1 := [], lineq := [], lostSeen := [], lastCorr := [], sram := [],
    turn := 0, lostSlices := [], unclean := [] }

/-- The DRAM after cold reset: every channel OFF (R343). -/
def Dram.reset : Dram := { cells := [], chans := [], cmd := none }

/-- The Moraine at the first power-on. -/
def Mor.reset : Mor :=
  { ring := [], ff := [], queue := [], next := 0, base := 0, done := [], dropped := 0, powerFail := false, pfDropped := 0,
    reading := false }

/-- The switch after cold reset (R376). -/
def Net.reset : Net :=
  { learn := [], dups := [], ringSent := [], nodes := [], back := [], seqs := [], egress := [], nextId := 0, sent := [],
    ptp := [], gm := none, owed := [], errs := [] }

/-- The process-data engine after cold reset. -/
def Pd.reset : Pd :=
  { sv := [], goose := [], rs := [], gpub := [], spub := [], released := [], touched := [], jobs := [], outs := [], hold := false }

/-- The secure island after cold reset: no key enrolled. -/
def Rook.reset : Rook := { keys := [], jobs := [], waits := [], upd := none }

/-- The dictionary service at its first cold reset: partition 0 alone (R23), no credential, an empty store. -/
def Dict.reset : Dict :=
  { alarms := [], parts := 1, creds := [], sess := [], settings := [], groups := [], apps := [], flips := [], oldRuns := [],
    store := [], area := [], area2 := [], gen := 0, gen2 := 0, toStore := [], mbox := [], udp := none }

/-- The endpoint after cold reset: no function configured, not released. -/
def Pcie.reset : Pcie :=
  { cfg := [], msix := [], mbuf := [], queue := [], sent := [], cpl := none, inta := false, held := true, discard := [],
    failed := [] }

/-- The power manager once power-on reset is released (R510). -/
def Pow.reset : Pow :=
  { hold := .none, testen := false, warm := false, rstReq := 0, trans := none, good := [], railOut := [], tempHi := [] }

/-- Start-up after power-on reset: the secure core in the ROM. The boot flash holds image A, CONFIRMED and ACTIVE (DESIGN CHOICE: the
spec does not say what the board's flash holds). -/
def Boot.reset : Boot :=
  { flash := [], st := [(0, 3)], active := 0, tries := 0, rom := true, refused := false, done := 0, hand := none }

/-- Trace after cold reset. -/
def Trc.reset : Trc :=
  { queues := [], nots := [], told := [], gap := [], since := [], ovf := [], turn := 0, vis := [], slept := [] }

/-- The test access port after power-on: IDCODE selected (IEEE 1149.1). -/
def Tap.reset : Tap :=
  { ir := 2, acc := 0, cells := [], challenge := 0, allowed := false, fails := 0, cmd := none, stepSlot := none, selfTest := [] }

/-- The block right after power-on reset. -/
def State.reset : State :=
  { regs := [], rdata := 0, rerr := false, cyc := 0, tb := 0, ang := Ang.reset, sch := Sch.reset, core := CoreSt.reset,
    mem := Mem.reset, dram := Dram.reset, net := Net.reset, pd := Pd.reset, rook := Rook.reset, dict := Dict.reset, mor := Mor.reset,
    pcie := Pcie.reset, pow := Pow.reset, boot := Boot.reset, trc := Trc.reset, tap := Tap.reset, freeCtr := 0, pending := [] }

end Sys2Proof.Machine
end

