-- ==== Sys2Proof/Machine/Ops.lean ====
section
/-! DEFINITION. Shared operations: bit fields, the register file, W1C flags with MORE, stamps, Moraine records, refusals,
event sources. -/

namespace Sys2Proof.Machine

/-! ## Bit fields -/

/-- Bits `lo` to `lo + n − 1` of a word, as a number. -/
def bits (w : Word) (lo n : Nat) : Nat := (w.toNat >>> lo) % 2 ^ n

/-- Bit `i` of a word. -/
def bitAt (w : Word) (i : Nat) : Bool := w.getLsbD i

/-- The word whose bits `lo` to `lo + n − 1` are 1. -/
def maskBits (lo n : Nat) : Word := BitVec.ofNat 36 ((2 ^ n - 1) <<< lo)

/-- A word with bits `lo` to `lo + n − 1` replaced by `v` modulo 2^n. -/
def setBits (w : Word) (lo n v : Nat) : Word :=
  (w &&& ~~~ maskBits lo n) ||| BitVec.ofNat 36 ((v % 2 ^ n) <<< lo)

/-- A Bool as a bit. -/
def b2n (b : Bool) : Nat := if b then 1 else 0

/-- Two's complement reading of the low `n` bits. -/
def sint (v n : Nat) : Int := if v % 2 ^ n < 2 ^ (n - 1) then (v % 2 ^ n : Nat) else (v % 2 ^ n : Nat) - (2 ^ n : Nat)

/-- A signed value clamped to a signed field of `n` bits, as the field's bits. -/
def clampInt (v : Int) (n : Nat) : Nat :=
  let hi : Int := (2 ^ (n - 1) : Nat) - 1
  let lo : Int := -((2 ^ (n - 1) : Nat) : Int)
  let c := if v > hi then hi else if v < lo then lo else v
  (c % (2 ^ n : Nat)).toNat

/-- rnd(v) := ⌊v + 1/2⌋ (R164). -/
def rnd (v : Rat) : Int := (v + 1 / 2).floor

/-! ## Registers -/

/-- The rail limits of R509 in mV, LO then HI. -/
def railLimits : List (Nat × Nat) :=
  [(713, 788), (1710, 1890), (1710, 1890), (713, 788), (808, 893), (1710, 1890), (1045, 1155), (808, 893), (1140, 1260),
   (808, 893), (1710, 1890), (3135, 3465)]

/-- A field's value after cold reset, at the register's indices. REFSEL is read as low before the part samples it. -/
def rstValue (r : RegRst) (is : List Nat) : Nat :=
  let i := is.headD 0
  match r with
  | .const n => n
  | .refsel => 0
  | .view => if i = 0 then 0o037667135230 else 0
  | .part0 a b => if i = 0 then a else b
  | .win n => if i = 0 ∧ is.getD 1 0 = 0 then n else 0
  | .held => if i = 2 then 0o4000 else 0
  | .pxpart => i - 1
  | .raillo => (railLimits.getD i (0, 0)).1
  | .railhi => (railLimits.getD i (0, 0)).2

/-- The register at word address `a`, with its indices. -/
def regAt (a : PWord) : Option (RegArr × List Nat) :=
  match blockOf a with
  | some (m, base) => findReg m (a - base)
  | none => none

/-- The value of a list of fields after cold reset. -/
def fieldsReset (is : List Nat) : List FieldSpec → Word
  | [] => 0
  | f :: fs => setBits (fieldsReset is fs) f.lo f.width (rstValue f.rst is)

/-- What the register at word address `a` holds after cold reset. -/
def regReset (a : PWord) : Word :=
  match regAt a with
  | some (r, is) => fieldsReset is r.fields
  | none => 0

/-- The register at word address `a`. -/
def State.rget (s : State) (a : PWord) : Word := Tab.get (regReset a) s.regs a

/-- The state with the register at word address `a` holding `v`. -/
def State.rset (s : State) (a : PWord) (v : Word) : State := { s with regs := Tab.set (regReset a) s.regs a v }

/-- A field of a register. -/
def State.fget (s : State) (f : Field) : Nat := bits (s.rget f.addr) f.lo f.width

/-- A one-bit field of a register. -/
def State.fbit (s : State) (f : Field) : Bool := decide (s.fget f = 1)

/-- The state with a field of a register replaced. -/
def State.fset (s : State) (f : Field) (v : Nat) : State :=
  s.rset f.addr (setBits (s.rget f.addr) f.lo f.width v)

/-- A saturating count in a field. -/
def State.fadd (s : State) (f : Field) (n : Nat) : State :=
  s.fset f (Nat.min (s.fget f + n) (2 ^ f.width - 1))

/-- A field raised to `n` where that is greater. -/
def State.fmax (s : State) (f : Field) (n : Nat) : State :=
  s.fset f (Nat.max (s.fget f) (Nat.min n (2 ^ f.width - 1)))

/-- Hardware sets bit `i` of a W1C flag: the flag, or its MORE bit where the flag is 1 already (R11). -/
def State.flag (s : State) (f more : Field) (i : Nat := 0) : State :=
  if bitAt (s.rget f.addr) (f.lo + i) then s.rset more.addr (setBits (s.rget more.addr) (more.lo + i) 1 1)
  else s.rset f.addr (setBits (s.rget f.addr) (f.lo + i) 1 1)

/-! ## Stamps -/

/-- Nanoseconds in a second. -/
def nsPerSec : Nat := 1000000000

/-- The time base truncated to 1 ns (R63). -/
def State.nowNs (s : State) : Nat := s.tb / 2 ^ 32

/-- The TIME72 of a count of ns with quality `q`: the lower-address word and the higher-address word (R47). -/
def time72 (ns q : Nat) : Word × Word :=
  let sec := ns / nsPerSec
  (BitVec.ofNat 36 ((sec / 16) % 2 ^ 36), BitVec.ofNat 36 ((sec % 16) * 2 ^ 32 + (ns % nsPerSec) * 4 + q % 4))

/-- The seconds and nanoseconds that a TIME72 names, in ns (R47); its quality is not read. -/
def time72Ns (hi lo : Word) : Nat :=
  (hi.toNat * 16 + bits lo 32 4) * nsPerSec + bits lo 2 30

/-- The stamp of this cycle, with its quality (R48, R63). -/
def State.stamp (s : State) : Word × Word := time72 s.nowNs (s.fget Reg.AN_TB_STAT_QUAL)

/-! ## Partitions and entries -/

/-- Whether global context `c` lies in partition `p`'s range (R24). -/
def State.inRange (s : State) (p c : Nat) : Bool :=
  let b := 16 * s.fget (Reg.SC_PRANGE_BASE p)
  decide (b ≤ c ∧ c < b + 16 * s.fget (Reg.SC_PRANGE_COUNT p))

/-- The partition of global context `c`, where it lies in one (R24). -/
def State.partOf (s : State) (c : Nat) : Option Nat := (List.range 16).find? (fun p => s.inRange p c)

/-- A free entry (R113). -/
def Entry.free : Entry :=
  { cfg := 0, trig := 0, next0 := 0, next1 := 0, bud := 0, stat := 0, cnt := 0, max := 0, pend := false, due := 0,
    agreed := false, fresh := false, decided := 0 }

/-- What a word yields whose sealed word carries an error pattern (R27, R272). -/
def readWith (err : BitVec 48) (v : Word) : Word :=
  if err = 0 then v
  else
    let w := sealWord v ^^^ err
    (readSealed w).word.getD (Config.unreadable w)

/-- The value of a captured output as its sealed word reads (R27). -/
def CommitEntry.out (e : CommitEntry) : Word := readWith e.err e.value

/-- Word `j` of an entry (R113). -/
def Entry.word (e : Entry) (j : Nat) : Word := [e.cfg, e.trig, e.next0, e.next1, e.bud, e.stat, e.cnt, e.max].getD j 0

/-- An entry as its sealed words read (R27). -/
def Entry.unsealed (errs : Tab (BitVec 48)) (c : Nat) (e : Entry) : Entry :=
  let r (j : Nat) : Word := readWith (Tab.get 0 errs (8 * c + j)) (e.word j)
  { e with cfg := r 0, trig := r 1, next0 := r 2, next1 := r 3, bud := r 4, stat := r 5, cnt := r 6, max := r 7 }

/-- The scheduler entry of global context `c`. -/
def State.entry (s : State) (c : Nat) : Entry :=
  let e := Tab.get Entry.free s.sch.entries c
  if s.sch.entryErr = [] then e else e.unsealed s.sch.entryErr c

/-- Every entry that is listed. -/
def State.entryList (s : State) : List (Nat × Entry) :=
  if s.sch.entryErr = [] then s.sch.entries else s.sch.entries.map fun (c, e) => (c, e.unsealed s.sch.entryErr c)

/-- The error patterns that stay when an entry is replaced: those of the words that are not written anew. -/
def State.keptErrs (s : State) (c : Nat) (e : Entry) : Tab (BitVec 48) :=
  let old := s.entry c
  (List.range 8).foldl (fun t j => if e.word j = old.word j then t else Tab.set 0 t (8 * c + j) 0) s.sch.entryErr

/-- A replaced entry as it is held: a word that is not written anew stays as it was. -/
def State.heldEntry (s : State) (c : Nat) (e : Entry) : Entry :=
  let old := s.entry c
  let raw := Tab.get Entry.free s.sch.entries c
  let r (j : Nat) : Word := if e.word j = old.word j then raw.word j else e.word j
  { e with cfg := r 0, trig := r 1, next0 := r 2, next1 := r 3, bud := r 4, stat := r 5, cnt := r 6, max := r 7 }

/-- The state with the entry of global context `c` replaced. -/
def State.setEntry (s : State) (c : Nat) (e : Entry) : State :=
  if s.sch.entryErr = [] then { s with sch := { s.sch with entries := Tab.set Entry.free s.sch.entries c e } }
  else
    { s with sch := { s.sch with
        entries := Tab.set Entry.free s.sch.entries c (s.heldEntry c e), entryErr := s.keptErrs c e } }

def Entry.ttype (e : Entry) : Nat := bits e.cfg 0 2
def Entry.classG (e : Entry) : Bool := bitAt e.cfg 2
def Entry.en (e : Entry) : Bool := bitAt e.cfg 3
def Entry.any (e : Entry) : Bool := bitAt e.cfg 4
def Entry.home (e : Entry) : Nat := bits e.cfg 5 5
def Entry.ovpol (e : Entry) : Bool := bitAt e.cfg 10
def Entry.rstpol (e : Entry) : Bool := bitAt e.cfg 11
def Entry.sync (e : Entry) : Bool := bitAt e.cfg 12
def Entry.tstep (e : Entry) : Bool := bitAt e.cfg 13
def Entry.pin (e : Entry) : Bool := bitAt e.cfg 14
def Entry.margin (e : Entry) : Nat := bits e.cfg 18 18
def Entry.ref (e : Entry) : Nat := bits e.trig 0 3
def Entry.n (e : Entry) : Nat := bits e.trig 3 12 + 1
def Entry.off (e : Entry) : Nat := bits e.trig 15 12
def Entry.period (e : Entry) : Nat := e.trig.toNat
def Entry.src (e : Entry) : Nat := bits e.trig 0 10
def Entry.nturn (e : Entry) : Nat := bits e.next0 0 12
def Entry.nidx (e : Entry) : Nat := bits e.next0 12 12
def Entry.nextNs (e : Entry) : Nat := time72Ns e.next0 e.next1
def Entry.budget (e : Entry) : Nat := bits e.bud 0 24
def Entry.state (e : Entry) : Nat := bits e.stat 0 4
def Entry.slot (e : Entry) : Nat := bits e.stat 4 9
def Entry.setState (e : Entry) (n : Nat) : Entry := { e with stat := setBits e.stat 0 4 n }
def Entry.setSlot (e : Entry) (n : Nat) : Entry := { e with stat := setBits e.stat 4 9 n }
def Entry.setUcause (e : Entry) (n : Nat) : Entry := { e with stat := setBits e.stat 13 3 n }
def Entry.setEn (e : Entry) (b : Bool) : Entry := { e with cfg := setBits e.cfg 3 1 (b2n b) }
/-- Add one to a saturating 12-bit count of SC_ECNT at bit `lo`. -/
def Entry.count (e : Entry) (lo n : Nat) : Entry :=
  { e with cnt := setBits e.cnt lo 12 (Nat.min (bits e.cnt lo 12 + n) 4095) }

/-- Entry states (R86). -/
def stFree : Nat := 0
def stIdle : Nat := 1
def stArmed : Nat := 2
def stWaiting : Nat := 3
def stStaging : Nat := 4
def stStaged : Nat := 5
def stRunning : Nat := 6
def stCommit : Nat := 7
def stHeld : Nat := 8
def stParked : Nat := 9
def stUnavail : Nat := 10

/-- A due point of a time entry as the words NEXT hold it. -/
def Entry.setNextNs (e : Entry) (ns : Nat) : Entry :=
  { e with next0 := (time72 ns 0).1, next1 := (time72 ns 0).2 }

/-- The point after the awaited one, `k` points on: R79 for an angle entry, R81 for a time entry. -/
def Entry.advance (e : Entry) : Entry :=
  if e.ttype = 1 then
    if e.nidx + 1 < e.n then { e with next0 := setBits e.next0 12 12 (e.nidx + 1) }
    else { e with next0 := setBits (setBits e.next0 12 12 0) 0 12 (e.nturn + 1) }
  else if e.ttype = 2 then e.setNextNs (e.nextNs + e.period)
  else e

/-- Count `n` missed points of context `c` (R88): MISS of the entry, SC_PMISS and SC_PSTAT.MISS of the partition. -/
def State.missed (s : State) (c n : Nat) : State :=
  if n = 0 then s
  else
    let s1 := s.setEntry c ((s.entry c).count 12 n)
    match s1.partOf c with
    | none => s1
    | some p => (s1.fadd (Reg.SC_PMISS_N p) n).flag (Reg.SC_PSTAT_MISS p) (Reg.SC_PSTAT_MISS_MORE p)

/-! ## Event sources -/

/-- The physical reference of local reference `i` of partition `p`, where its view maps it (R65). -/
def State.viewRef (s : State) (p i : Nat) : Option Nat :=
  let w := s.rget (Reg.AN_VIEW p)
  if bitAt w (4 * i + 3) then some (bits w (4 * i) 3) else none

/-- The owner partition of software source `n`, 512 or more (R85). -/
def State.srcOwner (s : State) (n : Nat) : Nat :=
  bits (s.rget (Reg.SC_EVOWN ((n - 512) / 8))) (4 * ((n - 512) % 8)) 4

/-- The source that number `src` binds for partition `p`: 0 to 7 name local references (R85). -/
def State.boundSrc (s : State) (p src : Nat) : Option Nat :=
  if src < 8 then s.viewRef p src
  else if src < 512 then some src
  else if s.srcOwner src = p then some src
  else none

/-- Whether the points of an entry that pass are counted missed because SC_CFG.EN is 0: all but those of an entry that is on its way to
its run, which it completes (R578). -/
def State.gatedOff (s : State) (e : Entry) : Bool :=
  !s.fbit Reg.SC_CFG_EN && decide (e.state ≠ stStaging ∧ e.state ≠ stStaged)

/-- A raise of the source of context `c`'s event entry (R83, R88, R578). A first raise that finds the entry RUNNING, in COMMIT or HELD
leaves a point pending and counts none missed (model's choice). -/
def State.eventDue (s : State) (c : Nat) : State :=
  let e := s.entry c
  if s.gatedOff e then s.missed c 1
  else if e.pend then (s.setEntry c { e with due := s.cyc }).missed c 1
  else s.setEntry c { e with pend := true, due := s.cyc }

/-- Whether context `c`'s entry is an enabled event entry that source `n` makes due. -/
def State.eventBound (s : State) (n c : Nat) (e : Entry) : Bool :=
  match s.partOf c with
  | none => false
  | some p => !e.classG && e.en && decide (e.ttype = 3) && decide (s.boundSrc p e.src = some n)

/-- Every event entry that source `n` makes due (R83). -/
def State.raiseEntries (n : Nat) : Tab Entry → State → State
  | [], s => s
  | (c, e) :: t, s => State.raiseEntries n t (if s.eventBound n c e then s.eventDue c else s)

/-- The partition and line of a CP_IRQ register, where word address `a` is one. -/
def irqOf (a : PWord) : Option (Nat × Nat) :=
  let base := Reg.CP_IRQ 0 0
  if base ≤ a then
    let p := (a - base) / 256
    let l := (a - base) % 256
    if p < 16 ∧ l < 64 then some (p, l) else none
  else none

/-- The cycles of `n` seconds. -/
def secCycles (n : Nat) : Nat := n * 1600000000

/-- A line that becomes pending waits to wake a target that is IDLE or PARKED where WAKE asks for it, and no other (R231). -/
def State.markWake (s : State) (p l : Nat) (wake : Bool) : State :=
  let rest := s.sch.wakes.filter fun n => decide (n ≠ 64 * p + l)
  { s with sch := { s.sch with wakes := if wake then (64 * p + l) :: rest else rest } }

/-- Line `l` of partition `p` becomes pending (R229): it may wait to wake its target, and sets ORPHAN where that can never take it (R231). -/
def State.pendLine (s : State) (p l : Nat) : State :=
  let was := bitAt (s.rget (Reg.CP_IPEND p (l / 16))) (l % 16)
  let s1 := s.flag (Reg.CP_IPEND_PEND p (l / 16)) (Reg.CP_IPEND_PEND_MORE p (l / 16)) (l % 16)
  let tgt := 16 * s1.fget (Reg.SC_PRANGE_BASE p) + s1.fget (Reg.CP_IRQ_TGT p l)
  let e := s1.entry tgt
  if s1.inRange p tgt && e.classG && decide (e.state ≠ stFree) && decide (e.state ≠ stUnavail) then
    (if was then s1
     else s1.markWake p l (decide (e.state = stIdle ∨ e.state = stParked) && s1.fbit (Reg.CP_IRQ_WAKE p l)))
  else (s1.markWake p l false).flag (Reg.CP_ISTAT_ORPHAN p) (Reg.CP_ISTAT_ORPHAN_MORE p)

/-- Every enabled interrupt line that names source `n` pends (R229). -/
def State.raiseLines (n : Nat) : Tab Word → State → State
  | [], s => s
  | (a, w) :: t, s =>
    State.raiseLines n t
      (match irqOf a with
       | none => s
       | some (p, l) =>
         if bitAt w 25 && decide (s.boundSrc p (bits w 0 10) = some n) then s.pendLine p l else s)

/-- A raise of an alarm: ACTIVE, not ACKED, counted (R461). -/
def Alarm.raise (a : Alarm) : Alarm :=
  { a with state := setBits (setBits a.state 0 2 1) 2 34 (Nat.min (bits a.state 2 34 + 1) (2 ^ 34 - 1)) }

/-- Every alarm bound to source `n` is raised (R461). The key of an alarm is 256 partition + alarm. -/
def raiseAlarms (s : State) (n : Nat) : Tab Alarm → Tab Alarm
  | [] => []
  | (k, a) :: t =>
    (k, match a.src with
        | none => a
        | some src => if s.boundSrc (k / 256) src = some n then a.raise else a) :: raiseAlarms s n t

/-- Source `n` is raised: event entries fall due, interrupt lines pend, alarms become active (R83, R84, R229, R461). -/
def State.raise (s : State) (n : Nat) : State :=
  let s1 := State.raiseEntries n s.entryList s
  let s2 := State.raiseLines n s1.regs s1
  { s2 with dict := { s2.dict with alarms := raiseAlarms s2 n s2.dict.alarms } }

/-! ## Moraine records -/

/-- Record types (R475). -/
def tyBoot : Nat := 0o001
def tyPower : Nat := 0o002
def tyLoss : Nat := 0o003
def tyWrite : Nat := 0o010
def tyRefusal : Nat := 0o011
def tySession : Nat := 0o012
def tyContext : Nat := 0o020
def tySched : Nat := 0o021
def tyLockstep : Nat := 0o022
def tyMemory : Nat := 0o023
def tyDram : Nat := 0o024
def tyNetwork : Nat := 0o025
def tyProcess : Nat := 0o026
def tySecure : Nat := 0o027
def tyTime : Nat := 0o030

/-- The TYPE and CODE pairs that are copied to the first-fault region (R475). -/
def firstFault (ty code : Nat) : Bool :=
  if ty = tyPower then decide (1 ≤ code ∧ code ≤ 3)
  else if ty = tySession then decide (code = 3 ∨ code = 5)
  else if ty = tyContext then true
  else if ty = tySched then decide (code = 1 ∨ code = 3 ∨ code = 6 ∨ code = 7)
  else if ty = tyLockstep then decide (code = 1 ∨ code = 2 ∨ code = 5)
  else if ty = tyMemory then decide (code = 2 ∨ code = 4 ∨ code = 5)
  else if ty = tyDram then decide (code = 1 ∨ code = 7)
  else if ty = tyNetwork then decide (code = 1)
  else if ty = tyProcess then decide (code = 3)
  else if ty = tySecure then decide (code = 6)
  else false

/-- The four words of a record's head (R475), created in this cycle. -/
def State.recordHead (s : State) (ty conts part code subj : Nat) (data : Word) : List Word :=
  [s.stamp.1, s.stamp.2,
   BitVec.ofNat 36 ((ty % 512) * 2 ^ 27 + (conts % 4) * 2 ^ 25 + (part % 16) * 2 ^ 21 + (code % 512) * 2 ^ 12 + subj % 4096),
   data]

/-- The slots of a record in the order they are written: continuations first, the head last (R474). -/
def recordSlots (ff : Bool) (head : List Word) (conts : List (List Word)) : List MoPend :=
  (conts.mapIdx fun i ws => { ff := ff, idx := i + 1, total := conts.length + 1, words := ws }) ++
    [{ ff := ff, idx := 0, total := conts.length + 1, words := head }]

/-- Slots of the first-fault region used or waiting to be used. -/
def State.ffUsed (s : State) : Nat :=
  s.fget Reg.MO_STAT_FFCNT + (s.mor.queue.filter (·.ff)).length

/-- MO_STAT.QDEP follows the queue. -/
def State.qdep (s : State) : State := s.fset Reg.MO_STAT_QDEP s.mor.queue.length

/-- A record finds no room: it is dropped and counted, and source 116 is raised (R477, R479, R482). -/
def State.dropRecord (s : State) : State :=
  let s1 := (s.fadd Reg.MO_DROP_COUNT 1).flag Reg.MO_EVT_DROP Reg.MO_EVT_DROP_MORE
  let s2 := { s1 with mor := { s1.mor with dropped := s1.mor.dropped + 1,
                                           pfDropped := if s1.mor.powerFail then s1.mor.pfDropped + 1 else s1.mor.pfDropped } }
  s2.raise 116

/-- The first-fault region lacks room for a record: FFFULL is set, and source 117 raised once (R476). -/
def State.ffFull (s : State) : State :=
  let t := (s.fset Reg.MO_STAT_FFFULL 1).flag Reg.MO_EVT_FFFULL Reg.MO_EVT_FFFULL_MORE
  if s.fbit Reg.MO_STAT_FFFULL then t else t.raise 117

/-- A record of type `ty` is queued with its continuations, and with its first-fault copy where R476 asks for one and the
region has room for it, or is dropped for want of room (R475 to R477, R479). -/
def State.record (s : State) (ty code part subj : Nat) (data : Word) (conts : List (List Word) := []) : State :=
  let n := conts.length + 1
  let wantFf := firstFault ty code
  let ffRoom := decide (s.ffUsed + n ≤ 4096)
  let s1 := if wantFf && !ffRoom then s.ffFull else s
  let head := s1.recordHead ty conts.length part code subj data
  let slots := recordSlots false head conts ++ (if wantFf && ffRoom then recordSlots true head conts else [])
  let room := if s1.mor.powerFail then 255 else 253
  if (s1.mor.powerFail && decide (ty ≠ tyPower)) || decide (room < s1.mor.queue.length + slots.length) then s1.dropRecord
  else { s1 with mor := { s1.mor with queue := s1.mor.queue ++ slots } }.qdep

/-- Blocks by their number in the list of R453. -/
def blkCP : Nat := 0
def blkAN : Nat := 1
def blkSC : Nat := 2
def blkFN : Nat := 3
def blkTL : Nat := 4
def blkCH : Nat := 5
def blkLS : Nat := 6
def blkMC : Nat := 7
def blkNP : Nat := 8
def blkPD : Nat := 9
def blkRK : Nat := 10
def blkDX : Nat := 11
def blkMO : Nat := 12
def blkPX : Nat := 13
def blkPM : Nat := 14
def blkTR : Nat := 15

/-- The statuses of a refusal (R13, R108, R262). -/
def stsOk : Nat := 0
def stsConflict : Nat := 1
def stsBusy : Nat := 2
def stsNoContext : Nat := 3
def stsBadArg : Nat := 4

/-- The REFUSAL record of a command (R13, R475): status, block, operation and argument, on behalf of partition `part` and
session or context `subj`. -/
def State.refusal (s : State) (status part subj blk op arg : Nat) : State :=
  s.record tyRefusal status part subj
    (BitVec.ofNat 36 ((blk % 64) * 2 ^ 30 + (op % 64) * 2 ^ 24 + arg % 2 ^ 24))

/-- A free value of the model: the counter moves on. -/
def State.freeNext (s : State) : State := { s with freeCtr := s.freeCtr + 1 }

end Sys2Proof.Machine
end

