-- ==== Sys2Proof/Machine/Regs.lean ====
section
/-! DEFINITION. Stores and reads of device registers under their access codes (R4 to R12, R574), and the asynchronous
reports of refused stores (R226 to R228). -/

namespace Sys2Proof.Machine

/-! ## Slots and their asynchronous errors -/

/-- A slot that holds nothing. -/
def Slot.empty : Slot :=
  { ctx := none, resv := none, kept := none, gate := false, stopped := false, leaving := .none, parkReq := false, dslot := false,
    first := false, fetch := [], sb := [], ase := none, long := [], outLoad := none, hist := 0, rstack := [],
    lastWorld := none, loLatch := [], hiHold := [], retire := none, next := 0, away := false, judged := 0,
    portAt := 0, lastPc := 0, lastLvl := 0, hostData := [], hostUsed := 0 }

def State.slot (s : State) (i : Nat) : Slot := Tab.get Slot.empty s.core.slots i

def State.setSlot (s : State) (i : Nat) (x : Slot) : State :=
  { s with core := { s.core with slots := Tab.set Slot.empty s.core.slots i x } }

/-- Word `w` of the image of the context in slot `i`. -/
def State.img (s : State) (i w : Nat) : Word := Tab.get 0 s.core.image (256 * i + w)

def State.setImg (s : State) (i w : Nat) (v : Word) : State :=
  { s with core := { s.core with image := Tab.set 0 s.core.image (256 * i + w) v } }

/-- The slot that holds global context `c`. -/
def slotHolding (c : Nat) : Tab Slot → Option Nat
  | [] => none
  | (i, x) :: t => if x.ctx = some c then some i else slotHolding c t

def State.slotOf (s : State) (c : Nat) : Option Nat := slotHolding c s.core.slots

/-- Image word of ASEADDR (R68). -/
def iwAseaddr : Nat := 11

/-- An error of a store whose context has left its slot (R228). -/
def State.undelivered (s : State) (c : Nat) (addr : Word) (sub : Nat) : State :=
  let p := (s.partOf c).getD 0
  let s1 :=
    if s.fbit (Reg.CP_ISTAT_ASEL p) then s
    else ((s.fset (Reg.CP_ASELA_ADDR p) addr.toNat).fset (Reg.CP_ASELC_CTX p) c).fset (Reg.CP_ASELC_SUB p) sub
  (s1.flag (Reg.CP_ISTAT_ASEL p) (Reg.CP_ISTAT_ASEL_MORE p)).record tyMemory 7 p c addr

/-- An asynchronous store error of context `c` is latched in the slot that holds it (R227), or handled as undelivered. -/
def State.asyncError (s : State) (c : Nat) (addr : Word) (sub : Nat) : State :=
  match s.slotOf c with
  | none => s.undelivered c addr sub
  | some i =>
    let x := s.slot i
    match x.ase with
    | some a => s.setSlot i { x with ase := some { a with multi := true } }
    | none => (s.setSlot i { x with ase := some { sub := sub, multi := false } }).setImg i iwAseaddr addr

/-- An error of a store, for the context that made it or for none where the context has left its slot (R226 to R228). -/
def State.storeError (s : State) (req : Requester) (addr : Word) (sub : Nat) : State :=
  if req.left then s.undelivered req.ctx.val addr sub else s.asyncError req.ctx.val addr sub

/-- The state of power domain `d` (R505): 0 OFF, 1 ON, 2 CLKOFF, 3 LOST. -/
def State.domState (s : State) (d : Nat) : Nat := bits (s.rget (Reg.PM_DSTAT (d / 18))) (2 * (d % 18)) 2

def State.setDom (s : State) (d st : Nat) : State := s.fset ⟨Reg.PM_DSTAT (d / 18), 2 * (d % 18), 2⟩ st

/-! ## Access codes -/

/-- The partition whose configuration lock an LK field of word address `a` belongs to (R458). -/
def State.lockPart (s : State) (a : PWord) : Nat :=
  if Reg.AN_VIEW 0 ≤ a ∧ a < Reg.AN_VIEW 16 then a - Reg.AN_VIEW 0
  else if Reg.CP_SVBASE 0 0 ≤ a ∧ a < Reg.CP_SVBASE 16 0 then (a - Reg.CP_SVBASE 0 0) / 256
  else if Reg.DX_ATB 0 ≤ a ∧ a < Reg.DX_ATB 16 then (a - Reg.DX_ATB 0) / 16
  else if Reg.SC_OPAGE_F 0 ≤ a ∧ a < Reg.SC_OPAGE_F 256 then
    (s.partOf (s.fget (Reg.SC_OPAGE_C_CTX ((a - Reg.SC_OPAGE_F 0) / 2)))).getD 0
  else 0

/-- Whether the lock of partition `p` is committed (R459). -/
def State.locked (s : State) (p : Nat) : Bool := bitAt (s.rget Reg.DX_LOCK) p

/-- Whether a field at these indices carries the code LK. -/
def Guard.isLk (g : Guard) (is : List Nat) : Bool :=
  match g with
  | .lk => true
  | .lkSecSh => decide (is.getD 1 0 = 0)
  | _ => false

/-- Whether a field at these indices carries the code SH. -/
def Guard.isSh (g : Guard) (is : List Nat) : Bool :=
  match g with
  | .sh => true
  | .secSh => decide (is.getD 1 0 = 1)
  | .lkSecSh => decide (is.getD 1 0 = 1)
  | .shVf => decide (is.headD 0 ≠ 0)
  | _ => false

/-- The refusal a store of word address `a` from `level` meets: 3 secure-held (R9, R574), 2 locked (R8), none. -/
def State.storeGuard (s : State) (level : Level) (a : PWord) : Option Nat :=
  match regAt a with
  | none => none
  | some (r, is) =>
    if decide (level ≠ .m) && r.fields.any (fun f => f.guard.isSh is) then some 3
    else if s.locked (s.lockPart a) && r.fields.any (fun f => f.guard.isLk is) then some 2
    else none

/-- One field of the stored word under its access code, LK and SH fields unchanged where `refused`. -/
def storeField (refused : Bool) (is : List Nat) (old new : Word) (acc : Word) (f : FieldSpec) : Word :=
  let held := refused && (f.guard.isLk is || f.guard.isSh is)
  match f.acc with
  | .rw => if held || (decide (f.guard = .shVf) && decide (is.headD 0 = 0)) then acc else setBits acc f.lo f.width (bits new f.lo f.width)
  | .w1c => setBits acc f.lo f.width (bits (old &&& ~~~new) f.lo f.width)
  | _ => acc

/-- Hardware sets of W1C flags in the cycle of the store: the flag is 1 afterwards, and MORE too where it was 1 (R10 to R12). -/
def hwField (old hw : Word) (acc : Word) (f : FieldSpec) : Word :=
  match f.acc with
  | .w1c =>
    let set := bits hw f.lo f.width
    let acc1 := setBits acc f.lo f.width (bits acc f.lo f.width ||| set)
    if f.more < 36 then
      setBits acc1 f.more f.width (bits acc1 f.more f.width ||| (set &&& bits old f.lo f.width))
    else acc1
  | _ => acc

/-- What the register at `a` holds after a store of `new` (R4 to R12). -/
def State.storedWord (s : State) (level : Level) (a : PWord) (new hw : Word) : Word :=
  match regAt a with
  | none => s.rget a
  | some (r, is) =>
    let old := s.rget a
    let w := r.fields.foldl (storeField (s.storeGuard level a).isSome is old new) old
    r.fields.foldl (hwField old hw) w

/-- The report of a store refused by LK or SH: one SECURE record and one asynchronous store error (R8, R9, R574). -/
def State.reportGuard (s : State) (req : Requester) (va : Word) (sub : Nat) : State :=
  (s.record tySecure (if sub = 3 then 2 else 1) req.part.val req.ctx.val va).storeError req va sub

/-- The nonet address of word address `a`, as far as a word holds it. -/
def addrWord (a : PWord) : Word := BitVec.ofNat 36 (4 * a)

/-- What a store to the register at `a` does beside its fields, where the store is not refused (R8, R9, R574). -/
def State.guarded (s : State) (req : Requester) (va : Word) (a : PWord) (f : State → State) : State :=
  match s.storeGuard req.level a with
  | some sub => s.reportGuard req va sub
  | none => f s

/-- A word store to a register without effects of its own. `va` is the address reported where the store is refused. -/
def State.regStore (s : State) (req : Requester) (va : Word) (a : PWord) (new : Word) (hw : Word := 0) : State :=
  let s1 := s.rset a (s.storedWord req.level a new hw)
  match s.storeGuard req.level a with
  | some sub => s1.reportGuard req va sub
  | none => s1

/-- What a read of the register's RC fields leaves: 0, or what hardware sets in the same cycle (R7). -/
def clearRc (hw : Word) (acc : Word) (f : FieldSpec) : Word :=
  match f.acc with
  | .rc => setBits acc f.lo f.width (bits hw f.lo f.width)
  | _ => acc

/-- What a read of a register returns, WO fields as 0 (R6). -/
def hideWo (acc : Word) (f : FieldSpec) : Word :=
  match f.acc with
  | .wo => setBits acc f.lo f.width 0
  | _ => acc

/-- A word read of a register: its value, and the state after its RC fields have cleared (R7). -/
def State.regRead (s : State) (a : PWord) (hw : Word := 0) : State × Word :=
  match regAt a with
  | none => (s, 0)
  | some (r, _) =>
    (s.rset a (r.fields.foldl (clearRc hw) (s.rget a)), r.fields.foldl hideWo (s.rget a))

end Sys2Proof.Machine
end

