-- ==== Sys2Proof/Machine/Angle.lean ====
section
/-! DEFINITION. Time and the mains angle (spec/02_angle_timebase.md): the time base, its servo and states, the eight angle
references, epochs, views and stamps. -/

namespace Sys2Proof.Machine

/-! ## The time base -/

/-- The nominal AN_TB_INC, 0.625 ns in units of 2^−32 ns (R34). -/
def tbNominal : Nat := 0o024000000000

/-- The state of the time base (R40): 0 FREERUN, 1 ACQUIRE, 2 LOCKED, 3 HOLDOVER. -/
def State.tbState (s : State) : Nat := s.fget Reg.AN_TB_STAT_STATE

/-- The quality of this cycle (R48). -/
def State.quality (s : State) : Nat :=
  if ¬ s.fbit Reg.AN_TB_STAT_SET then 3
  else if s.tbState = 2 then 0
  else if s.tbState = 3 ∧ s.fget Reg.AN_TB_STAT_HSEC < s.fget Reg.AN_TB_HOLD_HOLDSPEC ∧ ¬ s.fbit Reg.AN_TB_STAT_REFLOSS
  then 1
  else 2

/-- AN_TB_STAT.QUAL follows the state. -/
def State.refreshQual (s : State) : State := s.fset Reg.AN_TB_STAT_QUAL s.quality

/-- AN_UTC.USRC, and OFFS where PTP supplies it (R46). -/
def State.refreshUtc (s : State) : State :=
  let act := s.fget Reg.AN_TB_STAT_ACT
  if act = 1 ∧ s.ang.ptpUtc.isSome then
    (s.fset Reg.AN_UTC_USRC 1).fset Reg.AN_UTC_OFFS (clampInt (s.ang.ptpUtc.getD 0) 18)
  else if (act = 2 ∨ act = 3) ∧ s.fbit Reg.AN_TB_CFG_IRIGX then s.fset Reg.AN_UTC_USRC 2
  else s.fset Reg.AN_UTC_USRC 0

/-- The source that a PRI or SEC encoding names: 5 to 7 act as 0 (R35). -/
def srcCode (n : Nat) : Nat := if n ≤ 4 then n else 0

def State.priSrc (s : State) : Nat := srcCode (s.fget Reg.AN_TB_CFG_PRI)
def State.secSrc (s : State) : Nat := srcCode (s.fget Reg.AN_TB_CFG_SEC)

/-- Whether source `n` is usable (R35, R36, R43). -/
def State.usable (s : State) (n : Nat) : Bool :=
  decide (n ≠ 0) && Tab.get false s.ang.usable n && (decide (n ≠ 4) || s.fbit Reg.AN_TB_STAT_SET)

def State.setUsable (s : State) (n : Nat) (b : Bool) : State :=
  { s with ang := { s.ang with usable := Tab.set false s.ang.usable n b } }

/-- The source that a transition to ACQUIRE takes: PRI when usable, else SEC (R35). -/
def State.bestSrc (s : State) : Nat :=
  if s.usable s.priSrc then s.priSrc else if s.usable s.secSrc then s.secSrc else 0

/-- A rational number held to ±2^−12 (R34, R576). -/
def clampPpm (x : Rat) : Rat :=
  let lim : Rat := 1 / 4096
  if x > lim then lim else if x < -lim then -lim else x

/-- AN_TB_INC for a fractional frequency correction `y` (R576). -/
def incFor (y : Rat) : Nat := (rnd ((tbNominal : Rat) * (1 + y))).toNat

/-- A new state of the time base: AN_EVT.TBCHG, source 8 and a TIME record; HOLDOVER holds the frequency of the integral
term, LOCKED clears REFLOSS (R40, R48, R66, R576). -/
def State.enterTb (s : State) (st : Nat) : State :=
  let s1 := s.fset Reg.AN_TB_STAT_STATE st
  let s2 := if st = 2 then s1.fset Reg.AN_TB_STAT_REFLOSS 0 else s1
  let s3 :=
    if st = 3 then
      let t := (s2.fset Reg.AN_TB_STAT_HSEC 0).fset Reg.AN_TB_INC_INC (incFor s2.ang.servoI)
      { t with ang := { t.ang with hsecSub := 0 } }
    else s2
  let s4 := if st = 0 ∨ st = 3 then s3.fset Reg.AN_TB_STAT_ACT 0 else s3
  let s5 := (s4.flag Reg.AN_EVT_TBCHG Reg.AN_EVT_TBCHG_MORE).refreshQual.refreshUtc
  (s5.record tyTime 1 0 st 0).raise 8

/-- ACQUIRE on source `src`, entered from LOCKED or HOLDOVER, or from FREERUN (R40, R41). A move to the other source within an ACQUIRE
keeps that ACQUIRE's step. -/
def State.acquire (s : State) (src : Nat) (fromLocked : Bool) : State :=
  let s1 := s.fset Reg.AN_TB_STAT_ACT src
  let s2 := { s1 with ang := { s1.ang with acqFromLocked := fromLocked, stepped := decide (s1.tbState = 1) && s1.ang.stepped, goodRun := 0, priRun := 0 } }
  if s2.tbState = 1 then s2.refreshUtc else s2.enterTb 1

/-- The servo takes an offset `o` ns of a source whose interval is `interval` ns (R576). -/
def State.servo (s : State) (o interval : Rat) : State :=
  let u := o / interval
  let i1 := clampPpm (s.ang.servoI - u / (2 ^ s.fget Reg.AN_TB_CFG_KI : Nat))
  let y := clampPpm (i1 - u / (2 ^ s.fget Reg.AN_TB_CFG_KP : Nat))
  let s1 := { s with ang := { s.ang with servoI := i1 } }
  s1.fset Reg.AN_TB_INC_INC (incFor y)

/-- A one-shot time entry (R81). -/
def Entry.oneShot (e : Entry) : Bool := decide (e.ttype = 2) && decide (e.period = 0)

/-- Whether an entry awaits a point: a one-shot entry does so until its point is pending or released. -/
def Entry.awaits (e : Entry) : Bool :=
  !e.oneShot || (!e.pend && decide (e.state ≠ stRunning ∧ e.state ≠ stCommit ∧ e.state ≠ stHeld))

/-- The entry of context `c` counts `n` points missed and awaits `e`; a one-shot returns to IDLE with EN = 0 (R578). -/
def State.missPoints (s : State) (c n : Nat) (e : Entry) : State :=
  (s.setEntry c (if e.oneShot then (e.setState stIdle).setEn false else e)).missed c n

/-- What a step of the time base by `d` ns does to the enabled time entry of context `c` (R82): of the points it passes, the last is
released in the step cycle, the others and an older pending one are missed. -/
def State.stepEntry (s : State) (c : Nat) (d : Int) : State :=
  let e := s.entry c
  let next := if e.pend then e.advance else e
  if e.classG || !e.en || decide (e.ttype ≠ 2) then s
  else if e.tstep then s.setEntry c (e.setNextNs ((e.nextNs : Int) + d).toNat)
  else if d > 0 ∧ next.nextNs ≤ s.nowNs ∧ e.awaits then
    let k := if e.period = 0 then 0 else (s.nowNs - next.nextNs) / e.period
    let last := next.setNextNs (next.nextNs + k * e.period)
    if s.gatedOff e then s.missPoints c (k + 1) last.advance
    else (s.setEntry c { last with pend := true, due := s.cyc }).missed c (k + b2n e.pend)
  else s

def State.stepEntries (d : Int) : Tab Entry → State → State
  | [], s => s
  | (c, _) :: t, s => State.stepEntries d t (s.stepEntry c d)

/-! ## References: data -/

/-- A reference that has never been enabled. -/
def RefSt.off : RefSt :=
  { acc := 0, loopF := 0, freq := 0, cfg := 0, phoff := 0, hist := [], lastAcc := none, errSince := none, accSince := none, accF := 0,
    alignNow := none, lockNow := false, relockNow := false, ignoreUntil := 0, hmsSub := 0, hmsOn := false, started := false }

def State.ref (s : State) (n : Nat) : RefSt := Tab.get RefSt.off s.ang.refs n

def State.setRef (s : State) (n : Nat) (r : RefSt) : State :=
  { s with ang := { s.ang with refs := Tab.set RefSt.off s.ang.refs n r } }

/-- Nominal frequency of an AN_REFn_CFG.FNOM code (R50). -/
def fnomOf (code : Nat) : Rat := if code = 0 then 50 else if code = 1 then 60 else if code = 2 then 167 / 10 else 25

/-- The fields of AN_REFn_CFG in effect. -/
def cfgEn (w : Word) : Bool := bitAt w 0
def cfgNom (w : Word) : Bool := bitAt w 1
def cfgFnom (w : Word) : Rat := fnomOf (bits w 2 2)
def cfgFreesel (w : Word) : Bool := bitAt w 4

/-- The state of reference `n` (R54): 0 OFF, 1 ACQUIRE, 2 LOCKED, 3 HOLDOVER, 4 FREERUN, 5 RELOCK. -/
def State.refState (s : State) (n : Nat) : Nat := s.fget (Reg.AN_REF_STAT_STATE n)

def State.aligned (s : State) (n : Nat) : Bool := s.fbit (Reg.AN_REF_STAT_ALIGNED n)

/-- A turn of the reference, 1/FNOM, in ns, rounded down (R54). -/
def turnNs (w : Word) (k : Nat) : Nat := ((k : Rat) * nsPerSec / cfgFnom w).floor.toNat

/-- A number of turns wrapped to (−1/2, 1/2] (R52). -/
def wrapTurn (x : Rat) : Rat := x - (x - 1 / 2).ceil

/-- The part of a turn. -/
def fracTurn (x : Rat) : Rat := x - x.floor

/-- A 72-bit angle as turns modulo 4,096. -/
def accTurns (a : BitVec 72) : Rat := mkRat a.toNat (2 ^ 60)

/-- Turns as a 72-bit angle. -/
def turnsAcc (x : Rat) : BitVec 72 := BitVec.ofInt 72 (x * (2 ^ 60 : Nat)).floor

/-- A frequency in units of 2^−24 Hz. -/
def hz24 (w : Nat) : Rat := mkRat w (2 ^ 24)

/-- The frequency limits of R56. -/
def clampHz (f : Rat) : Rat := if f < 10 then 10 else if f > 80 then 80 else f

/-- TAI in seconds. -/
def State.taiSec (s : State) : Rat := mkRat s.tb (2 ^ 32 * nsPerSec)

/-- When the time base steps by `d` ns: MEAS references ignore phasors for two nominal turns (R59), the time since their last accepted
phasor kept (model's choice), NOM references go to RELOCK at the next epoch boundary (R51). -/
def State.stepRef (d : Int) (s : State) (n : Nat) : State :=
  let r := s.ref n
  if !cfgEn r.cfg then s
  else if cfgNom r.cfg then s.setRef n { r with relockNow := true }
  else s.setRef n { r with ignoreUntil := s.nowNs + turnNs r.cfg 2, lastAcc := r.lastAcc.map fun t => ((t : Int) + d).toNat,
                           errSince := none, accSince := none }

/-- The count of the time base moves to `tb`, a step (R41): AN_TB_STEP (the amount in whole ns, rounded down: model's choice), AN_EVT.TBSTEP, source 9, a TIME record, the time
entries (R82) and the references (R51, R59). -/
def State.stepTo (s : State) (tb : Nat) : State :=
  let d : Int := (((tb : Int) - (s.tb : Int) : Int) / (2 ^ 32 : Int))
  let s1 := { s with tb := tb, ang := { s.ang with steps := s.ang.steps + 1 } }
  let s2 := (s1.fset Reg.AN_TB_STEP_STEP (clampInt d 36)).flag Reg.AN_EVT_TBSTEP Reg.AN_EVT_TBSTEP_MORE
  let s3 := (s2.record tyTime 2 0 s2.tbState (BitVec.ofNat 36 (clampInt d 36))).raise 9
  let s4 := State.stepEntries d s3.entryList s3
  (List.range 8).foldl (State.stepRef d) s4

/-- The count less an offset of `o` ns. -/
def State.tbLess (s : State) (o : Rat) : Nat := ((s.tb : Rat) - o * (2 ^ 32 : Nat)).floor.toNat

/-- A source in use is lost, the transitions of R40. -/
def State.activeLost (s : State) : State :=
  let st := s.tbState
  let other := s.bestSrc
  if st = 2 then if other ≠ 0 then s.acquire other true else s.enterTb 3
  else if st = 1 then
    if other ≠ 0 then s.acquire other s.ang.acqFromLocked
    else if s.ang.acqFromLocked then s.enterTb 3 else s.enterTb 0
  else s

/-- Source `src` has delivered no accepted sample for LOSST seconds, or is no longer named (R35, R36). -/
def State.sourceLost (s : State) (src : Nat) : State :=
  let s1 := s.setUsable src false
  let s2 := if src = s1.priSrc then { s1 with ang := { s1.ang with priRun := 0 } } else s1
  if s2.fget Reg.AN_TB_STAT_ACT = src ∧ src ≠ 0 then s2.activeLost else s2

/-- An accepted sample of the source in use, while ACQUIRE or LOCKED (R40, R41, R576). -/
def State.activeSample (s : State) (o interval : Rat) : State :=
  if s.tbState = 1 then
    if !s.ang.acqFromLocked && !s.ang.stepped && s.fbit Reg.AN_TB_CFG_STEPEN &&
        decide (o.abs > (s.rget Reg.AN_TB_STEPLIM).toNat) then
      let s1 := { s with ang := { s.ang with stepped := true, goodRun := 0 } }
      s1.stepTo (s1.tbLess o)
    else
      let s1 := s.servo o interval
      let run := if o.abs ≤ s1.fget Reg.AN_TB_LIM_LOCKTH then s1.ang.goodRun + 1 else 0
      let s2 := { s1 with ang := { s1.ang with goodRun := run } }
      if run = 4 then s2.enterTb 2 else s2
  else s.servo o interval

/-- The first sample a source that gives seconds has accepted while SET is 0: the count is loaded as a step (R43). -/
def State.firstSample (s : State) (o : Rat) : State :=
  let s1 := s.acquire s.bestSrc false
  let s2 := { s1 with ang := { s1.ang with stepped := true } }
  ((s2.fset Reg.AN_TB_STAT_SET 1).stepTo (s2.tbLess o)).refreshQual

/-- One turn count that acts as 1 where it is 0. -/
def atLeast1 (n : Nat) : Nat := if n = 0 then 1 else n

/-- The core cycles of an interval of `ns` ns. -/
def intervalCycles (ns : Rat) : Rat := ns * 8 / 5

/-- Whether source `src` is named by PRI or SEC and its samples are judged (R35, R43). -/
def State.judged (s : State) (src : Nat) : Bool :=
  decide (src ≠ 0) && decide (src = s.priSrc ∨ src = s.secSrc) && (decide (src ≠ 4) || s.fbit Reg.AN_TB_STAT_SET)

/-- A rejected sample (R36); a rejected sample of PRI breaks its run of intervals. -/
def State.rejectSample (s : State) (src : Nat) : State :=
  let s1 := s.flag Reg.AN_EVT_REJ Reg.AN_EVT_REJ_MORE
  if src = s1.priSrc then { s1 with ang := { s1.ang with priRun := 0 } } else s1

/-- The run of consecutive intervals of PRI at an accepted sample (R35, R40): an interval is missed where more than one and a half
intervals have passed since the last accepted sample (model's choice). -/
def State.priRunAt (s : State) (src : Nat) (interval : Rat) : Nat :=
  let last := Tab.get 0 s.ang.lastOk src
  if ((s.cyc - last : Nat) : Rat) ≤ 3 / 2 * intervalCycles interval then s.ang.priRun + 1 else 1

/-- A time sample of source `src`, `o` ns ahead of its source, at interval `interval` ns; `ok` says that the checks of the
source itself passed (R35, R36, R40, R43). The 16th sample of PRI, which moves the time base from SEC to PRI, runs no servo (model's
choice). -/
def State.timeSample (s : State) (src : Nat) (o interval : Rat) (ok : Bool) : State :=
  if !s.judged src then s
  else
    let s0 := s.fset Reg.AN_TB_OFFS_OFFS (clampInt (rnd (o * 256)) 36)
    let accepted := ok && (decide (s0.tbState ≠ 2) || decide (o.abs ≤ s0.fget Reg.AN_TB_LIM_OFFLIM))
    if !accepted then s0.rejectSample src
    else
      let run := s0.priRunAt src interval
      let u := s0.setUsable src true
      let s1 := { u with ang := { u.ang with lastOk := Tab.set 0 u.ang.lastOk src u.cyc } }
      let act := s1.fget Reg.AN_TB_STAT_ACT
      if !s1.fbit Reg.AN_TB_STAT_SET then s1.firstSample o
      else if s1.tbState = 0 then
        let s2 := s1.acquire s1.bestSrc false
        if s2.fget Reg.AN_TB_STAT_ACT = src then s2.activeSample o interval else s2
      else if s1.tbState = 3 then
        let s2 := s1.acquire s1.bestSrc true
        if s2.fget Reg.AN_TB_STAT_ACT = src then s2.activeSample o interval else s2
      else if act = src then s1.activeSample o interval
      else if s1.tbState = 2 ∧ src = s1.priSrc then
        if run = 16 then s1.acquire src true else { s1 with ang := { s1.ang with priRun := run } }
      else s1

/-- The reference oscillator is lost (R33, R40, R44). -/
def State.oscillatorLost (s : State) : State :=
  let s1 := (s.fset Reg.AN_TB_STAT_REFLOSS 1).flag Reg.AN_EVT_CLKLOSS Reg.AN_EVT_CLKLOSS_MORE
  let s2 := s1.raise 10
  if s2.tbState = 1 ∨ s2.tbState = 2 then s2.enterTb 3 else s2.refreshQual

/-! ## Time-base commands -/

/-- The stamp of an input of the package: INDLY is taken out of the time, not of the quality (R38, R48). -/
def State.inputNs (s : State) : Nat := s.nowNs - s.fget Reg.AN_TB_INDLY_INDLY

/-- The offset of a second marker stamped at `ns` from the nearest second. -/
def secOffset (ns : Nat) : Int :=
  let r := ns % nsPerSec
  if r ≤ nsPerSec / 2 then (r : Int) else (r : Int) - nsPerSec

/-- The TAI second that the last IRIG-B frame gives a PPS edge: the frame's own, moved on by the seconds since its marker; outer none
where no frame came for the edge's second, inner none where the frame did not decode. How a frame names an edge is the model's choice. -/
def State.irigSecond (s : State) : Option (Option Nat) :=
  match s.ang.irig with
  | none => none
  | some (sec, at_) =>
    let k := (rnd (mkRat (s.cyc - at_ : Nat) (intervalCycles nsPerSec).floor.toNat)).toNat
    if 1 < k then none else some (sec.map (· + k))

/-- A PPS edge as a sample of the sources that use it (R35, R36). -/
def State.ppsSample (s : State) (ns : Nat) (src : Nat) : State :=
  if src = 4 then s.timeSample 4 (secOffset ns) nsPerSec true
  else if src = 2 then
    match s.irigSecond with
    | some (some sec) => s.timeSample 2 ((ns : Int) - (sec * nsPerSec : Nat) : Int) nsPerSec true
    | some none => s.rejectSample 2
    | none => s
  else s

/-- PPS_EDGE (R38): the selected edge is stamped, and sampled for PRI and SEC. -/
def runPpsEdge (rising : Bool) (s : State) : State :=
  if rising = s.fbit Reg.AN_TB_CFG_PPSEDGE then s
  else
    let ns := s.inputNs
    let st := time72 ns (s.fget Reg.AN_TB_STAT_QUAL)
    let s1 := (s.rset Reg.AN_PPS_HI st.1).rset Reg.AN_PPS_LO st.2
    let s2 := s1.ppsSample ns s1.priSrc
    if s1.secSrc = s1.priSrc then s2 else s2.ppsSample ns s1.secSrc

/-- Days from 1970 to the start of year `y`. -/
def daysToYear (y : Nat) : Nat := 365 * (y - 1970) + ((y - 1969) / 4 - (y - 1901) / 100 + (y - 1601) / 400)

/-- The year of a count of TAI seconds; a code without a year takes it from the TAI count, not from UTC (model's choice). -/
def yearOf (sec : Nat) : Nat :=
  let d := sec / 86400
  let y := 1970 + d / 366
  if daysToYear (y + 2) ≤ d then y + 2 else if daysToYear (y + 1) ≤ d then y + 1 else y

/-- The TAI second an IRIG-B frame names; the year from the time base where the code has none (R37). The IEEE 1344 time offset is
subtracted (model's choice). -/
def State.irigTai (s : State) (f : IrigFrame) : Nat :=
  let y := f.year.getD (yearOf (s.nowNs / nsPerSec))
  let utc : Int := (daysToYear y + (f.day - 1)) * 86400 + f.hour * 3600 + f.minute * 60 + f.second
  let ext : Int := match f.ext with
    | some x => if s.fbit Reg.AN_TB_CFG_IRIGX then x.offsetHalfHours * 1800 else 0
    | none => 0
  (utc - ext + sint (s.fget Reg.AN_UTC_OFFS) 18).toNat

/-- IRIG_B_FRAME (R36, R37): the marker is stamped, the code read, and sampled when a source is IRIG-B alone; a frame that does not decode
leaves a PPS edge of source 2 no second. To AN_UTC the frame supplies its leap-second warning (model's choice, R46). -/
def runIrigBFrame (f : IrigFrame) (s : State) : State :=
  let ns := s.inputNs
  let st := time72 ns (s.fget Reg.AN_TB_STAT_QUAL)
  let s1 := (s.rset Reg.AN_IRIG_HI st.1).rset Reg.AN_IRIG_LO st.2
  let noYear := f.year.isNone && !s1.fbit Reg.AN_TB_STAT_SET
  if noYear then { s1 with ang := { s1.ang with irig := none } }
  else if !f.good then
    let s2 := { s1 with ang := { s1.ang with irig := some (none, s1.cyc) } }
    if s2.judged 3 then s2.rejectSample 3 else s2
  else
    let sec := s1.irigTai f
    let s2 := { s1 with ang := { s1.ang with irig := some (some sec, s1.cyc) } }
    let s3 := s2.timeSample 3 ((ns : Int) - (sec * nsPerSec : Nat) : Int) nsPerSec true
    match f.ext with
    | some x =>
      if s3.fget Reg.AN_UTC_USRC = 2 then
        (s3.fset Reg.AN_UTC_LEAP61 (b2n (x.leapPending && !x.leapDelete))).fset Reg.AN_UTC_LEAP59
          (b2n (x.leapPending && x.leapDelete))
      else s3
    | none => s3

/-- TIME_SOURCE_LOST (R36): no accepted sample for LOSST seconds, 0 acting as 1. -/
def runTimeSourceLost (src : Fin 8) (s : State) : State :=
  if s.usable src.val && decide ((atLeast1 (s.fget Reg.AN_TB_CFG_LOSST) : Rat) * intervalCycles nsPerSec ≤
      (s.cyc - Tab.get 0 s.ang.lastOk src.val : Nat)) then s.sourceLost src.val else s

/-- HOLDOVER_EXPIRY (R40): HSEC has reached HOLDMAX. -/
def runHoldoverExpiry (s : State) : State :=
  if s.tbState = 3 ∧ s.fget Reg.AN_TB_HOLD_HOLDMAX ≤ s.fget Reg.AN_TB_STAT_HSEC then s.enterTb 0 else s

/-- HOLDSPEC_EXPIRY (R48): the quality of a HOLDOVER beyond HOLDSPEC becomes 2. -/
def runHoldspecExpiry (s : State) : State :=
  if s.tbState = 3 ∧ s.fget Reg.AN_TB_HOLD_HOLDSPEC ≤ s.fget Reg.AN_TB_STAT_HSEC then s.refreshQual else s

/-- AN_TB_CFG_STORE (R35): new names take effect in the store's cycle; a source in use that is named no longer is lost. -/
def runAnTbCfgStore (req : Requester) (va : Word) (v : Word) (s : State) : State :=
  let pri := s.priSrc
  let sec := s.secSrc
  let s1 := s.regStore req va Reg.AN_TB_CFG v
  let fresh (t : State) (n : Nat) : State := if n = pri ∨ n = sec then t else t.setUsable n false
  let s0 := fresh (fresh s1 s1.priSrc) s1.secSrc
  let s2 := if s0.priSrc = pri then s0 else { s0 with ang := { s0.ang with priRun := 0 } }
  let act := s2.fget Reg.AN_TB_STAT_ACT
  if act ≠ 0 ∧ act ≠ s2.priSrc ∧ act ≠ s2.secSrc then s2.sourceLost act else s2.refreshUtc

/-- AN_SET_LO_STORE (R42): in FREERUN the time base is loaded as a step and SET becomes 1, else AN_EVT.SETREF. -/
def runAnSetLoStore (req : Requester) (va : Word) (v : Word) (s : State) : State :=
  let s1 := s.regStore req va Reg.AN_SET_LO v
  if s1.tbState = 0 ∧ bits v 2 30 < nsPerSec then
    ((s1.fset Reg.AN_TB_STAT_SET 1).stepTo (time72Ns (s1.rget Reg.AN_SET_HI) v * 2 ^ 32)).refreshQual
  else s1.flag Reg.AN_EVT_SETREF Reg.AN_EVT_SETREF_MORE

/-- AN_SNAP_STORE (R64): the time and all eight angles in one cycle. -/
def runAnSnapStore (s : State) : State :=
  let s1 := (s.rset Reg.AN_SNAP_HI s.stamp.1).rset Reg.AN_SNAP_LO s.stamp.2
  (List.range 8).foldl (fun t n => t.rset (Reg.AN_SNAP_A n) ((t.ref n).acc.extractLsb' 36 36)) s1

/-- TIME_HI_READ (R64): the high word is returned and the matching low word latched. -/
def runTimeHiRead (page : Option (Fin 16)) (s : State) : State :=
  let s1 := match page with
    | none => s.rset Reg.AN_TIME_LO s.stamp.2
    | some p => s.rset (Reg.AN_VP_LO p.val) s.stamp.2
  { s1 with rdata := s.stamp.1 }

/-- PPS_OUT_PULSE (R39): at a TAI second the signal rises, for 1 µs, 1,600 core cycles. -/
def runPpsOutPulse (s : State) : State :=
  if s.fbit Reg.AN_TB_CFG_PPSOUT && s.fbit Reg.AN_TB_STAT_SET then
    { s with ang := { s.ang with ppsOutEnd := s.cyc + 1600 } }
  else s

/-- LEAP_SECOND (R46): at the end of the UTC day a set flag changes OFFS and clears. -/
def runLeapSecond (s : State) : State :=
  let up := s.fbit Reg.AN_UTC_LEAP61
  let down := s.fbit Reg.AN_UTC_LEAP59
  if up || down then
    let o := sint (s.fget Reg.AN_UTC_OFFS) 18 + (if up then 1 else 0) - (if down then 1 else 0)
    let s1 := ((s.fset Reg.AN_UTC_OFFS (clampInt o 18)).fset Reg.AN_UTC_LEAP61 0).fset Reg.AN_UTC_LEAP59 0
    (s1.flag Reg.AN_EVT_LEAP Reg.AN_EVT_LEAP_MORE).raise 11
  else s

/-! ## References -/

/-- A new state of reference `n`: AN_EVT.REFCHG, source n, HMS from 0 on entry to HOLDOVER and on into FREERUN, the count of entries
into RELOCK, and the runs of R54 begun afresh, but for the accepted phasors of HOLDOVER that count on in FREERUN (R54, R66). -/
def State.enterRef (s : State) (n st : Nat) : State :=
  let s1 := s.fset (Reg.AN_REF_STAT_STATE n) st
  let s2 := if st = 3 then s1.fset (Reg.AN_REF_STAT_HMS n) 0 else s1
  let s3 := if st = 5 then s2.fadd (Reg.AN_REF_CNT_RELK n) 1 else s2
  let r := s3.ref n
  let r1 := { r with errSince := none, lockNow := false, relockNow := false,
                     accSince := if st = 4 then r.accSince else none
                     hmsSub := if st = 3 then 0 else r.hmsSub
                     hmsOn := decide (st = 3) || (decide (st = 4) && r.hmsOn) }
  ((s3.setRef n r1).flag Reg.AN_EVT_REFCHG Reg.AN_EVT_REFCHG_MORE n).raise n

/-- Whether the time base has passed the last accepted phasor by one turn (R54); after a step the turn is reckoned from the end of the time
in which phasors are ignored, which leaves the state as it is (R59). -/
def State.phasorTimeout (s : State) (n : Nat) : Bool :=
  let r := s.ref n
  match r.lastAcc with
  | some t => decide (Nat.max t r.ignoreUntil + turnNs r.cfg 1 ≤ s.nowNs)
  | none => false

/-- RELOCK at the frequency of the last accepted phasor (R57, R577). -/
def State.relock (s : State) (n : Nat) : State :=
  let s1 := s.enterRef n 5
  s1.setRef n { s1.ref n with loopF := (s.ref n).accF, freq := (s.ref n).accF }

/-- A MEAS reference's conditions at an epoch boundary in the order of R61. The alignment gives the reference θ − PHOFF at the phasor's
stamp, moved on at f_inst to the boundary (model's choice). -/
def State.measBoundary (s : State) (n : Nat) : State :=
  let r := s.ref n
  let st := s.refState n
  match r.alignNow with
  | some (a, t, f) =>
    let ahead := f * mkRat ((s.nowNs : Int) - t) nsPerSec
    (s.setRef n { r with acc := turnsAcc (fracTurn a + ahead), loopF := f, freq := f, accF := f, alignNow := none }).fset
      (Reg.AN_REF_STAT_ALIGNED n) 1
  | none =>
    if (st = 2 ∨ st = 5) ∧ s.phasorTimeout n then s.enterRef n 3
    else if st = 3 ∧ s.fget (Reg.AN_REF_HOLD_HOLDMS n) ≤ s.fget (Reg.AN_REF_STAT_HMS n) then s.enterRef n 4
    else if (st = 3 ∨ st = 4) ∧ r.relockNow then s.relock n
    else if (st = 1 ∨ st = 5) ∧ s.aligned n ∧ r.lockNow then s.enterRef n 2
    else s

/-- The fractional part of f × t less the phase of a NOM reference, wrapped (R51). -/
def State.nomError (s : State) (n : Nat) : Rat :=
  let r := s.ref n
  wrapTurn (cfgFnom r.cfg * s.taiSec - accTurns r.acc)

/-- An epoch in seconds (R60). -/
def epochSec : Rat := 1024 * (5 / 8) / nsPerSec

/-- A NOM reference's state follows the time base, RELOCK until its phase is that of f × t again: until the error is no more than SLEW
removes in an epoch (R51; the bound is the model's choice). -/
def State.nomBoundary (s : State) (n : Nat) : State :=
  let r := s.ref n
  let st := s.refState n
  let follow := if s.tbState = 0 then 4 else if s.tbState = 1 then 1 else if s.tbState = 2 then 2 else 3
  if r.relockNow then s.enterRef n 5
  else if st = 5 ∧ (s.nomError n).abs > hz24 (s.rget (Reg.AN_REF_SLEW n)).toNat * epochSec then s
  else if st = follow then s
  else s.enterRef n follow

/-- A reference starts: EN has become 1, or SRC or FNOM has changed (R51, R54, R55, R62). -/
def State.startRef (s : State) (n : Nat) (w : Word) : State :=
  let r0 := { RefSt.off with cfg := w, phoff := s.fget (Reg.AN_REF_PHOFF_PHOFF n), acc := (s.ref n).acc, ignoreUntil := (s.ref n).ignoreUntil }
  if cfgNom w then
    let x := cfgFnom w * s.taiSec
    let s1 := (s.setRef n { r0 with acc := turnsAcc x, loopF := cfgFnom w, freq := cfgFnom w, started := true }).fset
      (Reg.AN_REF_STAT_ALIGNED n) 1
    s1.enterRef n (if s1.tbState = 0 then 4 else if s1.tbState = 1 then 1 else if s1.tbState = 2 then 2 else 3)
  else
    let s1 := (s.setRef n { r0 with loopF := cfgFnom w, freq := cfgFnom w, started := true }).fset
      (Reg.AN_REF_STAT_ALIGNED n) 0
    s1.enterRef n 1

/-- The stored configuration of reference `n` applies after the state change of the epoch (R60 to R62): phasors of another channel begin
anew, and a LOCKED MEAS reference goes to RELOCK where CHAN, CH, PSEQ or PHOFF has changed. -/
def State.applyRefCfg (s : State) (n : Nat) : State :=
  let r := s.ref n
  let w := s.rget (Reg.AN_REF_CFG n)
  let ph := s.fget (Reg.AN_REF_PHOFF_PHOFF n)
  if w = r.cfg ∧ ph = r.phoff then s
  else if !cfgEn w then
    if cfgEn r.cfg then
      ((s.setRef n { RefSt.off with cfg := w, phoff := ph, acc := r.acc }).fset (Reg.AN_REF_STAT_ALIGNED n) 0).enterRef n 0
    else s.setRef n { r with cfg := w, phoff := ph }
  else if !cfgEn r.cfg || decide (bits w 1 3 ≠ bits r.cfg 1 3) then s.startRef n w
  else
    let moved := decide (bits w 5 16 ≠ bits r.cfg 5 16)
    let s1 := s.setRef n { r with cfg := w, phoff := ph, hist := if moved then [] else r.hist,
                                  errSince := if moved then none else r.errSince,
                                  accSince := if moved then none else r.accSince }
    if (moved ∨ ph ≠ r.phoff) ∧ !cfgNom w ∧ s1.refState n = 2 then s1.relock n else s1

/-- The frequency reference `n` applies in the coming epoch, none while its angle is held (R56 to R58, R577). -/
def State.appliedHz (s : State) (n : Nat) : Option Rat :=
  let r := s.ref n
  let st := s.refState n
  if st = 0 ∨ ¬ s.aligned n then none
  else if cfgNom r.cfg then
    let lim := hz24 (s.rget (Reg.AN_REF_SLEW n)).toNat
    let c := s.nomError n / epochSec
    some (clampHz (cfgFnom r.cfg + (if c > lim then lim else if c < -lim then -lim else c)))
  else if st = 3 then some (clampHz r.loopF)
  else if st = 4 then some (clampHz (if cfgFreesel r.cfg then cfgFnom r.cfg else r.loopF))
  else some (clampHz r.freq)

/-- AN_REFn_INC and AN_REFn_FREQ for the coming epoch (R577); while the angle is held FREQ keeps what it showed (model's choice). -/
def State.setRefInc (s : State) (n : Nat) : State :=
  match s.appliedHz n with
  | none => s.fset (Reg.AN_REF_INC_INC n) 0
  | some f =>
    (s.fset (Reg.AN_REF_INC_INC n)
        (rnd (f * s.fget Reg.AN_TB_INC_INC * (2 ^ 28 : Nat) / nsPerSec)).toNat).fset
      (Reg.AN_REF_FREQ_FREQ n) (rnd (f * (2 ^ 24 : Nat))).toNat

/-- Reference `n` at an epoch boundary: EN set to 0 comes before every other condition (R60, R61). -/
def State.refBoundary (s : State) (n : Nat) : State :=
  let r := s.ref n
  let off := cfgEn r.cfg && !cfgEn (s.rget (Reg.AN_REF_CFG n))
  let s1 := if off || !cfgEn r.cfg then s else if cfgNom r.cfg then s.nomBoundary n else s.measBoundary n
  (s1.applyRefCfg n).setRefInc n

/-- What the unit gives to the process-data engine at the boundary (R60). -/
def State.epochNow (s : State) : Epoch :=
  { tb := s.tb, tbInc := s.fget Reg.AN_TB_INC_INC, angles := (List.range 8).map (fun n => (s.ref n).acc),
    incs := (List.range 8).map (fun n => s.fget (Reg.AN_REF_INC_INC n)) }

/-- The boundary as it stands, in place of an earlier record of the same boundary. -/
def State.pushEpoch (s : State) : State :=
  let e := s.epochNow
  { s with ang := { s.ang with epochs := (e :: s.ang.epochs.filter fun x => decide (x.tb ≠ e.tb)).take 4096 } }

/-- Whether this cycle is an epoch boundary: every 1,024 core cycles (R60). -/
def State.epochCycle (s : State) : Bool := decide (s.cyc % 1024 = 0)

/-- EPOCH_BOUNDARY (R60): each reference changes state, increment and configuration; the boundary is handed on. -/
def runEpochBoundary (s : State) : State :=
  if s.epochCycle then ((List.range 8).foldl State.refBoundary s).pushEpoch else s

/-- A change of state of reference `n` at an epoch boundary, with its increment and the boundary handed on (R60). -/
def State.changeAtBoundary (s : State) (n st : Nat) : State := ((s.enterRef n st).setRefInc n).pushEpoch

/-- REFERENCE_PHASOR_TIMEOUT (R54, R60): no accepted phasor for one turn, in LOCKED or RELOCK, at an epoch boundary. -/
def runReferencePhasorTimeout (n : Fin 8) (s : State) : State :=
  if (s.refState n.val = 2 ∨ s.refState n.val = 5) ∧ !cfgNom (s.ref n.val).cfg ∧ s.phasorTimeout n.val ∧ s.epochCycle then
    s.changeAtBoundary n.val 3
  else s

/-- REFERENCE_HOLD_EXPIRY (R54, R60): HMS has reached HOLDMS, at an epoch boundary. -/
def runReferenceHoldExpiry (n : Fin 8) (s : State) : State :=
  if s.refState n.val = 3 ∧ !cfgNom (s.ref n.val).cfg ∧
      s.fget (Reg.AN_REF_HOLD_HOLDMS n.val) ≤ s.fget (Reg.AN_REF_STAT_HMS n.val) ∧ s.epochCycle then
    s.changeAtBoundary n.val 4
  else s

/-! ## Phasors -/

/-- The newest epoch that begins at or before `ns`, else the oldest. -/
def epochAt (ns : Nat) : List Epoch → Option Epoch
  | [] => none
  | [e] => some e
  | e :: es => if e.tb / 2 ^ 32 ≤ ns then some e else epochAt ns es

/-- Reference `n`'s angle in turns at TAI `ns`, exact between epoch boundaries (R52, R60). -/
def State.phaseAt (s : State) (n ns : Nat) : Rat :=
  match epochAt ns s.ang.epochs with
  | none => accTurns (s.ref n).acc
  | some e =>
    let cycles := ((ns : Rat) * (2 ^ 32 : Nat) - e.tb) / e.tbInc
    accTurns (e.angles.getD n 0) + cycles * (e.incs.getD n 0 : Nat) / (2 ^ 60 : Nat)

/-- The first check of R53 that a phasor fails: 1 invalid, 2 magnitude, 3 range, 4 rocof, 5 phase jump. -/
def State.phasorCheck (s : State) (n mag : Nat) (valid : Bool) (fInst rocof : Option Rat) (e : Rat) : Nat :=
  let fmin := clampHz (hz24 (s.rget (Reg.AN_REF_FMIN n)).toNat)
  let fmax := clampHz (hz24 (s.rget (Reg.AN_REF_FMAX n)).toNat)
  if !valid then 1
  else if mag < s.fget (Reg.AN_REF_LOCK_VMIN n) then 2
  else match fInst with
    | none => 3
    | some f =>
      if f < fmin ∨ fmax < f then 3
      else match rocof with
        | none => 4
        | some r =>
          if hz24 (s.rget (Reg.AN_REF_ROCOF n)).toNat < r.abs then 4
          else if s.refState n = 2 ∧ mkRat (s.fget (Reg.AN_REF_HOLD_PJMP n)) (2 ^ 24) < e.abs then 5
          else 0

/-- The loop at an accepted phasor (R577). -/
def State.loopUpdate (s : State) (n : Nat) (r : RefSt) (e dt : Rat) : RefSt :=
  let fnom := cfgFnom r.cfg
  let f1 := r.loopF + e * dt * fnom * fnom / (2 ^ s.fget (Reg.AN_REF_LOOP_KI n) : Nat)
  let st := s.refState n
  if st = 2 ∨ st = 1 then { r with loopF := f1, freq := f1 + e * fnom / (2 ^ s.fget (Reg.AN_REF_LOOP_KP n) : Nat) }
  else if st = 5 then
    let lim := hz24 (s.rget (Reg.AN_REF_SLEW n)).toNat
    let c := e * fnom
    { r with loopF := f1, freq := f1 + (if c > lim then lim else if c < -lim then -lim else c) }
  else r

/-- An accepted phasor of reference `n` (R53, R54, R577). -/
def State.phasorAccepted (s : State) (n stamp : Nat) (theta fInst e : Rat) : State :=
  let r := s.ref n
  let st := s.refState n
  if st = 1 ∧ ¬ s.aligned n then
    s.setRef n { r with alignNow := some (theta - mkRat r.phoff (2 ^ 24), stamp, fInst), lastAcc := some stamp }
  else
    let dt := mkRat ((stamp : Int) - (r.lastAcc.getD stamp)) nsPerSec
    let good := decide (e.abs ≤ mkRat (s.fget (Reg.AN_REF_LOCK_LOCKTH n)) (2 ^ 24))
    let since := if good then some (r.errSince.getD stamp) else none
    let acc := r.accSince.getD stamp
    let r1 := s.loopUpdate n r e dt
    let r2 := { r1 with
      lastAcc := some stamp
      errSince := since
      accSince := some acc
      accF := fInst
      lockNow := decide (st = 1 ∨ st = 5) &&
        (match since with
         | some t => decide (t + turnNs r.cfg (atLeast1 (s.fget (Reg.AN_REF_LOCK_LOCKN n))) ≤ stamp)
         | none => false)
      relockNow := decide (st = 3 ∨ st = 4) && decide (acc + turnNs r.cfg (atLeast1 (s.fget (Reg.AN_REF_LOCK_RELOCKN n))) ≤ stamp) }
    s.setRef n r2

/-- A phasor of reference `n`'s channel (R52, R53): its stamp in ns, magnitude in 1/512 of nominal, angle in turns, whether
it is valid, the raw sample rate, and how many samples before it were not delivered. One that is ignored after a step (R59) still counts
as delivered. PERR shows e of every valid phasor (model's choice). -/
def State.phasor (s : State) (n stamp mag : Nat) (theta : Rat) (valid : Bool) (rate missing : Nat) : State :=
  let r := s.ref n
  if !cfgEn r.cfg || cfgNom r.cfg then s
  else
    let lost := List.replicate missing { stamp := 0, valid := false, theta := 0, fInst := none : PhasorRec }
    let hist := lost ++ r.hist
    let k := (rnd ((rate : Rat) / cfgFnom r.cfg)).toNat
    let old := if k = 0 then none else hist[k - 1]?
    let fInst := match old with
      | some o =>
        if o.valid && valid && decide (o.stamp < stamp) then
          let dt := mkRat ((stamp : Int) - o.stamp) nsPerSec
          let f := cfgFnom r.cfg
          some (f + wrapTurn (theta - o.theta - f * dt) / dt)
        else none
      | none => none
    let rocof := match old, fInst with
      | some o, some f =>
        match o.fInst with
        | some f0 => some ((f - f0) / mkRat ((stamp : Int) - o.stamp) nsPerSec)
        | none => none
      | _, _ => none
    let e := wrapTurn (theta - s.phaseAt n stamp - mkRat r.phoff (2 ^ 24))
    let rec1 : PhasorRec := { stamp := stamp, valid := valid, theta := theta, fInst := fInst }
    let broken := decide (0 < missing)
    let r1 := { r with hist := (rec1 :: hist).take 16384,
                       errSince := if broken then none else r.errSince,
                       accSince := if broken then none else r.accSince }
    let s0 := s.setRef n r1
    let s1 := if valid && s0.aligned n then s0.fset (Reg.AN_REF_PERR_PERR n) (clampInt (rnd (e * (2 ^ 24 : Nat))) 36) else s0
    let fail := s1.phasorCheck n mag valid fInst rocof e
    if stamp < r.ignoreUntil then s0
    else if fail = 0 then s1.phasorAccepted n stamp theta (fInst.getD 0) e
    else
      let s2 := s1.setRef n { r1 with errSince := none, accSince := none }
      (s2.fadd (Reg.AN_REF_CNT_REJ n) 1).fset (Reg.AN_REF_STAT_LASTREJ n) fail

/-! ## Reference stores -/

/-- Whether an enabled angle entry is bound to physical reference `n` (R62). -/
def State.refBound (s : State) (n : Nat) : Bool :=
  s.entryList.any fun (c, e) =>
    !e.classG && e.en && decide (e.ttype = 1) &&
      (match s.partOf c with
       | some p => decide (s.viewRef p e.ref = some n)
       | none => false)

/-- A change of AN_REFn_CFG that R62 forbids while an enabled entry is bound. -/
def refCfgBreaks (old new : Word) : Bool :=
  (cfgEn old && !cfgEn new) || decide (bits old 1 3 ≠ bits new 1 3)

/-- A store refused with a REFUSAL record and an asynchronous store error (R62, R112, R572): `off` is the word's offset in its
block. -/
def State.refuseStore (s : State) (req : Requester) (va : Word) (blk off sub : Nat) : State :=
  (s.refusal stsConflict req.part.val req.ctx.val blk 0 off).storeError req va sub

/-- AN_REF_CFG_STORE (R62). -/
def runAnRefCfgStore (req : Requester) (va : Word) (n : Fin 8) (v : Word) (s : State) : State :=
  let a := Reg.AN_REF_CFG n.val
  if s.refBound n.val && refCfgBreaks (s.rget a) (s.storedWord req.level a v 0) then
    s.refuseStore req va blkAN (a - Reg.AN_TB_CFG) 6
  else s.regStore req va a v

end Sys2Proof.Machine
end

