-- ==== Sys2Proof/Machine/Sched.lean ====
section
/-! DEFINITION. Contexts, the Firn and the angle scheduler (spec/03_contexts_scheduler.md): eligible slots, stage decisions,
port transfers, releases, budgets, and the commands of SC_CMD. What a release of the commit buffer does to its targets
stands in Release.lean. -/

namespace Sys2Proof.Machine

/-! ## Slots of a partition -/

/-- The pair of a slot, and its cluster port (R16, R17). -/
def pairOf (slot : Nat) : Nat := slot / 16
def portOf (slot : Nat) : Nat := slot / 32

/-- Pair states (R298). -/
def lsOff : Nat := 0
def lsTest : Nat := 1
def lsLockstep : Nat := 2
def lsSplit : Nat := 3
def lsHold : Nat := 4
def lsHalf : Nat := 5
def lsFenced : Nat := 6

def State.pairState (s : State) (k : Nat) : Nat := s.fget (Reg.LS_STAT_STATE k)
def State.pairOwner (s : State) (k : Nat) : Nat := s.fget (Reg.LS_STAT_OWNER k)

/-- The partition that a pair's records name: partition 0 for a pair of the pool (model's choice). -/
def State.pairPart (s : State) (k : Nat) : Nat := if s.pairOwner k < 16 then s.pairOwner k else 0

/-- The core on which a HALF pair runs (R301): the one that is powered; while DIAG tests the pair, the one that was (R548). -/
def State.survivor (s : State) (k : Nat) : Nat :=
  match Tab.get 0 s.tap.selfTest k with
  | 2 => 2 * k
  | 3 => 2 * k + 1
  | _ => if s.domState (2 * k) = 1 then 2 * k else 2 * k + 1

/-- The cores of pair `k` that give slots: the main core in lockstep, both when split, the survivor of a HALF pair (R18, R301). -/
def State.pairCores (s : State) (k : Nat) : List Nat :=
  let st := s.pairState k
  if st = lsLockstep then [2 * k]
  else if st = lsSplit then [2 * k, 2 * k + 1]
  else if st = lsHalf then [s.survivor k]
  else []

/-- The slots of a core. -/
def coreSlots (c : Nat) : List Nat := (List.range 8).map (fun i => 8 * c + i)

/-- The slots on which partition `p` can run class-G contexts (R19). -/
def State.slotsG (s : State) (p : Nat) : List Nat :=
  (List.range 24).flatMap fun k => if s.pairOwner k = p then (s.pairCores k).flatMap coreSlots else []

/-- Whether a pair that takes up work has a pin yet to be walked (R264, R308). -/
def State.restoring (s : State) (k : Nat) : Bool := (Tab.get [] s.core.pins (2 * k)).any fun p => decide (p.walk = .restore)

/-- The slots of pair `k` that class-D contexts of partition `p` may take (R89, R264). -/
def State.slotsD (s : State) (p k : Nat) : List Nat :=
  if s.pairOwner k = p ∧ s.pairState k = lsLockstep ∧ ¬ s.restoring k then coreSlots (2 * k) else []

/-- The eligible slots of a class-D entry of partition `p` (R89). -/
def State.eligible (s : State) (p : Nat) (e : Entry) : List Nat :=
  if e.any then (List.range 24).flatMap (s.slotsD p) else s.slotsD p e.home

/-- Whether slot `i` is kept by a PIN = 1 entry other than context `c`'s (R95). -/
def State.keptFrom (s : State) (i c : Nat) : Bool :=
  match (s.slot i).kept with
  | some d => decide (d ≠ c) && (s.entry d).en && (s.entry d).pin && !(s.entry d).classG
  | none => false

/-- Whether a slot is free: no context in it and none on its way. -/
def Slot.free (x : Slot) : Bool := x.ctx.isNone && x.resv.isNone

/-- The level of the context in a slot (R121). -/
def State.level (s : State) (i : Nat) : Nat := bits (s.img i 2) 0 2

/-- The bit of DB_HSTAT0 and DB_HSTAT1 that shows a core halted. -/
def haltBit (core : Nat) : Field := if core < 36 then ⟨Reg.DB_HSTAT0, core, 1⟩ else ⟨Reg.DB_HSTAT1, core - 36, 1⟩

/-- Whether a core is halted for debug (R545). -/
def State.halted (s : State) (core : Nat) : Bool := s.fbit (haltBit core)

/-- The debug hold of a core ends; a STEP that waits for one of its slots is complete (R546, R548). -/
def State.unhalt (s : State) (core : Nat) : State :=
  let s1 := s.fset (haltBit core) 0
  match s1.tap.stepSlot with
  | some i => if i / 8 = core then { s1.fset Reg.DB_RES_DONE 1 with tap := { s1.tap with stepSlot := none } } else s1
  | none => s1

/-- Whether a slot is free for a context: none in it or on its way, and its core not halted (R547). -/
def State.freeSlot (s : State) (i : Nat) : Bool := (s.slot i).free && !s.halted (i / 8)

/-- Whether slot `i` is free for context `c`. -/
def State.freeFor (s : State) (c i : Nat) : Bool := s.freeSlot i && !s.keptFrom i c

/-- Whether a class-G context runs in slot `i` and can be displaced (R22, R90, R210, R547). -/
def State.displaceable (s : State) (i : Nat) : Bool :=
  let x := s.slot i
  match x.ctx with
  | none => false
  | some c =>
    let e := s.entry c
    !s.halted (i / 8) && e.classG && decide (e.state = stRunning) && x.gate && !x.stopped && !x.parkReq && x.resv.isNone &&
      decide (s.level i < 2)

/-- The cycles from `d` to a slot's first issue after it, 1 to 8 (R93). -/
def issueDelay (slot d : Nat) : Nat := (slot + 8 - (d + 1) % 8) % 8 + 1

/-- The slot of a list whose first issue after `d` comes earliest, the lower number on a tie (R90). -/
def bestSlot (d : Nat) : List Nat → Option Nat
  | [] => none
  | x :: xs =>
    match bestSlot d xs with
    | none => some x
    | some y => if issueDelay x d < issueDelay y d ∨ (issueDelay x d = issueDelay y d ∧ x < y) then some x else some y

/-! ## Due points -/

/-- The physical reference of context `c`'s angle entry. -/
def State.entryRef (s : State) (c : Nat) (e : Entry) : Option Nat :=
  match s.partOf c with
  | some p => s.viewRef p e.ref
  | none => none

/-- The span of R78. -/
def angleSpan (n : Nat) : Nat := 2 ^ 72 * 4096 * n

/-- How far a reference angle is past an angle entry's point, modulo the span (R78). -/
def anglePast (a72 : Nat) (e : Entry) : Nat :=
  let lhs := a72 * 4096 * e.n
  let rhs := (4096 * (e.n * e.nturn + e.nidx) + e.off) * 2 ^ 60
  (lhs + angleSpan e.n - rhs % angleSpan e.n) % angleSpan e.n

/-- Whether the point has been reached (R78). -/
def angleReached (a72 : Nat) (e : Entry) : Bool := decide (2 * anglePast a72 e < angleSpan e.n)

/-- Whether the point lies no more than `x`/256 units ahead of the angle, without rounding (R78, R91). -/
def angleWithin (a72 x : Nat) (e : Entry) : Bool :=
  let span := 256 * angleSpan e.n
  let lhs := (256 * a72 + x) * 4096 * e.n
  let rhs := 256 * ((4096 * (e.n * e.nturn + e.nidx) + e.off) * 2 ^ 60)
  decide (2 * ((lhs + span - rhs % span) % span) < span)

/-- Whether the awaited point of context `c`'s entry has been reached (R78, R81). -/
def State.reached (s : State) (c : Nat) (e : Entry) : Bool :=
  if e.ttype = 1 then
    match s.entryRef c e with
    | some n => angleReached (s.ref n).acc.toNat e
    | none => false
  else if e.ttype = 2 then decide (e.nextNs ≤ s.nowNs)
  else false

/-- SC_CFG.LEAD; below 40 it acts as 40 (R113). -/
def State.lead (s : State) : Nat := Nat.max 40 (s.fget Reg.SC_CFG_LEAD)

/-- Whether the stage decision of the awaited point has come: the point is no more than LEAD × 257/256 cycles ahead (R91). -/
def State.decisionReached (s : State) (c : Nat) (e : Entry) : Bool :=
  if e.pend then true
  else if e.ttype = 1 then
    match s.entryRef c e with
    | some n => angleWithin (s.ref n).acc.toNat (s.fget (Reg.AN_REF_INC_INC n) * s.lead * 257) e
    | none => false
  else if e.ttype = 2 then
    decide (e.nextNs * 2 ^ 32 ≤ s.tb + s.fget Reg.AN_TB_INC_INC * s.lead * 257 / 256)
  else false

/-- The cycle in which the awaited point is predicted to fall due. -/
def State.predictDue (s : State) (c : Nat) (e : Entry) : Nat :=
  if e.pend then e.due
  else if e.ttype = 1 then
    match s.entryRef c e with
    | some n =>
      let a := (s.ref n).acc.toNat
      let dist := (angleSpan e.n - anglePast a e) % angleSpan e.n
      let inc := s.fget (Reg.AN_REF_INC_INC n) * 4096 * e.n
      if inc = 0 then s.cyc else s.cyc + (dist + inc - 1) / inc
    | none => s.cyc
  else if e.ttype = 2 then
    let inc := s.fget Reg.AN_TB_INC_INC
    if inc = 0 then s.cyc else s.cyc + (e.nextNs * 2 ^ 32 - s.tb + inc - 1) / inc
  else s.cyc

/-- The entry after a run or a missed one-shot point: IDLE with EN = 0 where it was a one-shot, else ARMED (R81, R86). -/
def Entry.rearm (e : Entry) : Entry :=
  let e1 := { e with agreed := false }
  if e.oneShot then ({ e1 with pend := false }.setState stIdle).setEn false else e1.setState stArmed

/-- The awaited point of context `c` passes (R78, R81, R88, R578). -/
def State.pointPassed (s : State) (c : Nat) : State :=
  let e := s.entry c
  if s.gatedOff e then s.missPoints c 1 e.advance
  else if e.pend then (s.setEntry c { e.advance with due := s.cyc }).missed c 1
  else s.setEntry c { e with pend := true, due := s.cyc }

/-- A due point of a class-D entry of trigger type `ttype`: the awaited point, or the one after a pending one. -/
def State.duePoint (s : State) (ttype c : Nat) : State :=
  let e := s.entry c
  if e.classG || !e.en || decide (e.ttype ≠ ttype) || !e.awaits then s
  else if s.reached c (if e.pend then e.advance else e) then s.pointPassed c
  else s

/-- SC_CFG.EN is cleared: an enabled entry that is not on its way to its run is or stays ARMED, and a point that it holds pending is counted
missed (R578). -/
def State.gateEntry (s : State) (c : Nat) : State :=
  let e := s.entry c
  let e1 := if e.state = stWaiting then e.setState stArmed else e
  if e.classG || !e.en || !s.gatedOff e then s
  else if e.pend then s.missPoints c 1 { e1.advance with pend := false }
  else s.setEntry c e1

/-- A store of SC_CFG (R113, R578). -/
def State.afterScCfg (s t : State) : State :=
  if s.fbit Reg.SC_CFG_EN && !t.fbit Reg.SC_CFG_EN then (t.entryList.map (·.1)).foldl State.gateEntry t else t

/-- ANGLE_DUE_POINT (R78). -/
def runAngleDuePoint (c : Fin 4096) (s : State) : State := s.duePoint 1 c.val

/-- TIME_DUE_POINT (R81). -/
def runTimeDuePoint (c : Fin 4096) (s : State) : State := s.duePoint 2 c.val

/-! ## Transfers -/

def Port.idle : Port := { queue := [], cur := none }

def State.port (s : State) (i : Nat) : Port := Tab.get Port.idle s.sch.ports i

def State.setPort (s : State) (i : Nat) (p : Port) : State :=
  { s with sch := { s.sch with ports := Tab.set Port.idle s.sch.ports i p } }

/-- A transfer is requested of its cluster port (R76). -/
def State.request (s : State) (t : Transfer) : State :=
  let p := s.port (portOf t.slot)
  s.setPort (portOf t.slot) { p with queue := p.queue ++ [t] }

/-- A stage-in of context `c` into a slot is requested; `asked` is the cycle of its stage decision. -/
def State.requestStage (s : State) (c slot due asked : Nat) : State :=
  s.request { ctx := c, slot := slot, stageIn := true, classD := !(s.entry c).classG, due := due, req := asked }

/-- Every transfer of a slot that has been requested or granted is dropped. -/
def State.dropTransfers (s : State) (slot : Nat) : State :=
  let p := s.port (portOf slot)
  s.setPort (portOf slot)
    { queue := p.queue.filter (fun t => t.slot ≠ slot),
      cur := match p.cur with
        | some t => if t.slot = slot then none else some t
        | none => none }

/-- The transfers of context `c` that have been requested or granted are dropped. -/
def State.dropContext (s : State) (c : Nat) : State :=
  (List.range 12).foldl (fun t i =>
    let p := t.port i
    t.setPort i
      { queue := p.queue.filter (fun x => x.ctx ≠ c),
        cur := match p.cur with
          | some x => if x.ctx = c then none else some x
          | none => none }) s

/-- A stage-in of a slot that waits for its port is dropped; one that is granted moves on and delivers nothing (R71, R86). -/
def State.cancelStage (s : State) (c slot : Nat) : State :=
  let p := s.port (portOf slot)
  s.setPort (portOf slot)
    { queue := p.queue.filter (fun x => !(x.stageIn && decide (x.slot = slot ∧ x.ctx = c))),
      cur := p.cur.map fun x => if x.stageIn && decide (x.slot = slot ∧ x.ctx = c) then { x with disabled := true } else x }

/-- The stores of a context that leaves its slot: it no longer takes their errors, and no load of the slot sees them (R228). -/
def leftStores (l : List StoreEntry) : List StoreEntry := l.map fun e => { e with req := { e.req with left := true } }

/-- The slot without a context: its fetch buffer, long operations and marks go, its undrained stores stay (R228). -/
def Slot.vacate (x : Slot) : Slot :=
  { Slot.empty with
    sb := leftStores x.sb, resv := x.resv, kept := x.kept, lastWorld := x.lastWorld,
    loLatch := x.loLatch, hiHold := x.hiHold, judged := x.judged, portAt := x.portAt, lastPc := x.lastPc, lastLvl := x.lastLvl }

/-- A slot whose context leaves it at a boundary (R71, R228). -/
def Slot.leave (x : Slot) (why : Leaving) : Slot :=
  { x with gate := false, stopped := true, leaving := why, parkReq := false, sb := leftStores x.sb }

/-- A context leaves slot `i` otherwise than at a boundary: a latched store error becomes an undelivered one (R227, R228). -/
def State.vacateSlot (s : State) (i : Nat) : State :=
  let x := s.slot i
  let s1 := s.setSlot i x.vacate
  match x.ase, x.ctx with
  | some a, some c => s1.undelivered c (s.img i iwAseaddr) a.sub
  | _, _ => s1

/-- Commit buffers. -/
def State.commitOf (s : State) (c : Nat) : List CommitEntry := Tab.get [] s.sch.commit c

def State.setCommit (s : State) (c : Nat) (l : List CommitEntry) : State :=
  { s with sch := { s.sch with commit := Tab.set [] s.sch.commit c l } }

/-- No slot is kept for context `c` any longer (R95). -/
def State.unkeep (s : State) (c : Nat) : State :=
  (s.core.slots.map (·.1)).foldl (fun t i =>
    if (t.slot i).kept = some c then t.setSlot i { t.slot i with kept := none } else t) s

/-- Context `c`'s entry takes a slot for staging; the cycle of the stage decision of one that was WAITING stands. -/
def State.reserve (s : State) (c slot : Nat) : State :=
  let e := s.entry c
  let s0 := s.unkeep c
  let at_ := if e.state = stWaiting then e.decided else s.cyc
  let s1 := s0.setEntry c ({ e with decided := at_ }.setState stStaging |>.setSlot slot)
  s1.setSlot slot { s1.slot slot with resv := some c }

/-- The stage-in of the context that a slot is reserved for is requested, once the slot has no other (R92, R222). -/
def State.stageReserved (s : State) (i : Nat) : State :=
  match (s.slot i).resv with
  | some d => s.requestStage d i (s.predictDue d (s.entry d)) (s.entry d).decided
  | none => s

/-- A class-D context takes a free slot, or one whose class-G context is displaced for it (R90, R92). -/
def State.takeSlot (s : State) (c i : Nat) : State :=
  let d := s.predictDue c (s.entry c)
  let s1 := s.reserve c i
  if (s.slot i).ctx.isSome then s1.setSlot i { s1.slot i with parkReq := true }
  else s1.requestStage c i d (s1.entry c).decided

/-- The eligible slots of context `c`'s entry: the one it keeps under R95 where it keeps one. -/
def State.eligibleFor (s : State) (p c : Nat) : List Nat :=
  let el := s.eligible p (s.entry c)
  let mine := el.filter fun i => decide ((s.slot i).kept = some c)
  if mine = [] then el else mine

/-- The stage decision of a class-D entry (R90, R92): a free eligible slot, else a displaceable one, else WAITING. -/
def State.stage (s : State) (c : Nat) : State :=
  let e := s.entry c
  match s.partOf c with
  | none => s
  | some p =>
    let d := s.predictDue c e
    let el := s.eligibleFor p c
    match bestSlot d (el.filter (s.freeFor c)) with
    | some i => s.takeSlot c i
    | none =>
      match bestSlot d (el.filter fun i => s.displaceable i) with
      | some i => s.takeSlot c i
      | none => s.setEntry c ({ e with decided := s.cyc }.setState stWaiting)

/-- STAGE_DECISION (R91, R578). -/
def runStageDecision (c : Fin 4096) (s : State) : State :=
  let e := s.entry c.val
  if !e.classG && e.en && decide (e.state = stArmed) && s.fbit Reg.SC_CFG_EN && s.decisionReached c.val e then
    s.stage c.val
  else s

/-- Of two waiting contexts, the one staged first: the earlier due cycle, then the lower number (R97). -/
def earlier (a b : Nat × Nat) : Nat × Nat := if b.1 < a.1 ∨ (b.1 = a.1 ∧ b.2 < a.2) then b else a

/-- The waiting class-D context that slot `i` serves next. -/
def State.nextWaiting (s : State) (i : Nat) : Option Nat :=
  let l := s.entryList.filterMap fun (c, e) =>
    match s.partOf c with
    | some p => if e.state = stWaiting ∧ !e.classG ∧ i ∈ s.eligibleFor p c ∧ ¬ s.keptFrom i c then some (s.predictDue c e, c) else none
    | none => none
  match l with
  | [] => none
  | x :: xs => some (xs.foldl earlier x).2

/-- The target of an interrupt line as a global context. -/
def State.lineTarget (s : State) (p l : Nat) : Nat :=
  16 * s.fget (Reg.SC_PRANGE_BASE p) + s.fget (Reg.CP_IRQ_TGT p l)

/-- No line waits to wake context `c` any longer (R231). -/
def State.unwake (s : State) (c : Nat) : State :=
  { s with sch := { s.sch with wakes := s.sch.wakes.filter fun n => decide (s.lineTarget (n / 64) (n % 64) ≠ c) } }

/-- A class-G context is staged onto a slot by RUN or WAKE (R107, R231). -/
def State.stageG (s : State) (c slot : Nat) : State :=
  let e := s.entry c
  let s1 := s.setEntry c { e with fresh := decide (e.state = stIdle) }
  ((s1.unwake c).reserve c slot).requestStage c slot s.cyc s.cyc

def State.linePending (s : State) (p l : Nat) : Bool := bitAt (s.rget (Reg.CP_IPEND p (l / 16))) (l % 16)

/-- Whether a line waits to wake its target: it became pending while the target was IDLE or PARKED (R231). -/
def State.wakes (s : State) (p l : Nat) : Bool :=
  let c := s.lineTarget p l
  let e := s.entry c
  s.sch.wakes.contains (64 * p + l) && s.linePending p l && s.fbit (Reg.CP_IRQ_WAKE p l) && s.inRange p c && e.classG &&
    decide (e.state = stIdle ∨ e.state = stParked)

/-- The line of partition `p` that is served first: highest PRI, then the lower number (R230, R231). -/
def State.firstLine (s : State) (p : Nat) (ok : Nat → Bool) : Option Nat :=
  ((List.range 64).filter ok).foldl
    (fun best l =>
      match best with
      | none => some l
      | some b => if s.fget (Reg.CP_IRQ_PRI p b) < s.fget (Reg.CP_IRQ_PRI p l) then some l else some b) none

/-- WAKE_STAGING (R231). -/
def runWakeStaging (p : Fin 16) (l : Fin 64) (s : State) : State :=
  if s.wakes p.val l.val then
    match (s.slotsG p.val).find? (s.freeFor (s.lineTarget p.val l.val)) with
    | some i => s.stageG (s.lineTarget p.val l.val) i
    | none => s
  else s

/-- SLOT_BECOMES_FREE (R86, R97, R231, R578): a slot has become free or displaceable. The waiting entry that is due first takes it, else a
free one goes to a target that waits to wake. -/
def runSlotBecomesFree (slot : Fin 384) (s : State) : State :=
  let i := slot.val
  let wake : State :=
    let p := s.pairOwner (pairOf i)
    if s.freeSlot i && decide (p < 16) && (s.slotsG p).contains i then
      match s.firstLine p (s.wakes p) with
      | some l => if s.keptFrom i (s.lineTarget p l) then s else s.stageG (s.lineTarget p l) i
      | none => s
    else s
  if s.fbit Reg.SC_CFG_EN && (s.freeSlot i || s.displaceable i) then
    match s.nextWaiting i with
    | some c => s.takeSlot c i
    | none => wake
  else wake

/-- A class-G context that is to leave stops at its boundary (R92). -/
def State.park (s : State) (i : Nat) : State := s.setSlot i ((s.slot i).leave .park)

/-- The transfer a port grants next: class-D write-backs by request, class-D stage-ins by due cycle and number, then the
others by request (R76). -/
def pickTransfer (q : List Transfer) : Option Transfer :=
  match q.find? (fun t => t.classD && !t.stageIn) with
  | some t => some t
  | none =>
    match q.filter (fun t => t.classD) with
    | x :: xs => some (xs.foldl (fun a b => if b.due < a.due ∨ (b.due = a.due ∧ b.ctx < a.ctx) then b else a) x)
    | [] => q.head?

/-- PORT_GRANT (R71, R76): the wait counts in FN_PMAX for class D. -/
def runPortGrant (port : Fin 12) (s : State) : State :=
  let p := s.port port.val
  match p.cur with
  | some _ => s
  | none =>
    match pickTransfer p.queue with
    | none => s
    | some t =>
      let s1 := s.setPort port.val { queue := p.queue.erase t, cur := some t }
      if t.classD then
        s1.fmax (if t.stageIn then Reg.FN_PMAX_STG port.val else Reg.FN_PMAX_WB port.val) (s.cyc - t.req)
      else s1

/-! ## The Firn -/

/-- Word `w` of the Firn image of context `c`, sealed. -/
def State.firn (s : State) (c w : Nat) : Sealed := Tab.get 0 s.sch.firn (256 * c + w)

def State.setFirn (s : State) (c w : Nat) (v : Word) : State :=
  { s with sch := { s.sch with firn := Tab.set 0 s.sch.firn (256 * c + w) (sealWord v) } }

/-- The Firn image of context `c` zeroed. -/
def State.zeroFirn (s : State) (c : Nat) : State :=
  { s with sch := { s.sch with firn := Tab.keep (fun k => decide (k < 256 * c ∨ 256 * (c + 1) ≤ k)) s.sch.firn } }

/-- Whether the half that holds context `c` is powered and ready (R70, R73). -/
def State.firnUp (s : State) (c : Nat) : Bool :=
  if c < 2048 then s.fbit Reg.FN_STAT_H0UP else s.fbit Reg.FN_STAT_H1UP

/-- The first word of an image that no correction can deliver. -/
def State.firnBad (s : State) (c : Nat) : Nat → Option Nat
  | 0 => none
  | n + 1 =>
    match s.firnBad c n with
    | some w => some w
    | none => if (readSealed (s.firn c n)).word.isNone then some n else none

/-- How many words of an image are delivered corrected. -/
def State.firnCorrected (s : State) (c : Nat) : Nat :=
  ((List.range 176).filter fun w =>
    match readSealed (s.firn c w) with
    | .corrected _ _ => true
    | _ => false).length

/-- Entry to UNAVAIL with a cause (R86): SC_PSTAT.HALT of the partition. -/
def State.toUnavail (s : State) (c ucause : Nat) : State :=
  let e := s.entry c
  let s1 := s.setEntry c (({ e with pend := false, agreed := false }.setState stUnavail).setUcause ucause |>.setEn false)
  match s1.partOf c with
  | some p => s1.flag (Reg.SC_PSTAT_HALT p) (Reg.SC_PSTAT_HALT_MORE p)
  | none => s1

/-- The words of an image as a stage-in delivers them (R71, R72); reserved words read 0. -/
def State.firnWords (s : State) (c : Nat) : List Word :=
  (List.range 176).map fun w => if 166 ≤ w then 0 else (readSealed (s.firn c w)).word.getD 0

/-- The address of the S vector of cause `code` in the world and partition of the context in slot `i` (R213). -/
def State.sVector (s : State) (i code : Nat) : Word :=
  let id := s.img i 14
  BitVec.ofNat 36 (s.fget (Reg.CP_SVBASE_BASE (bits id 24 4) (bits id 29 1)) * 2048 + 32 * code)

/-- Words of the slot's trap windows. -/
def State.win (s : State) (i lvl k : Nat) : Word := Tab.get 0 s.core.trapWin (32 * i + 8 * lvl + k)

def State.setWin (s : State) (i lvl k : Nat) (v : Word) : State :=
  { s with core := { s.core with trapWin := Tab.set 0 s.core.trapWin (32 * i + 8 * lvl + k) v } }

/-- A trap window loaded with eight words. -/
def State.loadWin (s : State) (i lvl : Nat) (ws : List Word) : State :=
  { s with core := { s.core with trapWin := Tab.setRange 0 s.core.trapWin (32 * i + 8 * lvl) ws } }

/-- A context staged with S busy resumes at its S vector with its trap window at zeros; no resumable instruction is in progress there (R119,
R123). -/
def State.resumeBusy (s : State) (i : Nat) : State :=
  if bits (s.img i 2) 0 2 = 1 ∧ bitAt (s.img i 2) 7 then
    let v := s.sVector i (bits (s.img i 8) 0 6)
    let s1 := s.loadWin i 1 (List.replicate 8 0)
    let s2 := ((s1.setImg i 0 v).setImg i 1 (v + 4)).setImg i 3 (setBits (s.img i 3) 6 1 1)
    (s2.setImg i 2 (setBits (s.img i 2) 11 13 0)).setSlot i { s.slot i with dslot := false }
  else s

/-- A predictor's entries of one core that satisfy `p` go (R199, R442). -/
def State.clearPred (s : State) (core : Nat) (p : PredEntry → Bool) : State :=
  { s with core := { s.core with
      pred := Tab.set [] s.core.pred core ((Tab.get [] s.core.pred core).filter fun e => !p e) } }

/-- The image of context `c` arrives in slot `i` (R71, R119, R199, R208, R442). -/
def State.imageArrives (s : State) (i c : Nat) : State :=
  let e := s.entry c
  let ws := s.firnWords c
  let s1 := { s with core := { s.core with image := Tab.setRange 0 s.core.image (256 * i) ws } }
  let x := s1.slot i
  let secure := bitAt (s1.img i 14) 29
  let s2 := s1.setSlot i { x with
    ctx := some c, resv := none, gate := false, stopped := false, leaving := .none, parkReq := false,
    dslot := decide (s1.img i 1 ≠ s1.img i 0 + 4), first := true, fetch := [], ase := none, long := [], outLoad := none,
    hist := 0, rstack := [], lastWorld := some secure, retire := none, next := 0, away := false, lastPc := s1.img i 0,
    lastLvl := s1.level i, hostData := [], hostUsed := 0 }
  let s3 := if x.lastWorld = some (!secure) then s2.clearPred (i / 8) (fun q => q.secure != secure) else s2
  let s4 := if e.classG && e.fresh then (s3.setImg i 13 0).setEntry c { e with fresh := false } else s3
  s4.resumeBusy i

/-- STAGE_IN_COMPLETE (R71, R75). -/
def runStageInComplete (port : Fin 12) (s : State) : State :=
  let p := s.port port.val
  match p.cur with
  | none => s
  | some t =>
    if !t.stageIn then s
    else
      let s1 := s.setPort port.val { p with cur := none }
      let s2 := s1.fadd Reg.FN_ERR_CE (s1.firnCorrected t.ctx)
      if t.disabled then s2
      else match s2.firnBad t.ctx 176 with
      | some w =>
        let s3 := s2.fadd Reg.FN_ERR_UE 1
        let s4 := if s3.fbit Reg.FN_UELOG_V then s3
                  else (s3.fset Reg.FN_UELOG_CTX t.ctx).fset Reg.FN_UELOG_WORD w
        let s5 := s4.flag Reg.FN_UELOG_V Reg.FN_UELOG_V_MORE
        let s6 := (s5.setSlot t.slot (s5.slot t.slot).vacate)
        let s7 := (s6.setSlot t.slot { s6.slot t.slot with resv := none }).toUnavail t.ctx 3
        s7.record tySched 7 ((s7.partOf t.ctx).getD 0) t.ctx (BitVec.ofNat 36 w)
      | none => s2.imageArrives t.slot t.ctx

/-! ## Releases -/

/-- The gate of context `c`'s slot opens on its pending point: the lateness is counted, the entry moves to its next point
(R79, R81, R93, R97). -/
def State.release (s : State) (c : Nat) : State :=
  let e := s.entry c
  let i := e.slot
  let late := s.cyc + issueDelay i s.cyc - (e.due + 8)
  let e1 := (e.advance.setState stRunning)
  let e2 := { e1 with pend := false, agreed := false }
  let e3 := if late = 0 then e2
    else { (e2.count 0 1) with
      stat := setBits e2.stat 18 18 (Nat.min late (2 ^ 18 - 1))
      max := setBits e2.max 24 12 (Nat.max (bits e2.max 24 12) (Nat.min (late / 64) 4095)) }
  let s1 := s.setEntry c e3
  let s2 := s1.setSlot i { s1.slot i with gate := true, stopped := false, leaving := .none, first := true }
  match s2.partOf c with
  | none => s2
  | some p =>
    if late = 0 then s2
    else
      let s3 := s2.fadd (Reg.SC_PLATE_N p) 1
      if late ≤ e.margin then s3
      else
        let s4 := s3.flag (Reg.SC_PSTAT_LATE p) (Reg.SC_PSTAT_LATE_MORE p)
        (s4.raise (16 + p)).record tySched 2 p c (BitVec.ofNat 36 late)

/-- The first group of a staged context is in its fetch buffer (R86, R93, R107): STAGED, and RUNNING at once for a class-G
context or a point already due. -/
def State.staged (s : State) (i : Nat) : State :=
  match (s.slot i).ctx with
  | none => s
  | some c =>
    let e := s.entry c
    if e.state ≠ stStaging then s
    else if e.classG then
      let s1 := s.setEntry c (e.setState stRunning)
      s1.setSlot i { s1.slot i with gate := true }
    else
      let s1 := s.setEntry c (e.setState stStaged)
      if e.pend then s1.release c else s1

/-- DUE_CYCLE (R93): a STAGED entry whose point is due is released. -/
def runDueCycle (c : Fin 4096) (s : State) : State :=
  let e := s.entry c.val
  if e.state = stStaged ∧ !e.classG ∧ e.pend then s.release c.val else s

/-! ## The end of a run -/

/-- The longest run of the entry (R113). -/
def Entry.longest (e : Entry) (cycles : Nat) : Entry :=
  { e with max := setBits e.max 0 24 (Nat.max (bits e.max 0 24) (Nat.min cycles (2 ^ 24 - 1))) }

/-- A run stops without write-back and its commit buffer is discarded (R96, R98, R103). -/
def State.abandon (s : State) (i c : Nat) : State :=
  let s1 := (s.setCommit c []).setEntry c ((s.entry c).longest (s.img i 13).toNat)
  (s1.dropTransfers i).vacateSlot i

/-- The entry of context `c` keeps slot `i` while it stays enabled with PIN = 1 (R95). -/
def State.keepSlot (s : State) (i c : Nat) : State :=
  let e := s.entry c
  if e.pin && e.en then s.setSlot i { s.slot i with kept := some c } else s

/-- A run that reaches its budget, or a capture that finds the commit buffer full (R96, R101): `code` is the SCHED record's. -/
def State.overrun (s : State) (i c code : Nat) : State :=
  let cycles := s.img i 13
  let s1 := s.abandon i c
  let e := (s1.entry c).count 24 1
  let e1 := if e.ovpol || e.oneShot then ({ e with pend := false }.setState stIdle).setEn false else e.setState stArmed
  let s2 := (s1.setEntry c e1).keepSlot i c
  match s2.partOf c with
  | none => s2
  | some p =>
    let s3 := (s2.fadd (Reg.SC_POVR_N p) 1).flag (Reg.SC_PSTAT_OVR p) (Reg.SC_PSTAT_OVR_MORE p)
    (s3.raise (16 + p)).record tySched code p c cycles

/-- RUN_BUDGET_EXPIRY (R96, R151): RUNCYC, counted from the run's first issue, has reached BUDGET before YIELD issued. -/
def runRunBudgetExpiry (slot : Fin 384) (s : State) : State :=
  let i := slot.val
  let x := s.slot i
  match x.ctx with
  | none => s
  | some c =>
    let e := s.entry c
    if !e.classG && decide (e.state = stRunning) && x.gate && !x.stopped && !x.first && decide (e.budget ≤ (s.img i 13).toNat) then
      s.overrun i c 1
    else s

/-- What a place of a register takes. -/
def State.putPlace (s : State) (i : Nat) (p : Place) (v : Word) : State :=
  match p with
  | .img w => s.setImg i w v
  | .win lvl k => s.setWin i lvl k v
  | .zero => s
  | .dbData => s.rset Reg.DB_DATA v
  | .step => s

/-- A long operation completes: it writes its destinations and its sticky bits (R179). -/
def State.completeOp (s : State) (i : Nat) (o : LongOp) : State :=
  let s1 := o.writes.foldl (fun t (p, v) => t.putPlace i p v) s
  s1.setImg i 165 (s1.img i 165 ||| o.stat)

/-- WRITE_BACK_REQUEST (R71): once no operation of the slot is in flight, the image asks for its port. -/
def runWriteBackRequest (slot : Fin 384) (s : State) : State :=
  let i := slot.val
  let x := s.slot i
  let asked := (s.port (portOf i)).queue.any (fun t => decide (t.slot = i) && !t.stageIn) ||
    (match (s.port (portOf i)).cur with
     | some t => decide (t.slot = i)
     | none => false)
  match x.ctx with
  | none => s
  | some c =>
    if !x.stopped || asked || decide (x.leaving = .none) || (s.entry c).agreed || decide (x.long ≠ []) then s
    else
      s.request
        { ctx := c, slot := i, stageIn := false, classD := !(s.entry c).classG || x.resv.isSome, due := 0, req := s.cyc }

/-- The Firn image of context `c` is replaced by the image of slot `i` in one cycle (R72). -/
def State.writeBack (s : State) (i c : Nat) : State :=
  { s with sch := { s.sch with
      firn := Tab.setRange 0 s.sch.firn (256 * c)
        ((List.range 176).map fun w => if 166 ≤ w then sealWord 0 else sealWord (s.img i w)) } }

/-- A class-G context is PARKED and tells its supervisor (R92, R107). -/
def State.parked (s : State) (c : Nat) (tell : Bool) : State :=
  let s1 := s.setEntry c ((s.entry c).setState stParked)
  match s1.partOf c with
  | none => s1
  | some p =>
    if tell then (s1.flag (Reg.SC_PSTAT_PARK p) (Reg.SC_PSTAT_PARK_MORE p)).raise (32 + p) else s1

/-- The slot's context has been written back: what follows by the reason it left (R86, R92, R95, R107, R152). -/
def State.afterWriteBack (s : State) (i c : Nat) : State :=
  let x := s.slot i
  let e := s.entry c
  match x.leaving with
  | .commit =>
    if e.classG then
      let s1 := (s.setSlot i x.vacate).setEntry c (e.setState stIdle)
      match s1.partOf c with
      | some p => s1.raise (32 + p)
      | none => s1
    else
      let s1 := s.setEntry c ({ e with agreed := true }.longest (s.img i 13).toNat)
      s1.setSlot i (if e.pin then { x with fetch := [] } else x.vacate)
  | .park =>
    ((s.setSlot i x.vacate).parked c true).stageReserved i
  | .swap d =>
    let s1 := (s.setSlot i x.vacate).parked c false
    let ed := s1.entry d
    if ed.state = stIdle ∨ ed.state = stParked then s1.stageG d i else s1
  | .none => s

/-- WRITE_BACK_VERDICT (R28, R72): on a lockstep pair the image is replaced only when the comparator agreed, else the landing buffer is discarded
(and the difference is a mismatch, Machine/Carry.lean). -/
def runWriteBackVerdict (port : Fin 12) (agree : Bool) (s : State) : State :=
  let p := s.port port.val
  match p.cur with
  | none => s
  | some t =>
    if t.stageIn then s
    else
      let s1 := s.setPort port.val { p with cur := none }
      if agree || decide (s1.pairState (pairOf t.slot) ≠ lsLockstep) then (s1.writeBack t.slot t.ctx).afterWriteBack t.slot t.ctx else s1

/-- The run of a class-D context whose release is complete (R86, R95, R104). -/
def State.releaseDone (s : State) (c : Nat) : State :=
  let e := s.entry c
  if e.pin && !e.oneShot then
    let i := e.slot
    let s1 := s.setEntry c ({ e with agreed := false }.setState stStaged)
    let s2 := s1.setSlot i { s1.slot i with gate := false, stopped := false, leaving := .none, first := true }
    if e.pend then s2.release c else s2
  else
    let s1 := if e.pin then s.setSlot e.slot (s.slot e.slot).vacate else s
    s1.setEntry c e.rearm

/-! ## Commands -/

/-- SC_RESULT of partition `p` after a command (R108). -/
def State.scResult (s : State) (p status ctx : Nat) : State :=
  ((s.fset (Reg.SC_RESULT_STATUS p) status).fset (Reg.SC_RESULT_CTX p) ctx).fset (Reg.SC_RESULT_DONE p) 1

/-- A command of SC_CMD (R108, R13, R575): refused with BUSY while DONE is 0, with BAD_ARG beyond the partition's range, else
`f` gives the next state and the status; every refusal is recorded and leaves no effect. -/
def State.scCommand (s : State) (p op : Nat) (ctx arg : Nat) (f : Nat → State × Nat) : State :=
  if ¬ s.fbit (Reg.SC_RESULT_DONE p) then
    (s.flag (Reg.SC_RESULT_BUSYHIT p) (Reg.SC_RESULT_BUSYHIT_MORE p)).refusal stsBusy p 0o7777 blkSC op arg
  else if 16 * s.fget (Reg.SC_PRANGE_COUNT p) ≤ ctx then
    (s.refusal stsBadArg p 0o7777 blkSC op arg).scResult p stsBadArg ctx
  else
    let c := 16 * s.fget (Reg.SC_PRANGE_BASE p) + ctx
    match f c with
    | (t, 0) => t.scResult p stsOk ctx
    | (_, n) => (s.refusal n p c blkSC op arg).scResult p n ctx

/-- The lowest FREE local context of a partition, if it has one (R109). -/
def State.lowestFree (s : State) (p : Nat) : Option Nat :=
  (List.range (16 * s.fget (Reg.SC_PRANGE_COUNT p))).find? fun i =>
    decide ((s.entry (16 * s.fget (Reg.SC_PRANGE_BASE p) + i)).state = stFree)

/-- CTXID of a context (R68): global and local number, partition, class; the world is normal. -/
def ctxid (c l p : Nat) (g : Bool) : Word := BitVec.ofNat 36 (c + l * 2 ^ 12 + p * 2 ^ 24 + b2n g * 2 ^ 28)

/-- ALLOC (R109). -/
def runAlloc (p : Fin 16) (_ctx : BitVec 12) (arg : BitVec 20) (s : State) : State :=
  if ¬ s.fbit (Reg.SC_RESULT_DONE p.val) then
    (s.flag (Reg.SC_RESULT_BUSYHIT p.val) (Reg.SC_RESULT_BUSYHIT_MORE p.val)).refusal stsBusy p.val 0o7777 blkSC 1 arg.toNat
  else
    match s.lowestFree p.val with
    | none =>
      ((s.refusal stsNoContext p.val 0o7777 blkSC 1 arg.toNat).record tySched 5 p.val 0o7777 0).scResult p.val stsNoContext 0
    | some l =>
      let c := 16 * s.fget (Reg.SC_PRANGE_BASE p.val) + l
      let g := arg.getLsbD 0
      let e := s.entry c
      let e1 := { e with cfg := setBits (setBits e.cfg 2 1 (b2n g)) 3 1 0, pend := false, agreed := false }
      let s1 := (s.setEntry c (e1.setState stIdle)).zeroFirn c
      (s1.setFirn c 14 (ctxid c l p.val g)).scResult p.val stsOk l

/-- Bindings of outputs to context `c` are released (R109, R407): pages, publications and discrete outputs. -/
def State.unbind (s : State) (c : Nat) : State :=
  let page (t : State) (n : Nat) : State :=
    if t.fbit (Reg.SC_OPAGE_F_V n) && decide (t.fget (Reg.SC_OPAGE_C_CTX n) = c) then t.fset (Reg.SC_OPAGE_F_V n) 0 else t
  let gpub (t : State) (n : Nat) : State :=
    if t.fbit (Reg.PD_GPB_V n) && decide (t.fget (Reg.PD_GPB_CTX n) = c) then t.fset (Reg.PD_GPB_V n) 0 else t
  let spub (t : State) (n : Nat) : State :=
    if t.fbit (Reg.PD_SPB_V n) && decide (t.fget (Reg.PD_SPB_CTX n) = c) then t.fset (Reg.PD_SPB_V n) 0 else t
  let dout (t : State) (n : Nat) : State :=
    if t.fbit (Reg.PD_DOB_V n) && decide (t.fget (Reg.PD_DOB_CTX n) = c) then t.fset (Reg.PD_DOB_V n) 0 else t
  let s1 := (List.range 256).foldl page s
  let s2 := (List.range 512).foldl gpub s1
  let s3 := (List.range 64).foldl spub s2
  (List.range 8).foldl dout s3

/-- FREE (R86, R109). -/
def runFree (p : Fin 16) (ctx : BitVec 12) (arg : BitVec 20) (s : State) : State :=
  s.scCommand p.val 2 ctx.toNat arg.toNat fun c =>
    let e := s.entry c
    if e.state ≠ stIdle then (s, stsConflict)
    else (((s.setEntry c ((e.setState stFree).setEn false)).zeroFirn c).unbind c |>.unwake c, stsOk)

/-- The first point of an angle entry whose stage decision lies after this cycle (R80). -/
def State.firstPoint (s : State) (n : Nat) (e : Entry) : Entry :=
  let a : Rat := (s.ref n).acc.toNat + mkRat (s.fget (Reg.AN_REF_INC_INC n) * s.lead * 257) 256
  let x : Rat := (a * (4096 * e.n : Nat) / (2 ^ 60 : Nat) - e.off) / 4096
  let k := ((x.floor + 1) % (4096 * e.n : Nat)).toNat
  { e with next0 := setBits (setBits e.next0 0 12 (k / e.n)) 12 12 (k % e.n) }

/-- The conditions and effect of ENABLE on a class-D entry that is IDLE (R80, R85, R96): the entry armed, or none. A stage decision that falls
in the enabling cycle is past (model's choice). -/
def State.enabled (s : State) (p : Nat) (e : Entry) : Option Entry :=
  if e.budget = 0 then none
  else
    let e1 := { (e.setState stArmed).setEn true with pend := false, agreed := false }
    if e.ttype = 1 then
      match s.viewRef p e.ref with
      | none => none
      | some n =>
        if s.refState n = 0 ∨ ¬ s.aligned n then none
        else if e.sync then
          if angleWithin (s.ref n).acc.toNat (s.fget (Reg.AN_REF_INC_INC n) * s.lead * 257) e then none else some e1
        else some (s.firstPoint n e1)
    else if e.ttype = 3 then
      match s.boundSrc p e.src with
      | none => none
      | some _ => some e1
    else some e1

/-- ENABLE (R77, R80, R86). -/
def runEnable (p : Fin 16) (ctx : BitVec 12) (arg : BitVec 20) (s : State) : State :=
  s.scCommand p.val 3 ctx.toNat arg.toNat fun c =>
    let e := s.entry c
    if e.classG ∨ e.ttype = 0 then (s, stsBadArg)
    else if e.state ≠ stIdle then (s, stsConflict)
    else match s.enabled p.val e with
      | some e1 => ((s.unkeep c).setEntry c e1, stsOk)
      | none => (s, stsConflict)

/-- DISABLE (R71, R86): the reserved slot is freed; a class-G context already told to leave it is parked all the same, and a stage-in already
granted moves on to its end. -/
def runDisable (p : Fin 16) (ctx : BitVec 12) (arg : BitVec 20) (s : State) : State :=
  s.scCommand p.val 4 ctx.toNat arg.toNat fun c =>
    let e := s.entry c
    let off := ({ e with pend := false, agreed := false }.setState stIdle).setEn false
    if e.classG then (s, stsConflict)
    else if e.state = stArmed ∨ e.state = stWaiting then (s.setEntry c off, stsOk)
    else if e.state = stStaging ∨ e.state = stStaged then
      let i := e.slot
      let x := s.slot i
      let s1 := s.setEntry c off
      if x.ctx.isSome ∧ x.ctx ≠ some c then (s1.setSlot i { x with resv := none }, stsOk)
      else ((s1.cancelStage c i).setSlot i { x.vacate with resv := none }, stsOk)
    else (s, stsConflict)

/-- RUN (R107): a free slot of the named core, or of the partition for 63. -/
def runRun (p : Fin 16) (ctx : BitVec 12) (arg : BitVec 20) (s : State) : State :=
  s.scCommand p.val 5 ctx.toNat arg.toNat fun c =>
    let e := s.entry c
    let core := arg.toNat % 64
    if 47 < core ∧ core < 63 then (s, stsBadArg)
    else if !e.classG || decide (e.state ≠ stIdle ∧ e.state ≠ stParked) then (s, stsConflict)
    else
      match (s.slotsG p.val).find? (fun i => s.freeFor c i && decide (core = 63 ∨ i / 8 = core)) with
      | some i => (s.stageG c i, stsOk)
      | none => (s, stsConflict)

/-- STOP (R107, R210): the context leaves at its next boundary. -/
def runStop (p : Fin 16) (ctx : BitVec 12) (arg : BitVec 20) (s : State) : State :=
  s.scCommand p.val 6 ctx.toNat arg.toNat fun c =>
    let e := s.entry c
    let i := e.slot
    if !e.classG || decide (e.state ≠ stRunning) || decide (2 ≤ s.level i) then (s, stsConflict)
    else if (s.slot i).parkReq || (s.slot i).stopped then (s, stsBusy)
    else (s.setSlot i { s.slot i with parkReq := true }, stsOk)

/-- SETCLASS (R21): the class changes, and CTXID with it. -/
def runSetclass (p : Fin 16) (ctx : BitVec 12) (arg : BitVec 20) (s : State) : State :=
  s.scCommand p.val 7 ctx.toNat arg.toNat fun c =>
    let e := s.entry c
    if e.state = stIdle ∨ e.state = stParked ∨ e.state = stUnavail then
      let g := arg.getLsbD 0
      let id := (readSealed (s.firn c 14)).word.getD 0
      ((s.setEntry c { e with cfg := setBits e.cfg 2 1 (b2n g) }).setFirn c 14 (setBits id 28 1 (b2n g)), stsOk)
    else (s, stsConflict)

/-- RESET (R86): UNAVAIL to IDLE. -/
def runReset (p : Fin 16) (ctx : BitVec 12) (arg : BitVec 20) (s : State) : State :=
  s.scCommand p.val 8 ctx.toNat arg.toNat fun c =>
    let e := s.entry c
    if e.state = stUnavail then (s.setEntry c (((e.setState stIdle).setUcause 0).setEn false), stsOk) else (s, stsConflict)

/-- SC_EVRAISE_STORE (R85): an owned software source is raised, any other sets BADRAISE. -/
def runScEvraiseStore (p : Fin 16) (src : BitVec 10) (s : State) : State :=
  if 512 ≤ src.toNat ∧ s.srcOwner src.toNat = p.val then s.raise src.toNat
  else s.flag (Reg.SC_PSTAT_BADRAISE p.val) (Reg.SC_PSTAT_BADRAISE_MORE p.val)

/-! ## Stores to scheduler words -/

/-- States in which the Firn image of a context can be reached through the aperture (R73). -/
def firnReachable (st : Nat) : Bool := decide (st = stFree ∨ st = stIdle ∨ st = stParked ∨ st = stUnavail)

/-- Image word `w` with its reserved bits at 0 (R6, R68): WCTL, SCAUSE, TTB, PERFCTL, c0, the CTL words of the address generators (R168),
SPCTL and SPSTAT (R167), and the words that no register uses. -/
def imageWord (w : Nat) (v : Word) : Word :=
  if w = 3 then v &&& maskBits 0 7
  else if w = 8 then v &&& maskBits 0 14
  else if w = 10 then setBits v 32 3 0
  else if w = 12 then v &&& maskBits 0 9
  else if w = 164 then v &&& maskBits 0 2
  else if w = 165 then v &&& maskBits 0 3
  else if w = 16 ∨ 166 ≤ w then 0
  else if 152 ≤ w ∧ w < 160 ∧ w % 2 = 1 then setBits v 35 1 0
  else v

/-- What a store through the aperture puts into word `w` (R68, R122): STATUS never names E or M. -/
def apertureWord (w : Nat) (v : Word) : Word := if w = 2 then v &&& BitVec.ofNat 36 0o3601 else imageWord w v

/-- FIRN_APERTURE_ACCESS (R73). -/
def runFirnApertureAccess (req : Requester) (va : Word) (c : Fin 4096) (w : Fin 256) (store : Option Word) (s : State) : State :=
  let ok := firnReachable (s.entry c.val).state
  match store with
  | none =>
    if ok && s.firnUp c.val then
      if 166 ≤ w.val then { s with rdata := 0, rerr := false }
      else match (readSealed (s.firn c.val w.val)).word with
        | some v => { s with rdata := v, rerr := false }
        | none => { s with rerr := true }
    else { s with rerr := true }
  | some v =>
    if !s.firnUp c.val then s.storeError req va 0
    else if !ok then s.storeError req va 4
    else if 166 ≤ w.val ∨ w.val = 14 then s
    else s.setFirn c.val w.val (apertureWord w.val v)

/-- Whether context `c`'s entry lets an output page change (R106). -/
def pageIdle (st : Nat) : Bool := decide (st = stFree ∨ st = stIdle ∨ st = stUnavail)

/-- SC_OPAGE_STORE (R8, R106): frame, context and V change only while the contexts bound before and after are FREE, IDLE or UNAVAIL. -/
def runScOpageStore (req : Requester) (va : Word) (n : Fin 256) (isC : Bool) (v : Word) (s : State) : State :=
  let a := if isC then Reg.SC_OPAGE_C n.val else Reg.SC_OPAGE_F n.val
  let t := s.rset a (s.storedWord req.level a v 0)
  let idle (u : State) : Bool :=
    !u.fbit (Reg.SC_OPAGE_F_V n.val) || pageIdle (s.entry (u.fget (Reg.SC_OPAGE_C_CTX n.val))).state
  let same := if isC then decide (bits (t.rget a) 0 12 = bits (s.rget a) 0 12) else decide (bits (t.rget a) 0 27 = bits (s.rget a) 0 27)
  if same || (idle s && idle t) then s.regStore req va a v else s.storeError req va 4

/-- Whether every context that a new range of partition `p` takes in or leaves out is FREE (R112). -/
def State.rangeFree (s : State) (p base count : Nat) : Bool :=
  s.entryList.all fun (c, e) =>
    decide (e.state = stFree) ||
      (s.inRange p c == decide (16 * base ≤ c ∧ c < 16 * base + 16 * count))

/-- SC_PRANGE_STORE (R9, R112). -/
def runScPrangeStore (req : Requester) (va : Word) (p : Fin 16) (v : Word) (s : State) : State :=
  let a := Reg.SC_PRANGE p.val
  if req.level = .m ∧ ¬ s.rangeFree p.val (bits v 0 8) (bits v 8 9) then s.refuseStore req va blkSC (a - Reg.SC_CFG) 4
  else s.regStore req va a v

/-- ENTRY_WORD_STORE (R6, R110, R113). -/
def runEntryWordStore (req : Requester) (va : Word) (p : Fin 16) (i : Fin 4096) (j : Fin 8) (v : Word) (s : State) : State :=
  let c := 16 * s.fget (Reg.SC_PRANGE_BASE p.val) + i.val
  if ¬ s.inRange p.val c then s.storeError req va 7
  else
    let e := s.entry c
    if 5 ≤ j.val then s
    else if e.state ≠ stFree ∧ e.state ≠ stIdle then s.storeError req va 6
    else if j.val = 0 then s.setEntry c { e with cfg := (e.cfg &&& 0o000000000014) ||| (v &&& 0o777777077763) }
    else if j.val = 1 then s.setEntry c { e with trig := v }
    else if j.val = 2 then s.setEntry c { e with next0 := if e.ttype = 1 then setBits e.next0 0 24 (bits v 0 24) else v }
    else if j.val = 3 then (if e.ttype = 1 ∨ e.ttype = 3 then s else s.setEntry c { e with next1 := v })
    else s.setEntry c { e with bud := v &&& 0o000077777777 }

/-- An entry word as a read finds it, and the entry after the read (R6, R7, R113): bits that are reserved for the entry's trigger type
read 0. -/
def Entry.read (e : Entry) (j : Nat) : Entry × Word :=
  if j = 0 then (e, e.cfg)
  else if j = 1 then (e, e.trig)
  else if j = 2 then (e, if e.ttype = 1 then e.next0 &&& maskBits 0 24 else e.next0)
  else if j = 3 then (e, if e.ttype = 1 ∨ e.ttype = 3 then 0 else e.next1)
  else if j = 4 then (e, e.bud) else if j = 5 then (e, e.stat) else if j = 6 then ({ e with cnt := 0 }, e.cnt)
  else ({ e with max := 0 }, e.max)

/-- SC_STAT, counted from the entries (R113). -/
def State.scStat (s : State) : Word :=
  let count (f : Nat → Bool) : Nat := (s.entryList.filter fun (_, e) => f e.state).length
  BitVec.ofNat 36
    (count (fun st => decide (st = stStaging ∨ st = stStaged)) + count (fun st => decide (st = stRunning)) * 2 ^ 9 +
      count (fun st => decide (st = stWaiting)) * 2 ^ 18)

end Sys2Proof.Machine
end

