-- ==== Sys2Proof/Machine/DramCtl.lean ====
section
/-! DEFINITION. The DRAM controller (spec/11_dram_controller.md): the address map, reads and writes of lines with their
checks, channel states, refresh, retraining, sparing and the commands of MC_CMD. -/

namespace Sys2Proof.Machine

/-! ## Address map -/

/-- The channels in use, in order (R322). -/
def State.chList (s : State) : List Nat := (List.range 6).filter fun c => bitAt (s.rget Reg.MC_MAP) c

/-- Whether a value of MC_MAP names 1, 2, 3, 4 or 6 channels (R322). -/
def mapValid (w : Word) : Bool :=
  let n := ((List.range 6).filter fun c => bitAt w c).length
  decide (n = 1 ∨ n = 2 ∨ n = 3 ∨ n = 4 ∨ n = 6)

/-- Lines of a rank: 2^(26+B), B from DENS (R323, R324). -/
def State.rankLines (s : State) : Nat := 2 ^ (27 + s.fget Reg.MC_MAP_DENS)

/-- A line of DRAM where its data lie. -/
structure DramAt where
  ch : Nat
  rank : Nat
  cl : Nat
  deriving DecidableEq, Repr

/-- Channel, logical rank and line within the rank of line `l`, none at or above the capacity (R323, R324). -/
def State.mapLine (s : State) (l : Nat) : Option DramAt :=
  let chs := s.chList
  let nch := chs.length
  let g := 2 ^ Nat.min 12 (s.fget Reg.MC_MAP_GRAIN)
  if nch = 0 ∨ nch * (s.fget Reg.MC_MAP_MRANKS + 1) * s.rankLines ≤ l then none
  else
    let q := l / g
    let cl := q / nch * g + l % g
    let c := chs.getD (q % nch) 0
    if s.fbit Reg.MC_MAP_MRANKS then some { ch := c, rank := cl / s.rankLines, cl := cl % s.rankLines }
    else some { ch := c, rank := s.fget (Reg.MC_CHCFG_LMAP c), cl := cl }

/-- The key of beat 0 of a line's cells. -/
def cellKey (d : DramAt) : Nat := ((2 * d.ch + d.rank) * 2 ^ 30 + d.cl) * 16

/-! ## Channels -/

/-- A channel out of reset. -/
def Chan.reset : Chan :=
  { rq := [], issued := [], turn := 0, credit := 0, wq := [], batch := 0, owed := [], sincePause := [], pauseDue := [],
    dlyPend := [], nrDue := [], openRow := [], lfsr := 1, initOk := [], measuring := [], hot := [], patrol := 0,
    copyQueued := false, warmSref := false, phy := [] }

def State.chan (s : State) (c : Nat) : Chan := Tab.get Chan.reset s.dram.chans c

/-- A channel replaced; MC_CHSTAT shows its queues. -/
def State.setChan (s : State) (c : Nat) (x : Chan) : State :=
  let s1 := { s with dram := { s.dram with chans := Tab.set Chan.reset s.dram.chans c x } }
  (s1.fset (Reg.MC_CHSTAT_RQ c) x.rq.length).fset (Reg.MC_CHSTAT_WQ c) x.wq.length

/-- The physical rank that serves a line of the mapped rank: the spare for lines already copied, and for line CP while its copy is queued
(R340). -/
def State.servedAt (s : State) (d : DramAt) : DramAt :=
  let cp := s.fget (Reg.MC_CP_CP d.ch)
  if s.fget (Reg.MC_CHSTAT_SPST d.ch) = 2 ∧ (d.cl < cp ∨ (d.cl = cp ∧ (s.chan d.ch).copyQueued = true)) then { d with rank := 1 - d.rank }
  else d

def State.chState (s : State) (c : Nat) : Nat := s.fget (Reg.MC_CHSTAT_STATE c)

/-- Channel states (R325). -/
def chOff : Nat := 0
def chInit : Nat := 1
def chZeroing : Nat := 2
def chActive : Nat := 3
def chSelfref : Nat := 4
def chLost : Nat := 5

/-- What becomes of a request at a channel (R325, R326). -/
inductive ChanAnswer where
  | serve (s : State)
  | wait
  | error

def State.chanAnswer (s : State) (c : Nat) : ChanAnswer :=
  if s.chState c = chActive then .serve s
  else if s.chState c = chSelfref then
    if s.fbit (Reg.MC_CHCFG_AUTOX c) then .serve (s.fset (Reg.MC_CHSTAT_STATE c) chActive) else .wait
  else .error

/-- The words of a line: from the write queue where it holds the line, else from the cells (R332). -/
def State.dramWords (s : State) (d : DramAt) : List Sealed :=
  match (s.chan d.ch).wq.find? (fun w => w.rank = d.rank ∧ w.cl = d.cl) with
  | some w => w.words
  | none => Tab.getRange 0 s.dram.cells (cellKey d) 16

/-! ## Writes -/

/-- A rank that takes no further refresh, retraining or command owes none (R340). -/
def State.retireRank (s : State) (c r : Nat) : State :=
  let x := s.chan c
  s.setChan c { x with owed := Tab.set 0 x.owed r 0, sincePause := Tab.set 0 x.sincePause r 0, pauseDue := Tab.set false x.pauseDue r false,
                       openRow := Tab.keep (fun k => decide (k / 256 ≠ r)) x.openRow,
                       nrDue := x.nrDue.filter fun (k, _) => decide (k / 256 ≠ r) }

/-- Migration ends: the spare is mapped and the old rank retired (R340). -/
def State.migrationDone (s : State) (c : Nat) : State :=
  let s1 := ((s.retireRank c (s.fget (Reg.MC_CHCFG_LMAP c))).fset (Reg.MC_CHCFG_LMAP c) (1 - s.fget (Reg.MC_CHCFG_LMAP c))).fset (Reg.MC_CHSTAT_SPST c) 3
  let s2 := (s1.flag Reg.MC_EVT_MIGDONE Reg.MC_EVT_MIGDONE_MORE).raise 67
  s2.record tyDram 4 0 (c + 8 * s.fget (Reg.MC_CHCFG_LMAP c)) 0

/-- The row of a channel line (R323). -/
def State.rowOf (s : State) (cl : Nat) : Nat := (cl / 2 ^ (11 + s.fget Reg.MC_MAP_DENS)) % 2 ^ 16

/-- The bank of a channel line with its group, as 16 group + bank (R323). -/
def State.bankOf (s : State) (cl : Nat) : Nat :=
  16 * ((cl % 8) ^^^ (s.rowOf cl % 8)) + (cl / 2 ^ 10) % 2 ^ (1 + s.fget Reg.MC_MAP_DENS)

/-- The rows around a row that a neighbour refresh refreshes (R336). -/
def neighbours (row : Nat) (two : Bool) : Nat :=
  b2n (decide (1 ≤ row)) + b2n (decide (row + 1 < 65536)) +
    (if two then b2n (decide (2 ≤ row)) + b2n (decide (row + 2 < 65536)) else 0)

/-- The neighbours of a row of bank `key` are refreshed (R336). -/
def State.refreshRows (s : State) (c key row : Nat) : State :=
  let x := s.chan c
  (s.setChan c { x with nrDue := x.nrDue.erase (key, row), openRow := Tab.erase x.openRow key }).fadd ⟨Reg.MC_NRCNT c, 0, 36⟩
    (neighbours row (s.fbit (Reg.MC_NR_RADIUS2 c)))

/-- The neighbour refreshes that a bank awaits come before its next activate (R336). -/
def State.refreshBank (s : State) (c key : Nat) : State :=
  ((s.chan c).nrDue.filter fun (k, _) => decide (k = key)).foldl (fun t (k, row) => t.refreshRows c k row) s

/-- An access of a line opens its row; an activate draws for its neighbours (R336). -/
def State.activate (t : State) (d : DramAt) : State :=
  let key := 256 * d.rank + t.bankOf d.cl
  let row := t.rowOf d.cl
  if Tab.get 65536 (t.chan d.ch).openRow key = row then t
  else
    let s := t.refreshBank d.ch key
    let x := s.chan d.ch
    let k := Nat.max 4 (Nat.min 16 (s.fget (Reg.MC_NR_K d.ch)))
    let hit := s.fbit (Reg.MC_NR_NREN d.ch) && decide (x.lfsr.toNat % 2 ^ k = 0)
    s.setChan d.ch { x with openRow := Tab.set 65536 x.openRow key row,
                            nrDue := if hit then x.nrDue ++ [(key, row)] else x.nrDue }

/-- The oldest line of a write queue is written to its cells; a copied line moves the copy pointer (R332, R340). -/
def State.issueWrite (s : State) (c : Nat) : State :=
  let x := s.chan c
  match x.wq with
  | [] => s
  | w :: ws =>
    let d : DramAt := { ch := c, rank := w.rank, cl := w.cl }
    let s0 := s.activate d
    let y := s0.chan c
    let s1 := { s0 with dram := { s0.dram with cells := Tab.setRange 0 s0.dram.cells (cellKey d) w.words } }
    let s2 := s1.setChan c { y with wq := ws, copyQueued := if w.copy then false else y.copyQueued }
    if w.copy then
      let cp := s2.fget (Reg.MC_CP_CP c) + 1
      let s3 := s2.fset (Reg.MC_CP_CP c) cp
      if cp = s3.rankLines then s3.migrationDone c else s3
    else s2

/-- A line is queued for writing: over the queued copy where the queue holds the line; a full queue first issues its oldest
line (R332). -/
def State.queueWrite (s : State) (d : DramAt) (words : List Sealed) (copy : Bool) : State :=
  let s1 := if 64 ≤ (s.chan d.ch).wq.length then s.issueWrite d.ch else s
  let x := s1.chan d.ch
  let same (w : WrReq) : Bool := decide (w.rank = d.rank ∧ w.cl = d.cl)
  if x.wq.any same then
    s1.setChan d.ch { x with wq := x.wq.map fun w => if same w then { w with words := words } else w }
  else s1.setChan d.ch { x with wq := x.wq ++ [{ rank := d.rank, cl := d.cl, words := words, copy := copy }] }

/-! ## Reads -/

/-- Entry to COPY (R340). -/
def State.startMigration (s : State) (c : Nat) : State :=
  let s1 := (s.fset (Reg.MC_CHSTAT_SPST c) 2).fset (Reg.MC_CP_CP c) 0
  let s2 := (s1.flag Reg.MC_EVT_MIGST Reg.MC_EVT_MIGST_MORE).raise 66
  s2.record tyDram 3 0 (c + 8 * s.fget (Reg.MC_CHCFG_LMAP c)) 0

/-- Whether a physical rank is mapped (R323, R324). -/
def State.mappedRank (s : State) (c r : Nat) : Bool :=
  s.fbit Reg.MC_MAP_MRANKS || decide (r = s.fget (Reg.MC_CHCFG_LMAP c))

/-- One corrected symbol of a line: the rank's CE count and the device's, and the threshold, of a mapped rank or of the spare in COPY and
DONE (R339, R341). -/
def State.countCorrection (s : State) (d : DramAt) (dev : Nat) : State :=
  let before := s.fget (Reg.MC_RCNT_CE d.ch d.rank)
  let s1 := s.fadd (Reg.MC_RCNT_CE d.ch d.rank) 1
  let reg := Reg.MC_DCNT d.ch d.rank (dev / 6)
  let s2 := s1.fadd ⟨reg, 6 * (dev % 6), 6⟩ 1
  let thr := s2.fget (Reg.MC_SP_THR d.ch)
  if (s2.mappedRank d.ch d.rank || decide (2 ≤ s2.fget (Reg.MC_CHSTAT_SPST d.ch))) && decide (before < thr ∧ thr ≤ before + 1) then
    let s3 := (s2.flag Reg.MC_EVT_THR Reg.MC_EVT_THR_MORE).raise 65
    let s4 := s3.record tyDram 2 0 (d.ch + 8 * d.rank + 16 * dev) (BitVec.ofNat 36 d.cl)
    if s4.fget Reg.MC_MAP_MRANKS = 0 ∧ s4.fbit (Reg.MC_CHCFG_AUTO d.ch) ∧ s4.fget (Reg.MC_CHSTAT_SPST d.ch) = 1 then
      s4.startMigration d.ch
    else s4
  else s2

/-- CH_ELOGA and CH_ELOGB as they name a word. -/
def elogWords (line word syn src : Nat) (l1 : Bool) : Word × Word :=
  (BitVec.ofNat 36 (line % 2 ^ 32 + word % 16 * 2 ^ 32),
   BitVec.ofNat 36 (syn % 4096 + src % 32 * 2 ^ 12 + b2n l1 * 2 ^ 17 + 2 ^ 18))

/-- What R275 makes of an uncorrectable word of structure `x`, but for the record: the log, the count and the event. -/
def State.chUe (s : State) (x line word syn : Nat) (l1 : Bool) : State :=
  let s1 :=
    if s.fbit Reg.CH_ELOGB_V then s
    else
      (((((s.fset Reg.CH_ELOGA_LINE line).fset Reg.CH_ELOGA_WORD word).fset Reg.CH_ELOGB_SYN syn).fset Reg.CH_ELOGB_SRC x).fset
        Reg.CH_ELOGB_L1 (b2n l1))
  let s2 := (s1.flag Reg.CH_ELOGB_V Reg.CH_ELOGB_V_MORE).fadd (Reg.CH_CNT_UE x) 1
  (s2.flag Reg.CH_EVT_UE Reg.CH_EVT_UE_MORE).raise 80

/-- The home slice of a line (R266). -/
def homeSlice (line : Nat) : Nat :=
  (line % 8) ^^^ (line / 8 % 8) ^^^ (line / 64 % 8) ^^^ (line / 512 % 8) ^^^ (line / 4096 % 8)

/-- An uncorrectable word of a line (R338): log, count, event and record. `home` is the line a slice reads it for, which then
handles the word as R275 says; the one record carries the fields of both. -/
def State.logDramUe (s : State) (d : DramAt) (word syn src : Nat) (home : Option Nat) : State :=
  let s1 :=
    if s.fbit (Reg.MC_ELOGB_V d.ch) then s
    else ((((s.fset (Reg.MC_ELOGA_CL d.ch) d.cl).fset (Reg.MC_ELOGA_RANK d.ch) d.rank).fset
      (Reg.MC_ELOGA_WORD d.ch) word).fset (Reg.MC_ELOGB_SYN d.ch) syn).fset (Reg.MC_ELOGB_SRC d.ch) src
  let s2 := (s1.flag (Reg.MC_ELOGB_V d.ch) (Reg.MC_ELOGB_V_MORE d.ch)).fadd (Reg.MC_RCNT_UE d.ch d.rank) 1
  let s3 := (s2.flag Reg.MC_EVT_UE Reg.MC_EVT_UE_MORE).raise 64
  match home with
  | none => s3.record tyDram 1 0 (d.ch + 8 * d.rank) (BitVec.ofNat 36 d.cl)
  | some line =>
    let x := 12 + homeSlice line
    let e := elogWords line word syn x false
    (s3.chUe x line word syn false).record tyDram 1 0 (d.ch + 8 * d.rank) (BitVec.ofNat 36 d.cl) [[e.1, e.2, 0, 0]]

/-- What one word of a line read becomes: a corrected word is re-sealed, an uncorrectable one poisoned (R337, R338). -/
def cleanWord (w : Sealed) : Sealed :=
  match readSealed w with
  | .corrected v _ => sealWord v
  | .bad _ => poisonWord (dataOf w)
  | _ => w

/-- The reports of the words of a line read, in word order. -/
def State.reportWords (s : State) (d : DramAt) (src : Nat) (home : Option Nat) : Nat → List Sealed → State
  | _, [] => s
  | i, w :: ws =>
    let s1 := match readSealed w with
      | .corrected _ p => s.countCorrection d p
      | .bad syn => s.logDramUe d i syn src home
      | _ => s
    State.reportWords s1 d src home (i + 1) ws

/-- A line read from DRAM (R332, R337, R338): from the write queue without a check, else checked, and queued for rewriting
where a word was corrected or poisoned. `src` is 0 demand, 1 patrol, 2 migration copy; `home` is the line of a demand read. -/
def State.readLine (s : State) (d : DramAt) (src : Nat) (home : Option Nat := none) : State × List Sealed :=
  if (s.chan d.ch).wq.any (fun w => decide (w.rank = d.rank ∧ w.cl = d.cl)) then (s, s.dramWords d)
  else
    let ws := s.dramWords d
    let s1 := (s.activate d).reportWords d src home 0 ws
    let clean := ws.map cleanWord
    (if clean = ws then s1 else s1.queueWrite d clean false, clean)

/-- The words of a line that a read of DRAM finds uncorrectable; a line in the write queue is not checked. -/
def State.badWords (s : State) (d : DramAt) : List Nat :=
  if (s.chan d.ch).wq.any (fun w => decide (w.rank = d.rank ∧ w.cl = d.cl)) then []
  else (List.range 16).filter fun i => match readSealed ((s.dramWords d).getD i 0) with
    | .bad _ => true
    | _ => false

/-! ## Requests of the slices -/

/-- The outcome of a line read on behalf of a slice: the words, and which of them the read found uncorrectable. -/
inductive LineRead where
  | data (s : State) (words : List Sealed) (bad : List Nat)
  | wait
  | error

/-- A line read for its home slice (R324, R325, R340). -/
def State.fetchLine (s : State) (l : Nat) : LineRead :=
  match s.mapLine l with
  | none => .error
  | some d =>
    match s.chanAnswer d.ch with
    | .serve s1 =>
      let r := s1.readLine (s1.servedAt d) 0 (some l)
      .data r.1 r.2 (s1.badWords (s1.servedAt d))
    | .wait => .wait
    | .error => .error

/-- A line written by its home slice: into the channel's write queue (R332, R340). -/
def State.storeLine (s : State) (l : Nat) (words : List Sealed) : State :=
  match s.mapLine l with
  | none => s
  | some d =>
    match s.chanAnswer d.ch with
    | .serve s1 => s1.queueWrite (s1.servedAt d) words false
    | _ => s

/-! ## Command issue -/

/-- Whether a read of the queue reads an open row of its channel. -/
def State.rowHit (s : State) (r : RdReq) : Bool :=
  match s.mapLine r.line with
  | none => false
  | some d =>
    let e := s.servedAt d
    decide (Tab.get 65536 (s.chan e.ch).openRow (256 * e.rank + s.bankOf e.cl) = s.rowOf e.cl)

/-- The weight of a partition (R333); 0 acts as 1. -/
def State.qWeight (s : State) (p : Nat) : Nat :=
  atLeast1 (if p < 8 then bits (s.rget (Reg.MC_QW 0)) (4 * p) 4 else bits (s.rget (Reg.MC_QW 1)) (4 * (p - 8)) 4)

/-- The next partition in weighted turn that has a read queued (R333). -/
def nextTurn (has : Nat → Bool) (from_ : Nat) : Nat → Nat
  | 0 => from_ % 16
  | n + 1 => if has (from_ % 16) then from_ % 16 else nextTurn has (from_ + 1) n

/-- The read a channel issues next (R333): one older than 2^AGE, else by weighted turn, open rows first, then the oldest. -/
def State.pickRead (s : State) (c : Nat) : Option (RdReq × Nat × Nat) :=
  let x := s.chan c
  match x.rq with
  | [] => none
  | r0 :: _ =>
    if r0.at_ + 2 ^ s.fget (Reg.MC_SCHED_AGE c) < s.cyc then some (r0, x.turn, x.credit)
    else
      let has (p : Nat) : Bool := x.rq.any fun r => decide (r.part = p)
      let keep := has x.turn && decide (0 < x.credit)
      let p := if keep then x.turn else nextTurn has (x.turn + 1) 16
      let credit := if keep then x.credit else s.qWeight p
      let mine := x.rq.filter fun r => decide (r.part = p)
      match (mine.find? (fun r => s.rowHit r)).orElse (fun _ => mine.head?) with
      | some r => some (r, p, credit - 1)
      | none => none

/-- A refresh of a rank is issued (R329, R335); no pause falls due under MEASURE (R331). -/
def State.issueRefresh (s : State) (c r : Nat) : State :=
  let x := s.chan c
  let n := Tab.get 0 x.sincePause r + 1
  let due := s.fbit (Reg.MC_RT_RTEN c) && !Tab.get false x.measuring r && decide (atLeast1 (s.fget (Reg.MC_RT_RTPER c)) ≤ n)
  s.setChan c { x with
    owed := Tab.set 0 x.owed r (Tab.get 0 x.owed r - 1)
    sincePause := Tab.set 0 x.sincePause r (if due then 0 else n)
    pauseDue := if due then Tab.set false x.pauseDue r true else x.pauseDue
    openRow := Tab.keep (fun k => decide (k / 256 ≠ r)) x.openRow }

/-- WLO, and WHI as they act (R334). -/
def State.whi (s : State) (c : Nat) : Nat :=
  let n := s.fget (Reg.MC_SCHED_WHI c)
  if n = 0 ∨ 64 < n then 64 else n

def State.wlo (s : State) (c : Nat) : Nat :=
  let n := s.fget (Reg.MC_SCHED_WLO c)
  if s.whi c ≤ n then s.whi c - 1 else n

/-- NEIGHBOUR_REFRESH (R336): the oldest that waits. -/
def runNeighbourRefresh (ch : Fin 6) (s : State) : State :=
  match (s.chan ch.val).nrDue with
  | [] => s
  | (k, row) :: _ => if s.chState ch.val ≠ chActive then s else s.refreshRows ch.val k row

/-- A rank of the channel that owes `n` refreshes or more. -/
def State.owes (s : State) (c n : Nat) : Option Nat := [0, 1].find? fun r => decide (n ≤ Tab.get 0 (s.chan c).owed r)

/-- Whether a retraining pause of the channel waits (R331, R333). -/
def State.pauseWaits (s : State) (c : Nat) : Bool :=
  [0, 1].any fun r => Tab.get false (s.chan c).pauseDue r && !Tab.get false (s.chan c).measuring r

/-- Whether a rank takes refresh, retraining and commands: fitted, and not retired by a migration (R340). -/
def State.rankServed (s : State) (c r : Nat) : Bool :=
  (decide (r = 0) || s.fbit (Reg.MC_CHCFG_PR2 c)) &&
    !(decide (s.fget (Reg.MC_CHSTAT_SPST c) = 3) && decide (r ≠ s.fget (Reg.MC_CHCFG_LMAP c)))

/-- Whether a read is queued for a rank (R335). -/
def State.readsQueued (s : State) (c r : Nat) : Bool :=
  (s.chan c).rq.any fun q => match s.mapLine q.line with
    | none => false
    | some d => decide ((s.servedAt d).rank = r)

/-- DRAM_COMMAND_ISSUE (R333 to R335): the first command of the list of R333 that waits; a postponed refresh goes before the writes of a
batch. -/
def runDramCommandIssue (ch : Fin 6) (s : State) : State :=
  let c := ch.val
  let x := s.chan c
  if s.chState c ≠ chActive then s
  else match s.owes c 5 with
    | some r => s.issueRefresh c r
    | none =>
      if s.pauseWaits c then s
      else if x.nrDue ≠ [] then runNeighbourRefresh ch s
      else if x.wq ≠ [] ∧ (x.batch = 1 ∨ (x.batch = 2 ∧ x.rq = [])) then
        match s.owes c 1 with
        | some r => s.issueRefresh c r
        | none =>
          let s1 := s.issueWrite c
          let y := s1.chan c
          let done := if x.batch = 1 then decide (y.wq.length ≤ s1.wlo c) else decide (y.wq = [])
          if done then s1.setChan c { y with batch := 0 } else s1
      else match s.pickRead c with
        | some (r, turn, credit) =>
          s.setChan c { x with rq := x.rq.erase r, issued := x.issued ++ [r], turn := turn, credit := credit, batch := 0 }
        | none =>
          match s.owes c 1 with
          | some r => s.issueRefresh c r
          | none => s

/-- REFRESH_DUE (R335): a refresh is owed; with no read queued for the rank it is issued at once. -/
def runRefreshDue (ch : Fin 6) (rank : Fin 2) (s : State) : State :=
  let c := ch.val
  let x := s.chan c
  if s.chState c ≠ chActive ∨ !s.rankServed c rank.val then s
  else
    let s1 := s.setChan c { x with owed := Tab.set 0 x.owed rank.val (Tab.get 0 x.owed rank.val + 1) }
    if !s.readsQueued c rank.val then s1.issueRefresh c rank.val else s1

/-- A signed 6-bit correction. -/
def State.corr (s : State) (f : Field) : Int := sint (s.fget f) 6

/-- A correction moves by at most one tap and not beyond ±CWIN (R329, R330). -/
def State.moveCorr (s : State) (c rank dev : Nat) (f : Field) (m : Int) : State :=
  let win : Int := s.fget (Reg.MC_RT_CWIN c)
  let step : Int := if m > 0 then 1 else if m < 0 then -1 else 0
  let v := s.corr f + step
  if (step > 0 ∧ v > win) ∨ (step < 0 ∧ v < -win) then
    ((s.flag Reg.MC_EVT_DRIFT Reg.MC_EVT_DRIFT_MORE).raise 68).record tyDram 5 0 (c + 8 * rank + 16 * dev) 0
  else s.fset f (clampInt v 6)

/-- One device in a retraining pause: a pending base comes into force with corrections 0, else each correction moves. -/
def State.pauseDevice (c r : Nat) (moves : List (Int × Int)) (s : State) (d : Nat) : State :=
  let x := s.chan c
  match x.dlyPend.find? (fun (k, _) => k = 12 * r + d) with
  | some (_, w) =>
    let s1 := s.setChan c { x with dlyPend := Tab.erase x.dlyPend (12 * r + d) }
    s1.rset (Reg.MC_DLY c r d) (setBits w 24 12 0)
  | none =>
    let m := moves.getD d (0, 0)
    (s.moveCorr c r d (Reg.MC_DLY_RCORR c r d) m.1).moveCorr c r d (Reg.MC_DLY_WCORR c r d) m.2

/-- RETRAINING_PAUSE (R328 to R330). -/
def runRetrainingPause (ch : Fin 6) (rank : Fin 2) (moves : List (Int × Int)) (s : State) : State :=
  let c := ch.val
  let r := rank.val
  let x := s.chan c
  if s.chState c ≠ chActive ∨ ¬ Tab.get false x.pauseDue r ∨ Tab.get false x.measuring r then s
  else
    let s1 := s.setChan c { x with pauseDue := Tab.set false x.pauseDue r false }
    let s2 := (List.range 12).foldl (State.pauseDevice c r moves) s1
    s2.fset ⟨Reg.MC_CHSTAT c, 7 + r, 1⟩ 0

/-- PATROL_SCRUB (R337): the next line of the mapped ranks. -/
def runPatrolScrub (ch : Fin 6) (s : State) : State :=
  let c := ch.val
  let x := s.chan c
  if s.chState c ≠ chActive ∨ ¬ s.fbit (Reg.MC_SP_PSEN c) then s
  else
    let n := s.rankLines * (s.fget Reg.MC_MAP_MRANKS + 1)
    let l := x.patrol % n
    let d : DramAt := { ch := c, rank := if s.fbit Reg.MC_MAP_MRANKS then l / s.rankLines else s.fget (Reg.MC_CHCFG_LMAP c),
                        cl := l % s.rankLines }
    let s1 := (s.readLine (s.servedAt d) 1).1
    s1.setChan c { s1.chan c with patrol := (l + 1) % n }

/-- The refresh rate of a rank follows its devices' reports and MC_CHCFGc.REFX2; a change, or a report above the limit, is told (R335). -/
def State.refreshRate (s : State) (c r : Nat) (aboveLimit : Bool) : State :=
  let f : Field := ⟨Reg.MC_CHSTAT c, 5 + r, 1⟩
  let now := Tab.get false (s.chan c).hot r || s.fbit (Reg.MC_CHCFG_REFX2 c)
  let s1 := s.fset f (b2n now)
  if decide (s.fbit f ≠ now) || aboveLimit then
    ((s1.flag Reg.MC_EVT_TEMP Reg.MC_EVT_TEMP_MORE).raise 69).record tyDram 6 0 (c + 8 * r) 0
  else s1

/-- MODE_REGISTER_POLL (R335). -/
def runModeRegisterPoll (ch : Fin 6) (rank : Fin 2) (need2x aboveLimit : Bool) (s : State) : State :=
  let c := ch.val
  if s.chState c ≠ chActive ∨ !s.rankServed c rank.val then s
  else
    let x := s.chan c
    (s.setChan c { x with hot := Tab.set false x.hot rank.val need2x }).refreshRate c rank.val aboveLimit

/-- WRITE_BATCH_START (R334). -/
def runWriteBatchStart (ch : Fin 6) (s : State) : State :=
  let c := ch.val
  let x := s.chan c
  if s.chState c ≠ chActive ∨ x.batch ≠ 0 then s
  else if s.whi c ≤ x.wq.length then s.setChan c { x with batch := 1 }
  else if s.fbit (Reg.MC_SCHED_IDLEW c) && decide (x.rq = []) && decide (x.wq ≠ []) then s.setChan c { x with batch := 2 }
  else s

/-! ## Commands -/

/-- MC_RES after a command (R345). -/
def State.mcResult (s : State) (status : Nat) : State := (s.fset Reg.MC_RES_STATUS status).fset Reg.MC_RES_DONE 1

/-- A command of MC_CMD (R13, R345, R575). -/
def State.mcCommand (s : State) (op : Nat) (ch : BitVec 3) (rank : Bool) (f : Nat → Nat → State × Nat) : State :=
  let c := ch.toNat
  let r := b2n rank
  let arg := c + 8 * r
  if ¬ s.fbit Reg.MC_RES_DONE then
    (s.flag Reg.MC_RES_BUSYHIT Reg.MC_RES_BUSYHIT_MORE).refusal stsBusy 0 0o7777 blkMC op arg
  else if c ∉ s.chList ∨ (rank ∧ ¬ s.fbit (Reg.MC_CHCFG_PR2 c)) ∨ ¬ mapValid (s.rget Reg.MC_MAP) then
    (s.refusal stsBadArg 0 0o7777 blkMC op arg).mcResult stsBadArg
  else match f c r with
    | (t, 0) => t
    | (_, n) => (s.refusal n 0 0o7777 blkMC op arg).mcResult n

/-- A command under way on a channel that leaves service ends with FAIL (model's choice). -/
def State.endMcCommand (s : State) (c : Nat) : State :=
  match s.dram.cmd with
  | some (_, k, _) => if k = c then ({ s with dram := { s.dram with cmd := none } }).mcResult 7 else s
  | none => s

/-- The settings of R561, and the latencies (R327). -/
def DramPhy.board (cl cwl : Nat) : DramPhy :=
  { cl := cl, cwl := cwl, ctrlDrive := 34, ctrlTerm := 40, devDrive := 34, rttWr := 48, rttNomWr := 60, rttNomRd := 60, rttPark := 240,
    caOdt := 80, csOdt := 40, ckOdt := 40 }

/-- INIT (R327, R345, R561): under way until INIT_COMPLETE; the settings are written and the LFSR takes its load (R336). -/
def runInit (ch : BitVec 3) (rank : Bool) (s : State) : State :=
  s.mcCommand 1 ch rank fun c r =>
    if s.chState c ≠ chInit then (s, stsConflict)
    else
      let x := s.chan c
      let seed := if s.rget Reg.MC_NRSEED = 0 then 1 else s.rget Reg.MC_NRSEED
      let s1 := (s.setChan c { x with lfsr := seed, phy := Tab.set none x.phy r (some (DramPhy.board (s.fget (Reg.MC_TIM0_CL c)) (s.fget (Reg.MC_TIM0_CWL c)))) }).fset Reg.MC_RES_DONE 0
      ({ s1 with dram := { s1.dram with cmd := some (1, c, r) } }, 0)

/-- INIT_COMPLETE (R345): passed, or the first device that fails. -/
def runInitComplete (failDev : Option (Fin 12)) (s : State) : State :=
  match s.dram.cmd with
  | some (1, c, r) =>
    let s1 := { s with dram := { s.dram with cmd := none } }
    let x := s1.chan c
    match failDev with
    | none => (s1.setChan c { x with initOk := Tab.set false x.initOk r true }).mcResult 0
    | some d => ((s1.setChan c { x with initOk := Tab.set false x.initOk r false }).fset Reg.MC_RES_FAILDEV d.val).mcResult 7
  | _ => s

/-- ZERO (R345); under way already, it is refused with BUSY (R13, R575). -/
def runZero (ch : BitVec 3) (rank : Bool) (s : State) : State :=
  s.mcCommand 2 ch rank fun c _ =>
    let x := s.chan c
    let ok := Tab.get false x.initOk 0 && (!s.fbit (Reg.MC_CHCFG_PR2 c) || Tab.get false x.initOk 1)
    if s.chState c = chZeroing then (s, stsBusy)
    else if s.chState c ≠ chInit ∨ ¬ ok then (s, stsConflict)
    else ((s.fset (Reg.MC_CHSTAT_STATE c) chZeroing).mcResult 0, 0)

/-- SPST of a channel that has come ACTIVE or named a spare (R340). -/
def State.spareReady (s : State) (c : Nat) : State :=
  s.fset (Reg.MC_CHSTAT_SPST c)
    (if s.fbit (Reg.MC_CHCFG_SPAREV c) && s.fbit (Reg.MC_CHCFG_PR2 c) && !s.fbit Reg.MC_MAP_MRANKS then 1 else 0)

/-- ZERO_COMPLETE (R326, R340, R345): every line holds all-zero sealed words and the channel is ACTIVE. -/
def runZeroComplete (ch : Fin 6) (s : State) : State :=
  let c := ch.val
  if s.chState c ≠ chZeroing then s
  else
    let lo := 2 * c * 2 ^ 30 * 16
    let hi := (2 * c + 2) * 2 ^ 30 * 16
    let s1 := { s with dram := { s.dram with cells := Tab.keep (fun k => decide (k < lo ∨ hi ≤ k)) s.dram.cells } }
    (s1.fset (Reg.MC_CHSTAT_STATE c) chActive).spareReady c

/-- Every queued line is written, oldest first. -/
def State.drainWrites (s : State) (c : Nat) : State :=
  (s.chan c).wq.foldl (fun t _ => t.issueWrite c) s

/-- The queue is drained and every rank enters self-refresh (R342). -/
def State.enterSelfref (s : State) (c : Nat) : State :=
  let s1 := s.drainWrites c
  (s1.setChan c { s1.chan c with openRow := [], batch := 0 }).fset (Reg.MC_CHSTAT_STATE c) chSelfref

/-- SRE (R342, R345). -/
def runSre (ch : BitVec 3) (rank : Bool) (s : State) : State :=
  s.mcCommand 3 ch rank fun c _ =>
    let x := s.chan c
    if s.chState c ≠ chActive ∨ s.fget (Reg.MC_CHSTAT_SPST c) = 2 ∨ Tab.get false x.measuring 0 ∨ Tab.get false x.measuring 1
    then (s, stsConflict)
    else ((s.enterSelfref c).mcResult 0, 0)

/-- SRX (R326, R345). -/
def runSrx (ch : BitVec 3) (rank : Bool) (s : State) : State :=
  s.mcCommand 4 ch rank fun c _ =>
    if s.chState c ≠ chSelfref then (s, stsConflict)
    else ((s.fset (Reg.MC_CHSTAT_STATE c) chActive).mcResult 0, 0)

/-- MEASURE (R331, R345): V clears, and the sweep is under way until MEASURE_COMPLETE. -/
def runMeasure (ch : BitVec 3) (rank : Bool) (s : State) : State :=
  s.mcCommand 5 ch rank fun c r =>
    let x := s.chan c
    if s.chState c ≠ chActive ∨ s.fget (Reg.MC_CHSTAT_SPST c) = 2 then (s, stsConflict)
    else
      let s1 := s.setChan c { x with measuring := Tab.set false x.measuring r true }
      let s2 := (List.range 12).foldl (fun t d => t.fset (Reg.MC_MEAS_V c d) 0) s1
      let s3 := s2.fset Reg.MC_RES_DONE 0
      ({ s3 with dram := { s3.dram with cmd := some (5, c, r) } }, 0)

/-- The eyes of the twelve devices as the sweep found them. -/
def State.setEyes (s : State) (c : Nat) : Nat → List (Nat × Nat × Nat) → State
  | _, [] => s
  | d, (a, b, w) :: t =>
    if d < 12 then
      State.setEyes ((((s.fset (Reg.MC_MEAS_RCTR c d) a).fset (Reg.MC_MEAS_WCTR c d) b).fset (Reg.MC_MEAS_RWID c d) w).fset
        (Reg.MC_MEAS_V c d) 1) c (d + 1) t
    else s

/-- MEASURE_COMPLETE (R331). -/
def runMeasureComplete (ch : Fin 6) (eyes : List (Nat × Nat × Nat)) (s : State) : State :=
  match s.dram.cmd with
  | some (5, c, r) =>
    if c ≠ ch.val then s
    else
      let x := s.chan c
      let s1 := (s.setChan c { x with measuring := Tab.set false x.measuring r false }).setEyes c 0 eyes
      let s2 := { s1 with dram := { s1.dram with cmd := none } }
      ((s2.flag Reg.MC_EVT_MEAS Reg.MC_EVT_MEAS_MORE).raise 71).mcResult 0
  | _ => s

/-- MIGRATE (R340, R345); under way already, it is refused with BUSY (R13, R575). -/
def runMigrate (ch : BitVec 3) (rank : Bool) (s : State) : State :=
  s.mcCommand 6 ch rank fun c _ =>
    if s.fget (Reg.MC_CHSTAT_SPST c) = 2 then (s, stsBusy)
    else if s.chState c ≠ chActive ∨ s.fget (Reg.MC_CHSTAT_SPST c) ≠ 1 then (s, stsConflict)
    else ((s.startMigration c).mcResult 0, 0)

/-- MIGRATION_COPY (R340, R341): line CP of the old rank is read and queued to the spare. -/
def runMigrationCopy (ch : Fin 6) (s : State) : State :=
  let c := ch.val
  let x := s.chan c
  if s.chState c ≠ chActive ∨ s.fget (Reg.MC_CHSTAT_SPST c) ≠ 2 ∨ x.copyQueued ∨ s.pauseWaits c then s
  else
    let old := s.fget (Reg.MC_CHCFG_LMAP c)
    let cp := s.fget (Reg.MC_CP_CP c)
    let r := s.readLine { ch := c, rank := old, cl := cp } 2
    let s1 := r.1.queueWrite { ch := c, rank := 1 - old, cl := cp } r.2 true
    s1.setChan c { s1.chan c with copyQueued := true }

/-! ## Stores -/

/-- MC_MAP_STORE (R322). -/
def runMcMapStore (req : Requester) (va : Word) (v : Word) (s : State) : State :=
  let ok := (List.range 6).all fun c => decide (s.chState c = chOff ∨ s.chState c = chInit)
  if ok || (s.storeGuard req.level Reg.MC_MAP).isSome then s.regStore req va Reg.MC_MAP v
  else s.flag Reg.MC_EVT_CFGREF Reg.MC_EVT_CFGREF_MORE

/-- MC_DLY_STORE (R328): at once in INIT, else pending until the rank's next retraining pause. -/
def runMcDlyStore (req : Requester) (va : Word) (ch : Fin 6) (rank : Fin 2) (dev : Fin 12) (v : Word) (s : State) : State :=
  let a := Reg.MC_DLY ch.val rank.val dev.val
  if s.chState ch.val = chInit ∨ (s.storeGuard req.level a).isSome then s.regStore req va a v
  else
    let x := s.chan ch.val
    (s.setChan ch.val { x with dlyPend := Tab.insert (Tab.erase x.dlyPend (12 * rank.val + dev.val))
                                 (12 * rank.val + dev.val) (setBits v 24 12 0) }).fset
      ⟨Reg.MC_CHSTAT ch.val, 7 + rank.val, 1⟩ 1

/-- A store to MC_CHCFGc: LMAP, SPAREV and PR2 are not changed during COPY; naming a spare in ACTIVE makes it READY,
and REFX2 forces the rate (R335, R340, R341). -/
def runMcChcfgStore (req : Requester) (va : Word) (c : Nat) (v : Word) (s : State) : State :=
  let a := Reg.MC_CHCFG c
  let t := s.storedWord req.level a v 0
  if s.fget (Reg.MC_CHSTAT_SPST c) = 2 ∧ bits t 0 3 ≠ bits (s.rget a) 0 3 ∧ (s.storeGuard req.level a).isNone then
    s.flag Reg.MC_EVT_CFGREF Reg.MC_EVT_CFGREF_MORE
  else
    let s1 := s.regStore req va a v
    if s1.chState c ≠ chActive then s1
    else
      let s2 := if s1.fget (Reg.MC_CHSTAT_SPST c) ≤ 1 then s1.spareReady c else s1
      [0, 1].foldl (fun t r => if t.rankServed c r then t.refreshRate c r false else t) s2

/-- The channel's domain is lost other than by request (R326, R344): the write queue is discarded, a record for each line. -/
def State.chanLost (s : State) (c : Nat) : State :=
  let x := s.chan c
  let s1 := x.wq.foldl (fun t w => t.record tyDram 8 0 (c + 8 * w.rank) (BitVec.ofNat 36 w.cl)) s
  let s2 := s1.setChan c { x with wq := [], rq := [], issued := [], batch := 0, copyQueued := false, phy := [], initOk := [], measuring := [] }
  let s3 := s2.fset (Reg.MC_CHSTAT_STATE c) chLost
  (((s3.flag Reg.MC_EVT_LOST Reg.MC_EVT_LOST_MORE).raise 70).record tyDram 7 0 c 0).endMcCommand c

/-- Its LFSR moves one DRAM clock: x^36 + x^11 + 1 (R336). -/
def lfsrNext (v : BitVec 36) : BitVec 36 :=
  let b := v.getLsbD 35 ^^ v.getLsbD 10
  (v <<< 1) ||| (if b then 1 else 0)

end Sys2Proof.Machine
end

