-- ==== Sys2Proof/Machine/Line.lean ====
section
/-! DEFINITION. Lines in the L1s, the agents and the LLC (spec/09_caches_coherence.md): where each copy of a line stands, the words of
a copy as they are read and repaired (R271 to R276), lock regions as their registers stand, and room for a line (R266 to R270). -/

namespace Sys2Proof.Machine

/-! ## Windows (R252) -/

/-- Whether window `k` of partition `p` is in force and covers the 64-nonet units `lo` to `hi` (R252). -/
def State.windowCovers (s : State) (p lo hi k : Nat) : Bool :=
  s.fbit (Reg.TL_WL_V p k) && decide (s.fget (Reg.TL_WB_BASE p k) ≤ lo) && decide (hi ≤ s.fget (Reg.TL_WL_LIMIT p k))

/-- Whether some window of partition `p` covers the units and grants every permission of `need` (bit 0 R, 1 W, 2 X) (R26, R252). -/
def State.windowGrants (s : State) (p lo hi need : Nat) : Bool :=
  (List.range 32).any fun k =>
    s.windowCovers p lo hi k && decide (bits (s.rget (Reg.TL_WB p k)) 32 3 &&& need = need)

/-- Whether a 64-nonet unit lies in a secure DRAM range (R428). -/
def State.secureUnit (s : State) (u : Nat) : Bool :=
  (List.range 8).any fun k =>
    s.fbit (Reg.RK_SDL_V k) && decide (s.fget (Reg.RK_SDB_BASE k) ≤ u) && decide (u ≤ s.fget (Reg.RK_SDL_LIMIT k))

/-! ## Where a line stands -/

/-- The set of a line in its slice, in an L2 and in an L1 (R266). -/
def llcSet (line : Nat) : Nat := line / 8 % 4096
def l2Set (line : Nat) : Nat := line % 2048
def l1SetOf (line : Nat) : Nat := line % 256

def DirEntry.none : DirEntry := { st := .absent, ptrs := [], dirty := false, used := 0, words := [] }

def State.dir (s : State) (line : Nat) : DirEntry := Tab.get DirEntry.none s.mem.dirs line

def State.setDir (s : State) (line : Nat) (e : DirEntry) : State :=
  { s with mem := { s.mem with dirs := Tab.set DirEntry.none s.mem.dirs line e } }

def AgentLine.none : AgentLine := { st := .i, words := [], used := 0 }

/-- A line as an agent holds it. -/
def State.agentLine (s : State) (a line : Nat) : AgentLine := Tab.get AgentLine.none s.mem.agents (a * 2 ^ 32 + line)

def State.setAgentLine (s : State) (a line : Nat) (x : AgentLine) : State :=
  { s with mem := { s.mem with agents := Tab.set AgentLine.none s.mem.agents (a * 2 ^ 32 + line) x } }

/-- The state of a line in an agent. -/
def State.agentSt (s : State) (a line : Nat) : LineSt := (s.agentLine a line).st

def LineSt.holds (st : LineSt) : Bool := decide (st = .s ∨ st = .e ∨ st = .m)

/-- Whether a line's state lets its agent read, or write. -/
def LineSt.suffices (st : LineSt) (write : Bool) : Bool := if write then decide (st = .e ∨ st = .m) else st.holds

/-- Whether a line is on its way out of an L2 (R289). -/
def LineSt.evicting (st : LineSt) : Bool := decide (st = .evictingClean ∨ st = .evictingData)

/-- Whether an agent is declared dead. -/
def State.dead (s : State) (a : Nat) : Bool := bitAt (s.rget Reg.CH_STAT) a

def State.liveAgents (s : State) : List Nat := (List.range 16).filter fun a => !s.dead a

/-- A list with place `i` replaced, padded up to it. -/
def putAt {α : Type} (d : α) : List α → Nat → α → List α
  | [], 0, v => [v]
  | _ :: t, 0, v => v :: t
  | [], n + 1, v => d :: putAt d [] n v
  | x :: t, n + 1, v => x :: putAt d t n v

def DirEntry.put (e : DirEntry) (w : Nat) (v : Sealed) : DirEntry := { e with words := putAt 0 e.words w v }

def AgentLine.put (x : AgentLine) (w : Nat) (v : Sealed) : AgentLine := { x with words := putAt 0 x.words w v }

/-- The turn that counts uses. -/
def State.nextTurn (s : State) : State := { s with mem := { s.mem with turn := s.mem.turn + 1 } }

/-- An agent uses a line that it holds (R270). -/
def State.touchAgent (s : State) (a line : Nat) : State :=
  let t := s.nextTurn
  t.setAgentLine a line { t.agentLine a line with used := t.mem.turn }

/-! ## The L1s (R268 to R270) -/

def L1Way.none : L1Way := { line := 0, st := .i, words := [] }

def L1Set.none : L1Set := { ways := [], tree := 0 }

/-- The key of a line's set in a core's L1D or L1I. -/
def l1Key (core : Nat) (fetch : Bool) (line : Nat) : Nat := 512 * core + 256 * b2n fetch + l1SetOf line

def State.l1Set (s : State) (core : Nat) (fetch : Bool) (line : Nat) : L1Set :=
  Tab.get L1Set.none s.mem.l1 (l1Key core fetch line)

def State.setL1Set (s : State) (core : Nat) (fetch : Bool) (line : Nat) (x : L1Set) : State :=
  { s with mem := { s.mem with l1 := Tab.set L1Set.none s.mem.l1 (l1Key core fetch line) x } }

/-- The way of a set that holds a line. -/
def L1Set.wayOf (x : L1Set) (line : Nat) : Option Nat :=
  (List.range 4).find? fun k => decide ((x.ways.getD k L1Way.none).st ≠ .i ∧ (x.ways.getD k L1Way.none).line = line)

/-- A line in a core's L1, invalid where it does not hold it. -/
def State.l1Way (s : State) (core : Nat) (fetch : Bool) (line : Nat) : L1Way :=
  let x := s.l1Set core fetch line
  match x.wayOf line with
  | some k => x.ways.getD k L1Way.none
  | none => L1Way.none

def State.inL1 (s : State) (core : Nat) (fetch : Bool) (line : Nat) : Bool :=
  decide ((s.l1Way core fetch line).st ≠ .i)

/-- The tree of a set after a use of way `k` (R270): bit 0 the half, bits 1 and 2 the way of each half, to be replaced next. -/
def treeUsed (tree : BitVec 3) (k : Nat) : BitVec 3 :=
  let t := tree.toNat
  let b1 := if k < 2 then (if k = 0 then 1 else 0) else t / 2 % 2
  let b2 := if k < 2 then t / 4 else (if k = 2 then 1 else 0)
  BitVec.ofNat 3 ((if k < 2 then 1 else 0) + 2 * b1 + 4 * b2)

/-- The way that the tree points at. -/
def treeVictim (tree : BitVec 3) : Nat :=
  if tree.getLsbD 0 then 2 + b2n (tree.getLsbD 2) else b2n (tree.getLsbD 1)

/-- The way that takes a new line: an invalid one, else by the tree (R270). -/
def L1Set.victim (x : L1Set) : Nat :=
  ((List.range 4).find? fun k => decide ((x.ways.getD k L1Way.none).st = .i)).getD (treeVictim x.tree)

/-- A way of a set replaced. -/
def L1Set.put (x : L1Set) (k : Nat) (w : L1Way) : L1Set := { x with ways := putAt L1Way.none x.ways k w }

/-- A line that a core's L1 holds is used. -/
def State.touchL1 (s : State) (core : Nat) (fetch : Bool) (line : Nat) : State :=
  let x := s.l1Set core fetch line
  match x.wayOf line with
  | some k => s.setL1Set core fetch line { x with tree := treeUsed x.tree k }
  | none => s

/-- The copy of a line in a core's L1 replaced; nothing where it holds none. -/
def State.setL1Way (s : State) (core : Nat) (fetch : Bool) (line : Nat) (w : L1Way) : State :=
  let x := s.l1Set core fetch line
  match x.wayOf line with
  | some k => s.setL1Set core fetch line (x.put k w)
  | none => s

/-- A modified copy of a core's L1D reaches the L2, and is shared from then on (R269). -/
def State.spillL1 (s : State) (core line : Nat) : State :=
  let w := s.l1Way core false line
  if w.st = .m then
    let t := s.setAgentLine (core / 4) line { s.agentLine (core / 4) line with words := w.words }
    t.setL1Way core false line { w with st := .s }
  else s

/-- The cores of a cluster. -/
def clusterCores (c : Nat) : List Nat := (List.range 4).map (4 * c + ·)

/-- The L2 of a cluster holds the newest words of a line (R269). -/
def State.gather (s : State) (a line : Nat) : State :=
  if a < 12 then (clusterCores a).foldl (fun t n => t.spillL1 n line) s else s

/-- A core's L1s no longer hold a line. -/
def State.dropFrom (line : Nat) (s : State) (core : Nat) : State :=
  (s.setL1Way core false line L1Way.none).setL1Way core true line L1Way.none

/-- The L1s of a cluster no longer hold a line (R268). -/
def State.dropL1 (s : State) (a line : Nat) : State :=
  if a < 12 then (clusterCores a).foldl (State.dropFrom line) s else s

/-- A line comes into a core's L1 (R270); a modified line whose way it takes is written back to the L2. -/
def State.installL1 (s : State) (core : Nat) (fetch : Bool) (line : Nat) (words : List Sealed) : State :=
  if s.inL1 core fetch line then s.setL1Way core fetch line { line := line, st := .s, words := words }
  else
    let k := (s.l1Set core fetch line).victim
    let old := (s.l1Set core fetch line).ways.getD k L1Way.none
    let t := if old.st = .m then s.spillL1 core old.line else s
    let x := t.l1Set core fetch line
    t.setL1Set core fetch line { x.put k { line := line, st := .s, words := words } with tree := treeUsed x.tree k }

/-- A core's L1s are written back and hold nothing (R296, R315). -/
def State.flushL1 (s : State) (core : Nat) : State :=
  let mine := s.mem.l1.filter fun (k, _) => decide (k / 512 = core ∧ k % 512 < 256)
  let t := mine.foldl (fun t (_, x) => x.ways.foldl (fun u w => u.spillL1 core w.line) t) s
  { t with mem := { t.mem with l1 := Tab.keep (fun k => decide (k / 512 ≠ core)) t.mem.l1 } }

/-! ## Lock regions (R279 to R284) -/

/-- A lock region: an L2 region of a cluster (TGT 0 to 47) or an LLC region (48 to 55). -/
structure Region where
  llc : Bool
  cluster : Nat
  base : Nat
  lines : Nat
  part : Nat
  ways : Nat
  first : Nat
  wx : Bool
  state : Nat
  ctl : PWord
  deriving DecidableEq, Repr

/-- The region that TGT names, as its registers stand; bases and spans in lines. -/
def State.region (s : State) (tgt : Nat) : Region :=
  if tgt < 48 then
    let c := tgt / 4
    let r := tgt % 4
    { llc := false, cluster := c, base := s.fget (Reg.CH_L2B_BASE c r) * 2 ^ 11, lines := s.fget (Reg.CH_L2C_WAYS c r) * 2 ^ 11,
      part := s.fget (Reg.CH_L2C_PART c r), ways := s.fget (Reg.CH_L2C_WAYS c r), first := s.fget (Reg.CH_L2C_FIRST c r),
      wx := s.fbit (Reg.CH_L2C_WX c r), state := s.fget (Reg.CH_L2C_STATE c r), ctl := Reg.CH_L2C c r }
  else
    let r := tgt - 48
    { llc := true, cluster := 0, base := s.fget (Reg.CH_LLB_BASE r) * 2 ^ 15, lines := s.fget (Reg.CH_LLC_WAYS r) * 2 ^ 15,
      part := s.fget (Reg.CH_LLC_PART r), ways := s.fget (Reg.CH_LLC_WAYS r), first := s.fget (Reg.CH_LLC_FIRST r),
      wx := false, state := s.fget (Reg.CH_LLC_STATE r), ctl := Reg.CH_LLC r }

def Region.has (r : Region) (line : Nat) : Bool := decide (r.base ≤ line ∧ line < r.base + r.lines)

def Region.overlaps (a b : Region) : Bool := decide (a.base < b.base + b.lines ∧ b.base < a.base + a.lines)

/-- Whether a region lies wholly inside another. -/
def Region.inside (a b : Region) : Bool := decide (b.base ≤ a.base ∧ a.base + a.lines ≤ b.base + b.lines)

/-- Region states (R281). -/
def rgOff : Nat := 0
def rgLoading : Nat := 1
def rgLocked : Nat := 2
def rgDraining : Nat := 3

def State.llcRegions (s : State) : List Region := (List.range 8).map fun r => s.region (48 + r)

def State.l2Regions (s : State) (c : Nat) : List Region := (List.range 4).map fun r => s.region (4 * c + r)

/-- Whether a line lies in an LLC region that is LOCKED. -/
def State.inLockedLlc (s : State) (line : Nat) : Bool := s.llcRegions.any fun r => decide (r.state = rgLocked) && r.has line

/-- Whether a line lies in an LLC region that is not OFF. -/
def State.inLlcRegion (s : State) (line : Nat) : Bool := s.llcRegions.any fun r => decide (r.state ≠ rgOff) && r.has line

/-- The state of the L2 region of cluster `c` that holds a line, 0 where none does. -/
def State.l2RegionState (s : State) (c line : Nat) : Nat :=
  ((s.l2Regions c).find? (fun r => decide (r.state ≠ rgOff) && r.has line)).elim 0 (·.state)

/-- Ways of an L2, or of the LLC, that no region that is not OFF occupies. -/
def openWays (rs : List Region) : Nat := 16 - ((rs.filter fun r => decide (r.state ≠ rgOff)).map (·.ways)).foldl (· + ·) 0

/-! ## Corrections and errors (R274 to R276, R293) -/

/-- The structure that holds the copy an agent reads: its L2, or the home slice (CH_ELOGB.SRC). -/
def copyAt (a line : Nat) : Nat := if a < 12 then a else 12 + homeSlice line

/-- A correction in a structure (R274, R276): counted, and recorded unless it repeats the last one within 1 s. -/
def State.corrected (s : State) (x line word : Nat) (l1 : Bool) : State :=
  let s1 := s.fadd (Reg.CH_CNT_CE x) 1
  let pw := 16 * line + word
  let last := Tab.get { word := 0, ns := 0 } s1.mem.lastCorr x
  let known := s1.mem.lastCorr.any fun (k, _) => decide (k = x)
  if known ∧ last.word = pw ∧ s1.nowNs ≤ last.ns + nsPerSec then s1
  else
    let e := elogWords line word 0 x l1
    let s2 := { s1 with mem := { s1.mem with lastCorr := Tab.insert s1.mem.lastCorr x { word := pw, ns := s1.nowNs } } }
    s2.record tyMemory 1 0 x (BitVec.ofNat 36 line) [[e.1, e.2, 0, 0]]

/-- An uncorrectable word of a modified copy (R275): the log, the count, the event and the record. -/
def State.uncorrectable (s : State) (x line word syn : Nat) (l1 : Bool) : State :=
  let e := elogWords line word syn x l1
  (s.chUe x line word syn l1).record tyMemory 2 0 x (BitVec.ofNat 36 line) [[e.1, e.2, 0, 0]]

/-- A read meets a lost word (R293). -/
def State.lostRead (s : State) (line x : Nat) : State :=
  let s1 := s.flag Reg.CH_EVT_LOSTRD Reg.CH_EVT_LOSTRD_MORE
  if Tab.get false s.mem.lostSeen line then s1
  else
    let s2 := ({ s1 with mem := { s1.mem with lostSeen := Tab.set false s1.mem.lostSeen line true } }).raise 81
    s2.record tyMemory 3 0 x (BitVec.ofNat 36 line)

/-! ## A word of a copy (R272 to R275) -/

/-- What a copy delivers of a word: the word, a poisoned or lost one, one that it has just found uncorrectable with no good copy below,
or nothing yet, or an error response. -/
inductive Got where
  | word (v : Word)
  | poison
  | lost
  | ue
  | wait
  | error
  deriving DecidableEq, Repr

/-- What a reading delivers that needs no repair from below. -/
def Reading.got : Reading → Got
  | .good v => .word v
  | .corrected v _ => .word v
  | .poison => .poison
  | .lost => .lost
  | .bad _ => .ue

/-- The LLC copy of a word that is uncorrectable while DRAM's is stale is poisoned (R275). -/
def State.llcPoison (s : State) (line word syn : Nat) : State :=
  let e := s.dir line
  (s.setDir line (e.put word (poisonWord (dataOf (e.words.getD word 0))))).uncorrectable (12 + homeSlice line) line word syn false

/-- A word read from the LLC copy of a line (R274, R275). -/
def State.llcGet (s : State) (line word : Nat) : State × Got :=
  let x := 12 + homeSlice line
  let e := s.dir line
  match readSealed (e.words.getD word 0) with
  | .corrected v _ => ((s.setDir line (e.put word (sealWord v))).corrected x line word false, .word v)
  | .bad syn =>
    if e.dirty then (s.llcPoison line word syn, .ue)
    else match s.fetchLine line with
      | .wait => (s, .wait)
      | .error => (s, .error)
      | .data t ws bad =>
        let u := (t.setDir line { e with words := ws }).corrected x line word false
        match readSealed (ws.getD word 0) with
        | .bad syn2 => (u.llcPoison line word syn2, .ue)
        | r => (u, if bad.contains word then .ue else r.got)
  | r => (s, r.got)

/-- A word read from an agent's copy of a line (R274, R275): an unmodified copy is refilled from the LLC. -/
def State.agentGet (s : State) (a line word : Nat) : State × Got :=
  let x := copyAt a line
  let c := s.agentLine a line
  let sw := c.words.getD word 0
  match readSealed sw with
  | .corrected v _ => ((s.setAgentLine a line (c.put word (sealWord v))).corrected x line word false, .word v)
  | .bad syn =>
    if c.st = .m ∨ c.st = .evictingData then
      ((s.setAgentLine a line (c.put word (poisonWord (dataOf sw)))).uncorrectable x line word syn false, .ue)
    else match s.llcGet line word with
      | (t, .wait) => (t, .wait)
      | (t, .error) => (t, .error)
      | (t, g) => ((t.setAgentLine a line { c with words := (t.dir line).words }).corrected x line word false, g)
  | r => (s, r.got)

/-- A word read from a core's L1 (R274, R275): an unmodified copy is refilled from the L2. -/
def State.l1Get (s : State) (core : Nat) (fetch : Bool) (line word : Nat) : State × Got :=
  let x := core / 4
  let c := s.l1Way core fetch line
  let sw := c.words.getD word 0
  match readSealed sw with
  | .corrected v _ =>
    ((s.setL1Way core fetch line { c with words := putAt 0 c.words word (sealWord v) }).corrected x line word true, .word v)
  | .bad syn =>
    if c.st = .m then
      ((s.setL1Way core fetch line { c with words := putAt 0 c.words word (poisonWord (dataOf sw)) }).uncorrectable x line word syn
        true, .ue)
    else match s.agentGet x line word with
      | (t, .wait) => (t, .wait)
      | (t, .error) => (t, .error)
      | (t, g) =>
        ((t.setL1Way core fetch line { c with words := (t.agentLine x line).words }).corrected x line word true, g)
  | r => (s, r.got)

/-! ## Lines that leave -/

/-- A line's modified words of an agent reach the LLC (R287); a dead agent's do not (R291). -/
def State.takeBack (s : State) (a line : Nat) : State :=
  if s.dead a then s else
  let t := s.gather a line
  let x := t.agentLine a line
  if x.st = .m ∨ x.st = .evictingData then t.setDir line { t.dir line with words := x.words, dirty := true } else t

/-- An agent no longer holds a line, nor do its L1s (R268). -/
def State.loseCopy (s : State) (a line : Nat) : State := (s.dropL1 a line).setAgentLine a line AgentLine.none

/-- Every live agent has given a line up, and the LLC has its newest words (R268, R270). -/
def State.recall (s : State) (line : Nat) : State :=
  let t := s.liveAgents.foldl (fun t a => (t.takeBack a line).loseCopy a line) s
  if (t.dir line).st = .absent then t else t.setDir line { t.dir line with st := .dn, ptrs := [] }

/-- Whether DRAM takes a line now: its channel answers, with service or with an error. -/
def State.dramAnswers (s : State) (line : Nat) : Bool :=
  match s.mapLine line with
  | none => true
  | some d => match s.chanAnswer d.ch with
    | .wait => false
    | _ => true

/-- A line leaves the chip (R268, R270): every holder has given it up, and a line newer than DRAM is written back; false where its channel
does not answer yet. -/
def State.evictLine (s : State) (line : Nat) : State × Bool :=
  let t := s.recall line
  let e := t.dir line
  if e.dirty then
    if t.dramAnswers line then ((t.storeLine line e.words).setDir line DirEntry.none, true) else (t, false)
  else (t.setDir line DirEntry.none, true)

/-- The line used least recently among some lines. -/
def oldestLine : List (Nat × Nat) → Option Nat
  | [] => none
  | x :: t => some (t.foldl (fun b y => if y.2 < b.2 then y else b) x).1

/-! ## Queues at the home (R288) -/

def LineQ.idle : LineQ := { service := none, snoops := [], answers := [], queue := [] }

def State.lineQ (s : State) (line : Nat) : LineQ := Tab.get LineQ.idle s.mem.lineq line

def State.setLineQ (s : State) (line : Nat) (q : LineQ) : State :=
  { s with mem := { s.mem with lineq := Tab.set LineQ.idle s.mem.lineq line q } }

/-! ## Room (R270, R281, R286) -/

/-- The ordinary lines of the LLC set of a line, with their turns and whether nobody holds them; a line whose home is busy stays. -/
def State.llcMates (s : State) (line : Nat) : List (Nat × DirEntry) :=
  s.mem.dirs.filter fun (l, _) =>
    decide (homeSlice l = homeSlice line ∧ llcSet l = llcSet line) && !s.inLlcRegion l && decide (s.lineQ l = LineQ.idle)

/-- The victim of an LLC set (R270): the least recently used line that nobody holds, else the least recently used. -/
def llcVictim (mates : List (Nat × DirEntry)) : Option Nat :=
  (oldestLine ((mates.filter fun (_, e) => decide (e.st = .dn)).map fun (l, e) => (l, e.used))).orElse fun _ =>
    oldestLine (mates.map fun (l, e) => (l, e.used))

/-- Room in the LLC set of a line: an unlocked way is freed where all of them are taken (R270); false where the victim's channel does
not answer yet. -/
def State.makeRoom (s : State) (line : Nat) : State × Bool :=
  if s.inLlcRegion line then (s, true)
  else
    let mates := s.llcMates line
    if mates.length < openWays s.llcRegions then (s, true)
    else match llcVictim mates with
      | some v => s.evictLine v
      | none => (s, true)

/-- Whether a line of agent `a` is an ordinary one: it takes no place of a lock region of its L2. -/
def State.ordinary (s : State) (a line : Nat) : Bool := decide (12 ≤ a) || decide (s.l2RegionState a line = rgOff)

/-- Lines that agents beside the clusters hold at most (R286). -/
def agentCap (a : Nat) : Nat := [512, 64, 16, 256].getD (a - 12) 0

/-- Whether two lines compete for places in an agent: those of one L2 set, or any two of another agent. -/
def rivals (a l line : Nat) : Bool := decide (12 ≤ a) || decide (l2Set l = l2Set line)

/-- The ordinary lines that an agent holds, or is giving up, in the places where a line goes. -/
def State.mates (s : State) (a line : Nat) : List (Nat × AgentLine) :=
  (s.mem.agents.filterMap fun (k, x) => if k / 2 ^ 32 = a then some (k % 2 ^ 32, x) else none).filter fun (l, _) =>
    rivals a l line && s.ordinary a l

/-- Lines that an agent has asked for and does not hold yet, in the places where a line goes. -/
def State.asked (s : State) (a line : Nat) : Nat :=
  (s.mem.lineq.filter fun (l, q) =>
    decide (l ≠ line) && rivals a l line && s.ordinary a l && decide (s.agentSt a l = .i) &&
      (q.service.toList ++ q.queue).any fun r => decide (r.agent = a ∧ (r.op = .rds ∨ r.op = .rdx))).length

/-- Places for ordinary lines of an agent, in the set of a line. -/
def State.wayCount (s : State) (a : Nat) : Nat := if a < 12 then openWays (s.l2Regions a) else agentCap a

/-- An agent leaves an entry (R287). -/
def DirEntry.remove (e : DirEntry) (x : Nat) : DirEntry :=
  match e.st with
  | .ds | .dx =>
    let ps := e.ptrs.filter fun a => decide (a ≠ x)
    if ps = [] then { e with st := .dn, ptrs := [] } else { e with ptrs := ps }
  | _ => e

/-- A WBD or EVN takes effect at the home (R287, R289): the agent no longer holds the line. -/
def State.applyEvict (s : State) (a line : Nat) : State :=
  let x := s.agentLine a line
  let e := s.dir line
  let t := s.setAgentLine a line AgentLine.none
  if ¬ x.st.evicting then s
  else if x.st = .evictingData then
    if e.st = .dx ∧ e.ptrs = [a] then t.setDir line { e with st := .dn, ptrs := [], dirty := true, words := x.words } else t
  else t.setDir line (e.remove a)

/-- An agent begins to give a line up (R268, R289): it has left the L1s. -/
def State.beginEvict (s : State) (a line : Nat) : State :=
  let t := (s.gather a line).dropL1 a line
  let x := t.agentLine a line
  t.setAgentLine a line { x with st := if x.st = .m then .evictingData else .evictingClean }

/-- An agent gives a line up: a home that is idle acknowledges at once, another holds the request in its queue (R288, R289). -/
def State.giveLine (s : State) (a line : Nat) : State :=
  let t := s.beginEvict a line
  let q := t.lineQ line
  let op := if t.agentSt a line = .evictingData then LineOp.wbd else LineOp.evn
  if t.dead a then s
  else if q.service = none ∧ q.queue = [] then t.applyEvict a line
  else t.setLineQ line { q with queue := q.queue ++ [{ agent := a, op := op }] }

/-- Room in an agent for a line that it is to hold (R270, R286): false where every place is taken by a line on its way out. -/
def State.roomFor (s : State) (a line : Nat) : State × Bool :=
  if s.agentSt a line ≠ .i ∨ ¬ s.ordinary a line then (s, true)
  else if (s.mates a line).length + s.asked a line < s.wayCount a then (s, true)
  else match oldestLine (((s.mates a line).filter fun (_, x) => x.st.holds).map fun (l, x) => (l, x.used)) with
    | none => (s, false)
    | some v =>
      let t := s.giveLine a v
      (t, decide ((t.mates a line).length + t.asked a line < t.wayCount a))

/-- The outcome of bringing a line on chip; `ok` with the words that the read of DRAM found uncorrectable. -/
inductive Fill where
  | ok (bad : List Nat)
  | wait
  | error
  deriving DecidableEq, Repr

/-- Whether a slice's domain was lost (R296). -/
def State.sliceLost (s : State) (line : Nat) : Bool := s.mem.lostSlices.contains (homeSlice line)

/-- The LLC uses a line (R270). -/
def State.touchDir (s : State) (line : Nat) (e : DirEntry) : State :=
  let t := s.nextTurn
  t.setDir line { e with used := t.mem.turn }

/-- A line is on chip for its home, filled from DRAM on a miss (R287), and counts as used. -/
def State.fill (s : State) (line : Nat) : State × Fill :=
  if s.sliceLost line then (s, .error)
  else if (s.dir line).st ≠ .absent then (s.touchDir line (s.dir line), .ok [])
  else match s.fetchLine line with
    | .error => (s, .error)
    | .wait => (s, .wait)
    | .data t ws bad =>
      match t.makeRoom line with
      | (_, false) => (s, .wait)
      | (u, true) => (u.touchDir line { DirEntry.none with st := .dn, words := ws }, .ok bad)

end Sys2Proof.Machine
end

