-- ==== Sys2Proof/Machine/Cache.lean ====
section
/-! DEFINITION. Coherence (spec/09_caches_coherence.md): requests at the home of a line, snoops, the accesses of cores and agents, lock
regions and their commands, dead agents. -/

namespace Sys2Proof.Machine

/-! ## Requests at the home (R287 to R290) -/

/-- The holders that an entry names: its pointers, or every live agent in DB. -/
def State.holders (s : State) (e : DirEntry) : List Nat :=
  match e.st with
  | .ds => e.ptrs
  | .dx => e.ptrs
  | .db => s.liveAgents
  | _ => []

/-- The agents a request's service snoops (R287); a dead agent is answered for at once (R291). -/
def State.snoopList (s : State) (e : DirEntry) (r : LineReq) : List Nat :=
  let hs := (s.holders e).filter fun a => !s.dead a
  match r.op with
  | .rds => if e.st = .dx then hs.filter (fun a => decide (a ≠ r.agent)) else []
  | .rdx => hs.filter fun a => decide (a ≠ r.agent)
  | .upg => hs.filter fun a => decide (a ≠ r.agent)
  | .wrh _ t => hs.filter fun a => decide (t.map Fin.val ≠ some a)
  | _ => []

/-- Words written whole into the LLC copy, which is then newer than DRAM. -/
def State.putWords (s : State) (line : Nat) (ws : List (Fin 16 × Word)) : State :=
  let e := ws.foldl (fun (e : DirEntry) (i, v) => e.put i.val (sealWord v)) (s.dir line)
  s.setDir line { e with dirty := true }

/-- Whether the places where a pushed line goes in a cluster are all taken by lines on their way out (R290); a line of a lock region has
its own. -/
def State.allEvicting (s : State) (c line : Nat) : Bool :=
  s.ordinary c line && decide (s.wayCount c ≤ ((s.mates c line).filter fun (l, x) => decide (l ≠ line) && x.st.evicting).length)

/-- Whether a pushed line can be taken by a cluster (R290). -/
def State.canPush (s : State) (c line : Nat) : Bool :=
  decide (s.domState (48 + c) = 1) && !s.dead c && !s.allEvicting c line

/-- A sharer joins an entry (R287). -/
def DirEntry.addSharer (e : DirEntry) (x : Nat) : DirEntry :=
  if e.st = .db ∨ e.ptrs.contains x then e
  else if 3 ≤ e.ptrs.length then { e with st := .db, ptrs := [] }
  else { e with st := .ds, ptrs := e.ptrs ++ [x] }

/-- An agent takes a line with the words of the LLC; one that holds it keeps its own. -/
def State.take (s : State) (a line : Nat) (st : LineSt) : State :=
  let x := s.agentLine a line
  let t := s.nextTurn
  t.setAgentLine a line { st := st, words := if x.st.holds then x.words else (s.dir line).words, used := t.mem.turn }

/-- A line pushed to a cluster, or left in the LLC where it cannot be taken (R290). -/
def State.push (s : State) (c line : Nat) : State :=
  let dropped (t : State) : State :=
    (t.setDir line { t.dir line with st := .dn, ptrs := [] }).flag Reg.CH_EVT_WHDROP Reg.CH_EVT_WHDROP_MORE
  if ¬ s.canPush c line then dropped s
  else match s.roomFor c line with
    | (t, false) => dropped t
    | (t, true) => (t.setDir line { t.dir line with st := .dx, ptrs := [c] }).take c line .e

/-- The answers are in: the request takes effect by the table of R287. -/
def State.grant (s : State) (line : Nat) (r : LineReq) : State :=
  let e := s.dir line
  let x := r.agent
  match r.op with
  | .rds =>
    if (s.agentSt x line).holds then s
    else if e.st = .dn ∧ ¬ s.inLockedLlc line then (s.setDir line { e with st := .dx, ptrs := [x] }).take x line .e
    else
      let e1 := if e.st = .dx then { e with st := .ds, ptrs := e.ptrs.filter fun a => (s.agentSt a line).holds } else e
      (s.setDir line (e1.addSharer x)).take x line .s
  | .rdx | .upg =>
    let keep := s.agentSt x line = .m
    (s.setDir line { e with st := .dx, ptrs := [x] }).take x line (if keep then .m else .e)
  | .wbd => s.applyEvict x line
  | .evn => s.applyEvict x line
  | .wrh ws t =>
    match t with
    | none => let u := s.putWords line ws; u.setDir line { u.dir line with st := .dn, ptrs := [] }
    | some c => ((((s.takeBack c.val line).loseCopy c.val line).putWords line ws).push c.val line)

/-- The home takes requests of a line one at a time (R288): the next one starts where none is in service. `n` bounds the
requests that complete at once, one after the other. -/
def State.pump (line : Nat) : Nat → State → State
  | 0, s => s
  | n + 1, s =>
    let q := s.lineQ line
    match q.service, q.queue with
    | none, r :: rest =>
      match s.fill line with
      | (t, .wait) => t
      | (t, .error) => State.pump line n ({ t with rerr := true }.setLineQ line { q with queue := rest })
      | (t, .ok _) =>
        let snoops := t.snoopList (t.dir line) r
        if snoops = [] then State.pump line n ((t.setLineQ line { q with queue := rest }).grant line r)
        else t.setLineQ line { service := some r, snoops := snoops, answers := [], queue := rest }
    | _, _ => s

/-- A request reaches the home of its line; a dead agent's messages are dropped (R291). -/
def State.enqueue (s : State) (line : Nat) (r : LineReq) : State :=
  if s.dead r.agent then s
  else
    let q := s.lineQ line
    (s.setLineQ line { q with queue := q.queue ++ [r] }).pump line (q.queue.length + 1)

/-- A snoop reaches an agent (R287): it gives the line up, or shares it, sends what it has modified, and answers. One that is giving the
line up answers so at once, and holds it until the home has the answer (R289). -/
def State.snoopArrives (a line : Nat) (s : State) : State :=
  let q := s.lineQ line
  match q.service with
  | none => s
  | some r =>
    if ¬ q.snoops.contains a then s
    else
      let t :=
        if s.dead a ∨ (s.agentSt a line).evicting then s
        else
          let u := s.takeBack a line
          if r.op = .rds ∧ (u.agentSt a line).holds then u.setAgentLine a line { u.agentLine a line with st := .s }
          else u.loseCopy a line
      t.setLineQ line { q with snoops := q.snoops.erase a, answers := q.answers ++ [a] }

/-- The home has the answer of an agent that was giving the line up: it takes the data from the WBD, which it acknowledges as superseded
(R289). -/
def State.supersede (s : State) (a line : Nat) : State :=
  if s.dead a ∨ ¬ (s.agentSt a line).evicting then s
  else
    let t := (s.takeBack a line).setAgentLine a line AgentLine.none
    let q := t.lineQ line
    t.setLineQ line { q with queue := q.queue.filter fun r => decide (¬ (r.agent = a ∧ (r.op = .wbd ∨ r.op = .evn))) }

/-- An answer reaches the home; with the last of them the request takes effect and the next one starts (R288). -/
def State.answerArrives (a line : Nat) (s : State) : State :=
  match (s.lineQ line).service with
  | none => s
  | some r =>
    if ¬ (s.lineQ line).answers.contains a then s
    else
      let t := s.supersede a line
      let q := t.lineQ line
      let left := q.answers.erase a
      if left = [] ∧ q.snoops = [] then
        ((t.grant line r).setLineQ line { service := none, snoops := [], answers := [], queue := q.queue }).pump line
          (q.queue.length + 1)
      else t.setLineQ line { q with answers := left }

/-- An agent asks for a line, once it has a place for it (R270, R286). -/
def State.ask (s : State) (a line : Nat) (op : LineOp) : State :=
  match s.roomFor a line with
  | (t, true) => t.enqueue line { agent := a, op := op }
  | (t, false) => t

/-- RDS (R287). -/
def runRds (a : Fin 16) (line : BitVec 32) (s : State) : State :=
  if s.agentSt a.val line.toNat ≠ .i then s else s.ask a.val line.toNat .rds

/-- RDX (R287). -/
def runRdx (a : Fin 16) (line : BitVec 32) (s : State) : State :=
  let st := s.agentSt a.val line.toNat
  if st = .e ∨ st = .m ∨ st.evicting then s else s.ask a.val line.toNat .rdx

/-- UPG (R287): from an agent that holds the line in S; from one that no longer holds it, served as RDX. -/
def runUpg (a : Fin 16) (line : BitVec 32) (s : State) : State :=
  let st := s.agentSt a.val line.toNat
  if st = .e ∨ st = .m ∨ st.evicting then s else s.ask a.val line.toNat (if st = .s then .upg else .rdx)

/-- WBD (R287, R289): a line held in M is evicted; no line of a locked way is (R270). -/
def runWbd (a : Fin 16) (line : BitVec 32) (s : State) : State :=
  let l := line.toNat
  if s.agentSt a.val l = .m && s.ordinary a.val l && !s.dead a.val then
    (s.beginEvict a.val l).enqueue l { agent := a.val, op := .wbd }
  else s

/-- EVN (R287, R289): notice that a line in S or E is dropped. -/
def runEvn (a : Fin 16) (line : BitVec 32) (s : State) : State :=
  let l := line.toNat
  if (s.agentSt a.val l = .s || s.agentSt a.val l = .e) && s.ordinary a.val l && !s.dead a.val then
    (s.beginEvict a.val l).enqueue l { agent := a.val, op := .evn }
  else s

/-- WRH (R287, R290). -/
def runWrh (a : Fin 16) (line : BitVec 32) (words : List (Fin 16 × Word)) (target : Option (Fin 12)) (s : State) : State :=
  s.enqueue line.toNat { agent := a.val, op := .wrh words target }

/-- SNOOP (R289). -/
def runSnoop (a : Fin 16) (line : BitVec 32) (s : State) : State := s.snoopArrives a.val line.toNat

/-- SNOOP_ANSWER (R288, R289). -/
def runSnoopAnswer (a : Fin 16) (line : BitVec 32) (s : State) : State := s.answerArrives a.val line.toNat

/-! ## Accesses of an agent -/

/-- The request in service completes: its snoops reach their agents and the answers the home. -/
def State.settleOnce (line : Nat) (s : State) : State :=
  let s1 := (s.lineQ line).snoops.foldl (fun t a => t.snoopArrives a line) s
  (s1.lineQ line).answers.foldl (fun t a => t.answerArrives a line) s1

/-- Every request that reached the home before has been served. -/
def State.settle (s : State) (line : Nat) : State :=
  let n := (s.lineQ line).queue.length + 1
  (List.range n).foldl (fun t _ => t.settleOnce line) (s.pump line n)

/-- An access of a cluster to a line of its LOCKED L2 region that finds the line invalid is counted (R284). -/
def State.countMiss (s : State) (a line : Nat) : State :=
  if a < 12 ∧ s.l2RegionState a line = rgLocked then s.fadd (Reg.CH_LKMISS_COUNT a) 1 else s

/-- An agent obtains a line to read, or to write (R287, R288): after every request that came before, and once it has a place for it. -/
def State.obtain (s : State) (a line : Nat) (write : Bool) : State × Fill :=
  if s.sliceLost line then (s, .error)
  else
    let s1 := s.settle line
    if (s1.agentSt a line).suffices write then (s1.touchAgent a line, .ok [])
    else if s1.dead a then (s1, .wait)
    else match s1.roomFor a line with
      | (t, false) => (t, .wait)
      | (t, true) =>
        match t.fill line with
        | (u, .ok bad) =>
          let st := u.agentSt a line
          let op := if write then (if st = .s then LineOp.upg else LineOp.rdx) else LineOp.rds
          let v := (u.enqueue line { agent := a, op := op }).settle line
          (if st.holds then v else v.countMiss a line, .ok bad)
        | r => r

/-- An agent beside the clusters gives up a line it has read (R286). -/
def State.giveUp (s : State) (a line : Nat) : State :=
  if a < 12 ∨ ¬ (s.agentSt a line).holds then s else (s.giveLine a line).settle line

/-- The outcome of a memory access: its value, a data error with its sub-cause (0 to 3), or a wait. -/
inductive MemRes (α : Type) where
  | ok (a : α)
  | err (sub : Nat)
  | wait
  deriving DecidableEq, Repr

/-- What a reader gets of a word (R272, R275, R293); `fresh` where the read of DRAM has just found it uncorrectable. -/
def State.deliver (s : State) (x line : Nat) (fresh : Bool) (g : Got) : State × MemRes Word :=
  match g with
  | .word v => (s, .ok v)
  | .poison => (s, .err (if fresh then 0 else 1))
  | .lost => (s.lostRead line x, .err 2)
  | .ue => (s, .err 0)
  | .wait => (s, .wait)
  | .error => (s, .err 3)

/-- A word of normal memory as an agent reads it (R272 to R275, R293). -/
def State.readMem (s : State) (a : Nat) (pw : PWord) : State × MemRes Word :=
  let line := pw / 16
  let w := pw % 16
  match s.obtain a line false with
  | (t, .wait) => (t, .wait)
  | (t, .error) => (t, .err 3)
  | (t, .ok bad) =>
    let r := (t.gather a line).agentGet a line w
    (r.1.giveUp a line).deliver (copyAt a line) line (bad.contains w) r.2

/-- A word of normal memory as a core reads it: from its L1, else by way of its L2 (R268, R269, R272 to R275). -/
def State.coreRead (s : State) (core : Nat) (fetch : Bool) (pw : PWord) : State × MemRes Word :=
  let line := pw / 16
  let w := pw % 16
  let c := core / 4
  if s.sliceLost line then (s, .err 3)
  else if s.inL1 core fetch line then
    let r := (s.touchL1 core fetch line).l1Get core fetch line w
    r.1.deliver c line false r.2
  else match s.obtain c line false with
    | (t, .wait) => (t, .wait)
    | (t, .error) => (t, .err 3)
    | (t, .ok bad) =>
      let r := (t.gather c line).agentGet c line w
      (r.1.installL1 core fetch line (r.1.agentLine c line).words).deliver c line (bad.contains w) r.2

/-- The word whose nonets `en` come from `new` and the others from `old`. -/
def mergeNonets (en : BitVec 4) (new old : Word) : Word :=
  (List.range 4).foldl (fun w i => if en.getLsbD i then setBits w (9 * i) 9 (bits new (9 * i) 9) else w) old

/-- How words merge into a line (R277): all of them, with one that met poison or loss, or not until memory answers. -/
inductive Merge where
  | ok
  | poison
  | wait
  deriving DecidableEq, Repr

/-- One word of a store (R277), by the read and the write of the copy that takes it. -/
def State.mergeWord (get : State → State × Got) (put : State → Sealed → State) (s : State) (en : BitVec 4) (v : Word) : State × Merge :=
  if en = 0 then (s, .ok)
  else if en = 15 then (put s (sealWord v), .ok)
  else match get s with
    | (t, .word old) => (put t (sealWord (mergeNonets en v old)), .ok)
    | (t, .wait) => (t, .wait)
    | (t, _) => (t, .poison)

/-- The words of a store, in order. -/
def State.mergeWords (get : Nat → State → State × Got) (put : Nat → State → Sealed → State) :
    List (Nat × BitVec 4 × Word) → State → State × Merge
  | [], s => (s, .ok)
  | (w, en, v) :: t, s =>
    match State.mergeWord (get w) (put w) s en v with
    | (u, .wait) => (u, .wait)
    | (u, r) =>
      match State.mergeWords get put t u with
      | (x, .ok) => (x, r)
      | x => x

/-- A word of a core's L1D copy replaced. -/
def State.putL1 (core line w : Nat) (s : State) (v : Sealed) : State :=
  let x := s.l1Way core false line
  s.setL1Way core false line { x with words := putAt 0 x.words w v }

/-- The L1D copy of a line that a core is about to write: every other copy of the cluster's L1s is gone (R269, R283). -/
def State.ownL1 (s : State) (core line : Nat) : State :=
  let others := (clusterCores (core / 4)).filter fun n => decide (n ≠ core)
  let t := others.foldl (fun t n => State.dropFrom line (t.spillL1 n line) n) s
  let u := t.setL1Way core true line L1Way.none
  if u.inL1 core false line then u.touchL1 core false line
  else u.installL1 core false line (u.agentLine (core / 4) line).words

/-- A core writes words of one line (R192, R277): its L1D holds the line in M, or, where the write goes through (`hint`, R250, or a lock
region's line, R283), the L2 holds the words as well. `.err` is a sub-cause of code 0o23: 1 poisoned, 0 no target. -/
def State.coreWrite (s : State) (core line : Nat) (hint : Bool) (ws : List (Nat × BitVec 4 × Word)) : State × MemRes Unit :=
  let c := core / 4
  match s.obtain c line true with
  | (t, .wait) => (t, .wait)
  | (t, .error) => (t, .err 0)
  | (t, .ok _) =>
    match State.mergeWords (fun w u => u.l1Get core false line w) (State.putL1 core line) ws (t.ownL1 core line) with
    | (u, .wait) => (u, .wait)
    | (u, r) =>
      let x := u.l1Way core false line
      let v := u.setAgentLine c line { u.agentLine c line with st := .m }
      let m := v.setL1Way core false line { x with st := .m }
      (if hint || !s.ordinary c line then m.spillL1 core line else m, if r = .poison then .err 1 else .ok ())

/-- The home has the newest words of a line, which its holder shares from then on; nobody else takes a copy (a read of R250 that is not
cached). -/
def State.shareHome (s : State) (line : Nat) : State :=
  let e := s.dir line
  if e.st ≠ .dx then s
  else
    let t := e.ptrs.foldl (fun t a =>
      if t.dead a then t
      else
        let u := t.takeBack a line
        if (u.agentSt a line).holds then u.setAgentLine a line { u.agentLine a line with st := .s } else u) s
    t.setDir line { t.dir line with st := .ds }

/-- A word of DRAM read through a device leaf (R250): from its home, uncached. -/
def State.homeRead (s : State) (pw : PWord) : State × MemRes Word :=
  let line := pw / 16
  let w := pw % 16
  match (s.settle line).fill line with
  | (t, .wait) => (t, .wait)
  | (t, .error) => (t, .err 3)
  | (t, .ok bad) =>
    let r := (t.shareHome line).llcGet line w
    r.1.deliver (12 + homeSlice line) line (bad.contains w) r.2

/-- Words of DRAM written through a device leaf (R250): at their home, once every holder has given the line up. -/
def State.homeWrite (s : State) (line : Nat) (ws : List (Nat × BitVec 4 × Word)) : State × MemRes Unit :=
  match (s.settle line).fill line with
  | (t, .wait) => (t, .wait)
  | (t, .error) => (t, .err 0)
  | (t, .ok _) =>
    match State.mergeWords (fun w u => u.llcGet line w) (fun w u v => u.setDir line ((u.dir line).put w v)) ws (t.recall line) with
    | (u, .wait) => (u, .wait)
    | (u, r) => (u.setDir line { u.dir line with dirty := true }, if r = .poison then .err 1 else .ok ())

/-- The newest words of a line on chip: of an L1D that holds it in M, else of an agent that does, else of the LLC; none where the chip does
not hold it. -/
def State.newestLine (s : State) (line : Nat) : Option (List Sealed) :=
  match s.liveAgents.find? fun a => decide (s.agentSt a line = .m) with
  | some a =>
    match (if a < 12 then clusterCores a else []).find? fun n => decide ((s.l1Way n false line).st = .m) with
    | some n => some (s.l1Way n false line).words
    | none => some (s.agentLine a line).words
  | none => if (s.dir line).st = .absent then none else some (s.dir line).words

/-! ## Scrubbing (R278) -/

/-- Every line that structure `src` holds in the set of `line`. -/
def State.scrubLines (s : State) (src line : Nat) : List Nat :=
  if src < 12 then
    (s.mem.agents.filter fun (k, x) => decide (k / 2 ^ 32 = src) && x.st.holds && decide (l2Set k = l2Set line)).map
      fun (k, _) => k % 2 ^ 32
  else
    (s.mem.dirs.filter fun (l, _) => decide (homeSlice l = src - 12 ∧ llcSet l = llcSet line)).map (·.1)

/-- SCRUB (R278): every way of one set, each word handled as R274 and R275 say. -/
def runScrub (src : Fin 20) (line : BitVec 32) (s : State) : State :=
  if ¬ s.fbit Reg.CH_CFG_SCRUBEN then s
  else
    let one (u : State) (l w : Nat) : State := if src.val < 12 then (u.agentGet src.val l w).1 else (u.llcGet l w).1
    (s.scrubLines src.val line.toNat).foldl (fun t l => (List.range 16).foldl (fun u w => one u l w) t) s

/-! ## Lock region commands -/

/-- CH_RES after a command. -/
def State.chResult (s : State) (status : Nat) : State := (s.fset Reg.CH_RES_STATUS status).fset Reg.CH_RES_DONE 1

/-- A command of CH_LKCMD (R13, R282). -/
def State.lkCommand (s : State) (op tgt : Nat) (f : Region → State × Nat) : State :=
  let g := s.region tgt
  if 55 < tgt ∨ g.ways = 0 ∨ 12 < g.ways ∨ g.first < 4 ∨ 16 < g.first + g.ways then
    (s.refusal stsBadArg 0 0o7777 blkCH op tgt).chResult stsBadArg
  else match f g with
    | (t, 0) => t.chResult 0
    | (_, n) => (s.refusal n 0 0o7777 blkCH op tgt).chResult n

/-- Regions that share an L2, or the LLC, with a region, but for itself. -/
def State.peers (s : State) (tgt : Nat) : List Region :=
  let ts := if tgt < 48 then (List.range 4).map (fun r => tgt / 4 * 4 + r) else (List.range 8).map (48 + ·)
  (ts.filter fun t => decide (t ≠ tgt)).map s.region

/-- Whether the ways of two regions overlap (R279, R280). -/
def Region.sharesWays (a b : Region) : Bool := decide (a.first < b.first + b.ways ∧ b.first < a.first + a.ways)

/-- The conditions of R282 under which LOAD is refused. -/
def State.loadRefused (s : State) (tgt : Nat) (g : Region) : Bool :=
  decide (g.state ≠ rgOff) ||
  (s.peers tgt).any (fun h => decide (h.state ≠ rgOff) && g.sharesWays h) ||
  (!g.llc && !s.llcRegions.any (fun h => decide (h.state = rgLocked ∧ h.part = g.part) && g.inside h)) ||
  (!g.llc && g.wx && (List.range 48).any (fun t =>
      decide (t / 4 ≠ g.cluster) && decide ((s.region t).state ≠ rgOff) && g.overlaps (s.region t))) ||
  !(List.range 32).any (fun k => s.windowCovers g.part g.base (g.base + g.lines - 1) k)

/-- An ordinary line whose set has more lines than ways left: the least recently used of the set leaves. -/
def State.trimL2 (a : Nat) (s : State) (line : Nat) : State :=
  if (s.mates a line).length ≤ s.wayCount a then s
  else match oldestLine (((s.mates a line).filter fun (_, x) => x.st.holds).map fun (l, x) => (l, x.used)) with
    | some v => s.giveLine a v
    | none => s

/-- The same of a set of the LLC. -/
def State.trimLlc (s : State) (line : Nat) : State :=
  if (s.llcMates line).length ≤ openWays s.llcRegions then s
  else match llcVictim (s.llcMates line) with
    | some v => (s.evictLine v).1
    | none => s

/-- No ordinary line stays in the ways that a region takes (R281). -/
def State.clearWays (s : State) (g : Region) : State :=
  if g.llc then (s.mem.dirs.map (·.1)).foldl State.trimLlc s
  else ((s.mem.agents.filter fun (k, _) => decide (k / 2 ^ 32 = g.cluster)).map fun (k, _) => k % 2 ^ 32).foldl (State.trimL2 g.cluster) s

/-- LOAD (R281, R282). -/
def runLoad (tgt : BitVec 6) (s : State) : State :=
  s.lkCommand 1 tgt.toNat fun g =>
    if s.loadRefused tgt.toNat g then (s, stsConflict) else ((s.fset ⟨g.ctl, 13, 2⟩ rgLoading).clearWays g, 0)

/-- Whether a partition has an enabled class-D entry whose HOME pair the test accepts (R282). -/
def State.classDAt (s : State) (p : Nat) (at_ : Nat → Bool) : Bool :=
  s.entryList.any fun (c, e) => s.inRange p c && !e.classG && e.en && at_ e.home

/-- UNLOCK (R281, R282). -/
def runUnlock (tgt : BitVec 6) (s : State) : State :=
  s.lkCommand 2 tgt.toNat fun g =>
    let inner := g.llc && (List.range 48).any fun t => decide ((s.region t).state ≠ rgOff) && (s.region t).inside g
    let used := s.classDAt g.part fun home => g.llc || decide (home / 2 = g.cluster)
    if g.state ≠ rgLocked || inner || used then (s, stsConflict) else (s.fset ⟨g.ctl, 13, 2⟩ rgDraining, 0)

/-- A line of a region that is loading comes into its place (R281, R283); false while it is not there. -/
def State.loadLine (g : Region) (st : State × Bool) (line : Nat) : State × Bool :=
  let s := st.1
  if g.llc then
    match s.fill line with
    | (t, .ok _) => (t, st.2)
    | (t, _) => (t, false)
  else match s.obtain g.cluster line g.wx with
    | (t0, .ok _) =>
      let t := t0.gather g.cluster line
      let held := t.agentSt g.cluster line
      if g.wx ∨ held = .s then (t, st.2)
      else
        let u := t.takeBack g.cluster line
        ((u.setAgentLine g.cluster line { u.agentLine g.cluster line with st := .s }).setDir line { u.dir line with st := .ds }, st.2)
    | (t, _) => (t, false)

/-- LOCK_LOAD_COMPLETE (R281): LOCKED once the last line is in place. -/
def runLockLoadComplete (tgt : BitVec 6) (s : State) : State :=
  let g := s.region tgt.toNat
  if 55 < tgt.toNat ∨ g.state ≠ rgLoading then s
  else
    let r := ((List.range g.lines).map (g.base + ·)).foldl (State.loadLine g) (s, true)
    if r.2 then ((r.1.fset ⟨g.ctl, 13, 2⟩ rgLocked).flag Reg.CH_EVT_LKDONE Reg.CH_EVT_LKDONE_MORE).raise 83 else r.1

/-- A line of a region that drains leaves its way (R281); false while it is still there. -/
def State.unloadLine (g : Region) (st : State × Bool) (line : Nat) : State × Bool :=
  let s := st.1.settle line
  if g.llc then
    if (s.dir line).st = .absent then (s, st.2)
    else
      let r := s.evictLine line
      (r.1, st.2 && r.2)
  else
    let t := if (s.agentSt g.cluster line).holds then (s.giveLine g.cluster line).settle line else s
    (t, st.2 && decide (t.agentSt g.cluster line = .i))

/-- LOCK_DRAIN_COMPLETE (R281): OFF once the region's lines have left. -/
def runLockDrainComplete (tgt : BitVec 6) (s : State) : State :=
  let g := s.region tgt.toNat
  if 55 < tgt.toNat ∨ g.state ≠ rgDraining then s
  else
    let lines := (s.mem.dirs.map (·.1)).filter g.has
    let r := lines.foldl (State.unloadLine g) (s, true)
    if r.2 then r.1.fset ⟨g.ctl, 13, 2⟩ rgOff else r.1

/-- A store to a region's BASE or CTL word (R282): refused while the region is not OFF. -/
def runChRegionStore (req : Requester) (va : Word) (tgt : Nat) (a : PWord) (v : Word) (s : State) : State :=
  if (s.region tgt).state ≠ rgOff ∧ (s.storeGuard req.level a).isNone then s.flag Reg.CH_EVT_LKREF Reg.CH_EVT_LKREF_MORE
  else s.regStore req va a v

/-! ## Dead agents (R291 to R293) -/

/-- One entry of the sweep (R292). -/
def State.sweepLine (a : Nat) (s : State) (line : Nat) : State :=
  let e := s.dir line
  match e.st with
  | .ds => s.setDir line (e.remove a)
  | .dx =>
    if e.ptrs.contains a then
      s.setDir line { e with st := .dn, ptrs := [], dirty := true, words := e.words.map fun w => lostWord (dataOf w) }
    else s
  | _ => s

/-- A line's queue without a dead agent: its own requests are dropped, and a snoop to it is answered at once. -/
def State.sweepQueue (a : Nat) (s : State) (line : Nat) : State :=
  let q := s.lineQ line
  let s1 := s.setLineQ line { q with queue := q.queue.filter fun r => decide (r.agent ≠ a) }
  let s2 := (s1.snoopArrives a line).answerArrives a line
  let q2 := s2.lineQ line
  match q2.service with
  | some r =>
    if r.agent = a ∧ r.op ≠ .rds ∧ r.op ≠ .rdx ∧ r.op ≠ .upg then s2
    else if r.agent = a then (s2.setLineQ line { q2 with service := none, snoops := [], answers := [] }).pump line (q2.queue.length + 1)
    else s2
  | none => s2

/-- What an agent's structures held is gone: its domain has lost its supply, or is powered up anew. -/
def State.wipeAgent (s : State) (a : Nat) : State :=
  { s with mem := { s.mem with
    agents := Tab.keep (fun k => decide (k / 2 ^ 32 ≠ a)) s.mem.agents
    l1 := Tab.keep (fun k => decide (k / 512 / 4 ≠ a)) s.mem.l1 } }

/-- An agent is declared dead (R291): every slice sweeps its entries. What it holds stays its own until its domain is powered up. -/
def State.declareDead (s : State) (a : Nat) : State :=
  if a = 15 ∨ s.dead a then s
  else
    let s1 := (s.rset Reg.CH_STAT (setBits (s.rget Reg.CH_STAT) a 1 1)).fset Reg.CH_STAT_RECL 1
    let s2 := (s1.flag Reg.CH_EVT_DEAD Reg.CH_EVT_DEAD_MORE).raise 82
    let s3 := s2.record tyMemory 4 0 a 0
    let s4 := (s3.mem.dirs.map (·.1)).foldl (State.sweepLine a) s3
    let s5 := { s4 with mem := { s4.mem with unclean := a :: s4.mem.unclean.filter (· ≠ a) } }
    (s5.mem.lineq.map (·.1)).foldl (State.sweepQueue a) s5

/-- DECLARE_DEAD (R291): the command of CH_DCMD. -/
def runDeclareDead (a : Fin 16) (s : State) : State :=
  if a.val = 15 ∨ s.dead a.val then (s.refusal stsConflict 0 0o7777 blkCH 1 a.val).chResult stsConflict
  else (s.declareDead a.val).chResult 0

/-- The power domain of an agent. -/
def agentDomain (a : Nat) : Nat := if a < 12 then 48 + a else [82, 81, 84, 87].getD (a - 12) 87

/-- DECLARE_LIVE (R293). -/
def runDeclareLive (a : Fin 16) (s : State) : State :=
  if ¬ s.dead a.val ∨ s.fbit Reg.CH_STAT_RECL ∨ s.domState (agentDomain a.val) ≠ 1 ∨ s.mem.unclean.contains a.val then
    (s.refusal stsConflict 0 0o7777 blkCH 2 a.val).chResult stsConflict
  else (s.rset Reg.CH_STAT (setBits (s.rget Reg.CH_STAT) a.val 1 0)).chResult 0

/-- AGENT_FAULT (R291): the holder signals an unrecoverable internal fault. -/
def runAgentFault (a : Fin 16) (s : State) : State := s.declareDead a.val

/-- SWEEP_COMPLETE (R292). -/
def runSweepComplete (s : State) : State := s.fset Reg.CH_STAT_RECL 0

/-! ## DRAM requests of the slices -/

/-- DRAM_WRITE_REQUEST (R332): a home slice writes its copy of a line to DRAM; a full queue keeps it waiting. -/
def runDramWriteRequest (line : BitVec 32) (s : State) : State :=
  let l := line.toNat
  match s.mapLine l with
  | none => s
  | some d =>
    let e := s.dir l
    let q := (s.chan d.ch).wq
    let room := decide (q.length < 64) || q.any (fun w => decide (w.rank = (s.servedAt d).rank ∧ w.cl = d.cl))
    match s.chanAnswer d.ch with
    | .serve t =>
      if e.st ≠ .absent ∧ e.dirty ∧ room then (t.storeLine l e.words).setDir l { e with dirty := false } else t
    | _ => s

/-- DRAM_READ_REQUEST (R325, R332): a line in the write queue is answered from it; else the read waits in its channel's queue, and a full
queue keeps the slice waiting. -/
def runDramReadRequest (line : BitVec 32) (part : Fin 16) (s : State) : State :=
  match s.mapLine line.toNat with
  | none => { s with rerr := true }
  | some d =>
    match s.chanAnswer d.ch with
    | .serve s1 =>
      let x := s1.chan d.ch
      let e := s1.servedAt d
      if x.wq.any fun w => decide (w.rank = e.rank ∧ w.cl = e.cl) then
        ((s1.fill line.toNat).1).pump line.toNat ((s1.lineQ line.toNat).queue.length + 1)
      else if 64 ≤ x.rq.length then s
      else s1.setChan d.ch { x with rq := x.rq ++ [{ line := line.toNat, part := part.val, at_ := s.cyc }] }
    | .wait => s
    | .error => { s with rerr := true }

/-- DRAM_READ_RETURN (R332, R337, R338): the oldest read issued returns, and its line is on chip. -/
def runDramReadReturn (ch : Fin 6) (s : State) : State :=
  let x := s.chan ch.val
  match x.issued with
  | [] => s
  | r :: rest =>
    let s1 := s.setChan ch.val { x with issued := rest }
    let s2 := (s1.fill r.line).1
    s2.pump r.line ((s2.lineQ r.line).queue.length + 1)

end Sys2Proof.Machine
end

