-- ==== Sys2Proof/Machine/Perf.lean ====
section
/-! DEFINITION. The counters of a core (R202 to R208). -/

namespace Sys2Proof.Machine

/-- Control register `k` of a core's counters (0 to 7 PMSELj, 8 PMOVF, 9 PMSPC, 10 PMSINF). -/
def State.pmr (s : State) (core k : Nat) : Word := Tab.get 0 s.core.pmr (16 * core + k)

def State.setPmr (s : State) (core k : Nat) (v : Word) : State :=
  { s with core := { s.core with pmr := Tab.set 0 s.core.pmr (16 * core + k) v } }

/-- Programmable counter `j` of a core. -/
def State.pmc (s : State) (core j : Nat) : BitVec 72 := Tab.get 0 s.core.pmc (8 * core + j)

def State.setPmc (s : State) (core j : Nat) (v : BitVec 72) : State :=
  { s with core := { s.core with pmc := Tab.set 0 s.core.pmc (8 * core + j) v } }

/-- A W1C bit of a word with its MORE bit. -/
def flagWord (w : Word) (bit more : Nat) : Word := if bitAt w bit then setBits w more 1 1 else setBits w bit 1 1

/-- Words of a slot's image (R68). -/
def iwPc : Nat := 0
def iwNpc : Nat := 1
def iwStatus : Nat := 2
def iwWctl : Nat := 3
def iwSlhead : Nat := 4
def iwSpc : Nat := 5
def iwTtb : Nat := 10
def iwPerfctl : Nat := 12
def iwRuncyc : Nat := 13
def iwCtxid : Nat := 14
def iwTp : Nat := 15

/-- Whether the context in a slot is in the secure world (R121). -/
def State.secureCtx (s : State) (i : Nat) : Bool := bitAt (s.img i iwCtxid) 29

/-- A counter wraps (R206): the overflow flag, and a sample where PMSELj.OVI asks for one, of the slot's instruction that issued last. -/
def State.counterWraps (s : State) (slot j : Nat) : State :=
  let c := slot / 8
  let s1 := (s.setPmc c j 0).setPmr c 8 (flagWord (s.pmr c 8) j (8 + j))
  if ¬ bitAt (s.pmr c j) 21 then s1
  else if bitAt (s1.pmr c 10) 20 then s1.setPmr c 10 (setBits (s1.pmr c 10) 21 1 1)
  else
    let ctx := bits (s.img slot iwCtxid) 0 12
    let inf := slot % 8 + ctx * 8 + j * 2 ^ 15 + (s.slot slot).lastLvl * 2 ^ 18 + 2 ^ 20
    (s1.setPmr c 9 (s.slot slot).lastPc).setPmr c 10 (BitVec.ofNat 36 inf ||| (s1.pmr c 10 &&& maskBits 21 1))

/-- Whether counter `j` of the slot's core counts event `ev` of the slot, at level `lvl` in a world (R203). -/
def State.counts (s : State) (slot lvl : Nat) (secure : Bool) (ev j : Nat) : Bool :=
  let sel := s.pmr (slot / 8) j
  let special := secure || decide (lvl = 3)
  bitAt sel 23 && decide (bits sel 0 10 = ev) &&
    (decide (ev = 1) ||
      (bitAt sel (10 + slot % 8) && bitAt (s.img slot iwPerfctl) j && (decide (lvl = 3) || bitAt sel (18 + lvl)) &&
        (!special || bitAt sel 22)))

/-- Counter `j` adds one. -/
def State.countOne (slot : Nat) (s : State) (j : Nat) : State :=
  let c := slot / 8
  let v := s.pmc c j
  if v = BitVec.allOnes 72 then s.counterWraps slot j else s.setPmc c j (v + 1)

/-- Event `ev` of a slot whose context stood at level `lvl` in a world when it came (R203); event 0 and events not in the table count
nothing. -/
def State.perfAt (s : State) (slot lvl : Nat) (secure : Bool) (ev : Nat) : State :=
  if ev = 0 ∨ 0o36 < ev then s
  else ((List.range 8).filter (s.counts slot lvl secure ev)).foldl (State.countOne slot) s

/-- Event `ev` of a slot. -/
def State.perf (s : State) (slot ev : Nat) : State := s.perfAt slot (s.level slot) (s.secureCtx slot) ev

/-- The data of a slot's access delay its next instruction to `d` cycles after the request, or come without a bound (R183, R185); a fetch
delays no other instruction so. -/
def State.late (s : State) (i : Nat) (fetch : Bool) (d : Option Nat) : State :=
  let x := s.slot i
  if fetch then s
  else match d with
    | some n => s.setSlot i { x with next := Nat.max x.next (s.cyc + n) }
    | none => s.setSlot i { x with away := true }

/-- COUNTER_WRAP (R206): counter `j`, all ones, counts an event of the slot. -/
def runCounterWrap (slot : Fin 384) (j : Fin 8) (s : State) : State :=
  if s.pmc (slot.val / 8) j.val = BitVec.allOnes 72 then s.counterWraps slot.val j.val else s

end Sys2Proof.Machine
end

