-- ==== Sys2Proof/Machine/Mmu.lean ====
section
/-! DEFINITION. Translation and protection (spec/08_memory_management.md): the walk, the checks on an access, partition
windows, TLBs, TLBI and pins. -/

namespace Sys2Proof.Machine

/-! ## The physical space (R238, R422) -/

def paDramEnd : Nat := 0o3000000000000
def paOutEnd : Nat := 0o3600000000000
def paFirn : Nat := 0o3776000000000
def paRegs : Nat := 0o3777000000000
def paIsland : Nat := 0o3777400000000

/-- Secure SRAM (R422). -/
def isSram (pa : Nat) : Bool := decide (0o3777400000000 ≤ pa ∧ pa < 0o3777402000000)

/-- Boot ROM (R422). -/
def isRom (pa : Nat) : Bool := decide (0o3777500000000 ≤ pa ∧ pa < 0o3777500200000)

/-- A device region (R238). -/
def isDevice (pa : Nat) : Bool := decide (paDramEnd ≤ pa)

/-- Memory that a normal leaf may reach: DRAM, and the island's SRAM and ROM (R424). -/
def isMemory (pa : Nat) : Bool := decide (pa < paDramEnd) || isSram pa || isRom pa

/-! ## Who makes an access -/

/-- A trap's cause, before its level is known (R211). -/
structure Trap where
  code : Nat
  sub : Nat
  faddr : Word
  deriving DecidableEq, Repr

/-- The outcome of an operation that may trap or wait. -/
inductive Out (α : Type) where
  | ok (a : α)
  | trap (t : Trap)
  | wait
  deriving DecidableEq, Repr

/-- On whose behalf an access is translated: level, world, partition, the root in force, SUG, and whether it is LDU or STU. -/
structure Who where
  level : Nat
  secure : Bool
  part : Nat
  root : Word
  sug : Bool
  asU : Bool
  deriving DecidableEq, Repr

/-- The partition of the context in a slot. -/
def State.slotPart (s : State) (i : Nat) : Nat := bits (s.img i iwCtxid) 24 4

/-- The root in force for the context in a slot (R209, R256, R425). -/
def State.rootOf (s : State) (i : Nat) (asU : Bool) : Word :=
  if s.level i = 3 then s.rget Reg.RK_MTTB
  else if s.level i = 2 ∧ ¬ asU then s.rget (Reg.CP_ETTB (s.slotPart i) (b2n (s.secureCtx i)))
  else s.img i iwTtb

/-- The context in a slot as it makes an access. -/
def State.who (s : State) (i : Nat) (asU : Bool := false) : Who :=
  { level := s.level i, secure := s.secureCtx i, part := s.slotPart i, root := s.rootOf i asU,
    sug := bitAt (s.img i iwStatus) 8, asU := asU }

/-- Kinds of access (R248). -/
inductive Kind where
  | fetch | load | store | atomic
  deriving DecidableEq, Repr

/-- The sub-cause of an access kind; an atomic is checked as a load first. -/
def Kind.sub : Kind → Nat
  | .fetch => 0
  | .load => 1
  | .store => 2
  | .atomic => 1

/-! ## Windows (R252, R427, R428) -/

/-- Whether an access at `pa` with the permissions `need` (1 R, 2 W, 4 X) lies inside what the partition may reach. -/
def State.reachable (s : State) (w : Who) (pa need : Nat) : Bool :=
  let u := pa / 64
  if w.level = 3 then true
  else if w.secure then
    s.windowGrants w.part u u need ||
      (s.fbit (Reg.RK_SSL_V w.part) && decide (s.fget (Reg.RK_SSB_BASE w.part) ≤ u ∧ u ≤ s.fget (Reg.RK_SSL_LIMIT w.part)))
  else s.windowGrants w.part u u need && !s.secureUnit u

/-- Permissions an access needs of a window. -/
def Kind.need : Kind → Nat
  | .fetch => 4
  | .load => 1
  | .store => 2
  | .atomic => 3

/-- The sub-cause of a window fault, none where the access is allowed (R252). -/
def State.windowFault (s : State) (w : Who) (k : Kind) (pa : Nat) : Option Nat :=
  if s.reachable w pa k.need then none
  else if k = .atomic then (if s.reachable w pa 1 then some 2 else some 1)
  else some k.sub

/-! ## The walk (R240 to R247) -/

/-- Trailing ones of a number, up to `n` of them. -/
def trailingOnes : Nat → Nat → Nat
  | 0, _ => 0
  | n + 1, v => if v % 2 = 1 then trailingOnes n (v / 2) + 1 else 0

/-- The size exponent of a leaf, none where its code is malformed (R242). -/
def leafSize (lvl : Nat) (coded : Bool) (frame : Nat) : Option Nat :=
  let t := trailingOnes 26 frame
  if lvl = 3 ∧ ¬ coded then some 12
  else if lvl = 3 then (if t ≤ 9 then some (13 + t) else none)
  else if lvl = 2 then (if t ≤ 10 ∧ frame / 2 ^ t % 2 ^ 10 = 0 then some (22 + t) else none)
  else if t ≤ 4 ∧ frame / 2 ^ t % 2 ^ 20 = 0 then some (32 + t) else none

/-- What a table entry is (R241). -/
inductive Pte where
  | invalid
  | pointer (frame : Nat) (coded : Bool)
  | leaf (z pbase : Nat)
  | malformed
  deriving DecidableEq, Repr

/-- A table word read in a table of a level (R240 to R242). -/
def readPte (lvl : Nat) (coded : Bool) (e : Word) : Pte :=
  let frame := bits e 10 26
  if ¬ bitAt e 0 then .invalid
  else if bits e 1 3 = 0 then (if lvl < 3 then .pointer frame (bitAt e 7) else .malformed)
  else if bitAt e 2 && !bitAt e 1 then .malformed
  else match leafSize lvl coded frame with
    | none => .malformed
    | some z => .leaf z (frame / 2 ^ (z - 12) * 2 ^ z)

/-- The index of a level in a virtual address (R237). -/
def vaIndex (va : Word) (lvl : Nat) : Nat :=
  if lvl = 1 then bits va 32 4 else if lvl = 2 then bits va 22 10 else bits va 12 10

/-- The TLB entry that a walk of `va` makes of a leaf word (R245, R255). -/
def leafEntry (w : Who) (va e : Word) (z pb : Nat) : TlbEntry :=
  { vbase := va.toNat / 2 ^ z * 2 ^ z, z := z, pbase := pb, r := bitAt e 1, w := bitAt e 2, x := bitAt e 3, u := bitAt e 4,
    g := bitAt e 5, a := bitAt e 6, d := bitAt e 7, attr := bits e 8 2, secure := w.secure, part := w.part, root := bits w.root 0 32,
    pinned := false, inD := false, inI := false, used := 0, ue := false }

/-- What a walk finds (R245); `n` bounds the levels left. -/
def State.walkFrom (agent : Nat) (w : Who) (k : Kind) (va : Word) : Nat → Nat → Nat → Bool → State → State × Out TlbEntry
  | 0, _, _, _, s => (s, .trap ⟨0o11, k.sub, va⟩)
  | n + 1, t, lvl, coded, s =>
    let a := t + 4 * vaIndex va lvl
    if ¬ s.reachable w a 1 then (s, .trap ⟨0o16, 3, va⟩)
    else if isDevice a then (s, .trap ⟨0o15, 0, va⟩)
    else match s.readMem agent (a / 4) with
      | (t1, .wait) => (t1, .wait)
      | (t1, .err _) => (t1, .trap ⟨0o15, 1, va⟩)
      | (t1, .ok e) =>
        match readPte lvl coded e with
        | .invalid => (t1, .trap ⟨0o11, k.sub, va⟩)
        | .malformed => (t1, .trap ⟨0o11, k.sub, va⟩)
        | .pointer f d => State.walkFrom agent w k va n (f * 4096) (lvl + 1) (if lvl = 2 then d else coded) t1
        | .leaf z pb =>
          (t1, .ok (leafEntry w va e z pb))

/-- A walk of `va` under the root in force (R245, R258). -/
def State.walk (s : State) (agent : Nat) (w : Who) (k : Kind) (va : Word) : State × Out TlbEntry :=
  if ¬ bitAt w.root 35 then (s, .trap ⟨0o11, k.sub, va⟩)
  else State.walkFrom agent w k va 3 (bits w.root 0 32 * 64) 1 false s

/-! ## TLBs (R255 to R257) -/

/-- The core whose TLB a core uses: the main core's on a lockstep pair (R255). -/
def State.tlbCore (s : State) (c : Nat) : Nat := if s.pairState (c / 2) = lsLockstep then c / 2 * 2 else c

def State.tlb (s : State) (c : Nat) : List TlbEntry := Tab.get [] s.core.tlb (s.tlbCore c)

def State.setTlb (s : State) (c : Nat) (l : List TlbEntry) : State :=
  { s with core := { s.core with tlb := Tab.set [] s.core.tlb (s.tlbCore c) l } }

/-- Whether an entry's page contains an address. -/
def TlbEntry.covers (e : TlbEntry) (va : Word) : Bool := decide (va.toNat / 2 ^ e.z * 2 ^ e.z = e.vbase)

/-- Whether an entry matches an access (R256). -/
def TlbEntry.matches (e : TlbEntry) (w : Who) (va : Word) : Bool :=
  decide (e.secure = w.secure ∧ e.part = w.part) && e.covers va && (e.g || decide (e.root = bits w.root 0 32))

/-- The entry used least recently among those a test accepts. -/
def lruTlb (ok : TlbEntry → Bool) (l : List TlbEntry) : Option TlbEntry :=
  (l.filter ok).foldl (fun b e => match b with
    | none => some e
    | some x => if e.used ≤ x.used then some e else b) none

/-- An entry is installed, the newest first; the unpinned one unused for longest leaves where 512 are held (R255, R256). -/
def State.install (s : State) (c : Nat) (e : TlbEntry) : State :=
  let t := s.nextTurn
  let l := t.tlb c
  let l1 := if l.length < 512 then l else match lruTlb (fun x => !x.pinned) l with
    | some v => l.erase v
    | none => l
  t.setTlb c ({ e with used := t.mem.turn } :: l1)

/-- An entry is used by a fetch or a data access: it is in that first level, where the one unused longest makes room. -/
def State.touchTlb (s : State) (c : Nat) (fetch : Bool) (e : TlbEntry) : State :=
  let s1 := s.nextTurn
  let l := s1.tlb c
  let inL (x : TlbEntry) : Bool := if fetch then x.inI else x.inD
  let cap := if fetch then 32 else 64
  let l1 :=
    if inL e ∨ (l.filter inL).length < cap then l
    else match lruTlb inL l with
      | some v => l.map fun x => if x = v then (if fetch then { x with inI := false } else { x with inD := false }) else x
      | none => l
  let hot := if fetch then { e with inI := true, used := s1.mem.turn } else { e with inD := true, used := s1.mem.turn }
  s1.setTlb c (l1.map fun x => if x = e then hot else x)

/-! ## Checks on the access (R248, R249) -/

/-- Whether a leaf allows the access by its own bits: R or X or W of the table of R248. -/
def leafBits (e : TlbEntry) (w : Who) (k : Kind) : Option Nat :=
  let u := !(w.asU || decide (w.level = 0)) || e.u
  let has := match k with
    | .fetch => e.x
    | .load => e.r
    | .store => e.w
    | .atomic => e.r
  if !(has && u) then some k.sub
  else if k = .atomic && !e.w then some 2
  else if decide (w.level = 1) && w.sug && !w.asU && e.u then some 3
  else none

/-- The fault of a translated access: window, permission, access mark, dirty mark, in that order (R234). -/
def State.accessFault (s : State) (e : TlbEntry) (w : Who) (k : Kind) (va : Word) (pa : Nat) : Option Trap :=
  match s.windowFault w k pa with
  | some sub => some ⟨0o16, sub, va⟩
  | none =>
    match leafBits e w k with
    | some sub => some ⟨0o12, sub, va⟩
    | none =>
      if ¬ e.a then some ⟨0o13, k.sub, va⟩
      else if (k = .store ∨ k = .atomic) ∧ ¬ e.d then some ⟨0o14, 0, va⟩
      else none

/-- The physical address under an entry. -/
def TlbEntry.pa (e : TlbEntry) (va : Word) : Nat := e.pbase + va.toNat % 2 ^ e.z

/-! ## Pins (R263, R264) -/

def State.pins (s : State) (c : Nat) : List Pin := Tab.get [] s.core.pins (s.tlbCore c)

/-- LS_STATk.PINS counts the pins of a pair's list, those of its main core (R318). -/
def State.countPins (s : State) (k : Nat) : State :=
  s.fset (Reg.LS_STAT_PINS k) ((s.pins (2 * k)).filter fun p => decide (p.walk ≠ .command)).length

/-- The pins of a core; TL_PUSED and LS_STATk.PINS count them. -/
def State.setPins (s : State) (c : Nat) (l : List Pin) : State :=
  let s1 := { s with core := { s.core with pins := Tab.set [] s.core.pins (s.tlbCore c) l } }
  (s1.fset (Reg.TL_PUSED_COUNT (s.tlbCore c)) (l.filter fun p => decide (p.walk ≠ .command)).length).countPins (c / 2)

/-- A load of the normal world and the core's partition, under a pin's root. -/
def State.pinWho (s : State) (c : Nat) (root : Nat) : Who :=
  { level := 1, secure := false, part := s.pairOwner (c / 2), root := BitVec.ofNat 36 (2 ^ 35 + root % 2 ^ 32), sug := false, asU := false }

/-- Whether an entry is a pin's. -/
def Pin.owns (p : Pin) (e : TlbEntry) : Bool := e.pinned && e.covers p.va && decide (e.root = p.root)

/-- Whether a pin that its command has made is that of the page of `va` under a root (R262). -/
def Pin.covers (p : Pin) (root : Nat) (va : Word) : Bool :=
  decide (p.walk ≠ .command ∧ p.root = root ∧ va.toNat / 2 ^ p.z = p.va.toNat / 2 ^ p.z)

/-- A pin is lost (R263). -/
def State.pinLost (s : State) (c : Nat) (p : Pin) : State :=
  let m := s.tlbCore c
  let s1 := if s.fbit (Reg.TL_PSTAT_PINLOST m) then s else s.fset (Reg.TL_PLOST_VA m) p.va.toNat
  let s2 := s1.flag (Reg.TL_PSTAT_PINLOST m) (Reg.TL_PSTAT_PINLOST_MORE m)
  (s2.setPins c ((s2.pins c).erase p)).record tyMemory 6 (s.pairPart (c / 2)) m p.va

/-- TL_PRES of a core's page after a command. -/
def State.tlResult (s : State) (c status code sub : Nat) : State :=
  ((((s.fset (Reg.TL_PRES_STATUS c) status).fset (Reg.TL_PRES_CODE c) code).fset (Reg.TL_PRES_SUB c) sub).fset (Reg.TL_PRES_DONE c) 1)

/-- The command PIN ends with a status; one that is not done is refused with it (R13). -/
def State.pinResult (s : State) (c status code sub : Nat) : State :=
  let t := if status = 0 then s else s.refusal status (s.pairPart (c / 2)) 0o7777 blkTL 1 c
  t.tlResult c status code sub

/-- A pin's page is walked (R262, R263): the new entry is pinned; a trap loses the pin, or ends its command with FAULT; a walk that
memory does not answer is made again in the next cycle. -/
def State.refreshPin (c : Nat) (s : State) (p : Pin) : State :=
  match s.walk (c / 4) (s.pinWho c p.root) .load p.va with
  | (t, .ok e) =>
    let u := t.install c { e with pinned := true }
    let v := u.setPins c ((u.pins c).map fun q => if q = p then { p with z := e.z, walk := .none, waits := [] } else q)
    if p.walk = .command then v.pinResult c 0 0 0 else v
  | (t, .trap f) =>
    if p.walk = .command then (t.setPins c ((t.pins c).erase p)).pinResult c 6 f.code f.sub else t.pinLost c p
  | (t, .wait) =>
    t.setPins c ((t.pins c).map fun q => if q = p then { p with walk := if p.walk = .none then .refresh else p.walk } else q)

/-- The pins of a core whose walk is still to be made are walked. -/
def State.walkPins (s : State) (c : Nat) : State :=
  ((s.pins c).filter fun p => decide (p.walk ≠ .none)).foldl (State.refreshPin c) s

/-- Whether an access needs a page whose pin is being refreshed (R263). -/
def State.pinWaits (s : State) (c : Nat) (w : Who) (va : Word) : Bool :=
  !w.secure && decide (w.part = s.pairOwner (c / 2)) && (s.pins c).any fun p =>
    decide (p.walk = .refresh ∨ p.walk = .restore) && p.covers (bits w.root 0 32) va

/-- The entries of a page that read as uncorrectable are discarded, and pinned ones refreshed (R257). -/
def State.dropUe (s : State) (c : Nat) (w : Who) (va : Word) : State :=
  let gone := (s.tlb c).filter fun e => e.ue && e.matches w va
  if gone = [] then s
  else
    let t := s.setTlb c ((s.tlb c).filter fun e => !(e.ue && e.matches w va))
    ((t.pins c).filter fun p => gone.any p.owns).foldl (State.refreshPin c) t

/-! ## The entry for an access (R245, R256, R257) -/

/-- The entry for an access: from the TLB, else by a walk (R244, R245, R256, R257, R263); counts the misses (0o0026, 0o0027, 0o0030). -/
def State.lookup (s : State) (slot : Nat) (w : Who) (k : Kind) (va : Word) : State × Out TlbEntry :=
  let c := slot / 8
  let fetch := decide (k = .fetch)
  if ¬ bitAt w.root 35 then (s.perf slot (if fetch then 0o27 else 0o26), .trap ⟨0o11, k.sub, va⟩)
  else
    let s0 := s.dropUe c w va
    match (s0.tlb c).find? (fun e => e.matches w va) with
    | some e =>
      let s1 := if (if fetch then e.inI else e.inD) then s0
        else (s0.perf slot (if fetch then 0o27 else 0o26)).late slot fetch (some 10)
      (s1.touchTlb c fetch e, .ok e)
    | none =>
      if s0.pinWaits c w va then (s0, .wait)
      else
        match ((s0.perf slot (if fetch then 0o27 else 0o26)).perf slot 0o30).walk (slot / 32) w k va with
        | (t, .ok e) =>
          let u := (t.install c e).late slot fetch none
          (u.touchTlb c fetch ((u.tlb c).headD e), .ok e)
        | r => r

/-- Translation and its checks, up to the dirty mark (R245 to R249): the physical address and ATTR. -/
def State.translate (s : State) (slot : Nat) (w : Who) (k : Kind) (va : Word) : State × Out (Nat × Nat) :=
  match s.lookup slot w k va with
  | (t, .trap f) => (t, .trap f)
  | (t, .wait) => (t, .wait)
  | (t, .ok e) =>
    match t.accessFault e w k va (e.pa va) with
    | some f => (t, .trap f)
    | none => (t, .ok (e.pa va, e.attr))

/-- Access size, then access type (R5, R137, R149, R250): of a data access of `n` nonets. -/
def typeFault (k : Kind) (n pa attr : Nat) (va : Word) : Option Trap :=
  if isDevice pa ∧ ¬ isMemory pa ∧ n ≠ 4 then some ⟨0o4, 0, va⟩
  else if attr < 2 ∧ ¬ isMemory pa then some ⟨0o5, 0, va⟩
  else if k = .fetch ∧ 2 ≤ attr then some ⟨0o5, 0, va⟩
  else if k = .atomic ∧ isDevice pa ∧ ¬ isSram pa then some ⟨0o5, 0, va⟩
  else none

/-- A data access translated and checked in the order of R234. -/
def State.resolve (s : State) (slot : Nat) (w : Who) (k : Kind) (n : Nat) (va : Word) : State × Out (Nat × Nat) :=
  match s.translate slot w k va with
  | (t, .ok (pa, attr)) =>
    match typeFault k n pa attr va with
    | some f => (t, .trap f)
    | none => (t, .ok (pa, attr))
  | r => r

/-- TABLE_WALK (R245, R247): the walker serves a miss of the slot; a walk that traps installs nothing. -/
def runTableWalk (slot : Fin 384) (va : Word) (kind : Fin 3) (s : State) : State :=
  let k := [Kind.fetch, Kind.load, Kind.store].getD kind.val Kind.load
  let w := s.who slot.val
  if (s.slot slot.val).ctx.isNone ∨ (s.tlb (slot.val / 8)).any (fun e => e.matches w va && !e.ue) ∨ s.pinWaits (slot.val / 8) w va then s
  else match s.walk (slot.val / 32) w k va with
    | (t, .ok e) => t.install (slot.val / 8) e
    | (t, _) => t

/-! ## Pin commands (R262) -/

/-- Whether a core is the checker of a lockstep pair. -/
def State.isChecker (s : State) (c : Nat) : Bool := decide (s.pairState (c / 2) = lsLockstep ∧ c % 2 = 1)

/-- Whether a core takes no pin command (R262): pool, fenced with its pair or alone, or mismatch hold. -/
def State.pinBarred (s : State) (c : Nat) : Bool :=
  let st := s.pairState (c / 2)
  decide (16 ≤ s.pairOwner (c / 2)) || decide (st = lsFenced) || decide (st = lsHold) ||
    (decide (st = lsHalf) && !(s.pairCores (c / 2)).contains c)

/-- A command of TL_PCMD (R13, R262, R265): the checker of a lockstep pair takes none. `f` gives the status and the cause of a command that
ends at once, none for one whose walk memory does not answer yet. -/
def State.tlCommand (s : State) (op c : Nat) (bad : Bool) (f : State → State × Option (Nat × Nat × Nat)) : State :=
  let part := s.pairPart (c / 2)
  if ¬ s.fbit (Reg.TL_PRES_DONE c) then
    (s.flag (Reg.TL_PRES_BUSYHIT c) (Reg.TL_PRES_BUSYHIT_MORE c)).refusal stsBusy part 0o7777 blkTL op c
  else if s.isChecker c then (s.refusal stsConflict part 0o7777 blkTL op c).tlResult c stsConflict 0 0
  else if bad then (s.refusal stsBadArg part 0o7777 blkTL op c).tlResult c stsBadArg 0 0
  else if s.pinBarred c then (s.refusal stsConflict part 0o7777 blkTL op c).tlResult c stsConflict 0 0
  else match f s with
    | (t, none) => t
    | (t, some (status, code, sub)) =>
      (if status = 0 then t else t.refusal status part 0o7777 blkTL op c).tlResult c status code sub

/-- Whether TL_PROOT is in use. -/
def State.prootV (s : State) (c : Nat) : Bool := bitAt (s.rget (Reg.TL_PROOT c)) 35

/-- The root of TL_PROOT. -/
def State.proot (s : State) (c : Nat) : Nat := bits (s.rget (Reg.TL_PROOT c)) 0 32

/-- Whether the page of TL_PVA is pinned under TL_PROOT (R262), be its entry there or its refresh under way (R263). -/
def State.pinnedAt (s : State) (c : Nat) : Bool := (s.pins c).any fun p => p.covers (s.proot c) (s.rget (Reg.TL_PVA c))

/-- An entry that is a pin of the page of `va` under a root becomes an ordinary one (R262). -/
def TlbEntry.unpin (e : TlbEntry) (root : Nat) (va : Word) : TlbEntry :=
  if e.covers va ∧ e.root = root then { e with pinned := false } else e

/-- PIN (R262). -/
def runPin (core : Fin 48) (s : State) : State :=
  let c := core.val
  s.tlCommand 1 c (!s.prootV c) fun s =>
    if s.pinnedAt c then (s, some (0, 0, 0))
    else if 64 ≤ (s.pins c).length then (s, some (5, 0, 0))
    else
      let va := s.rget (Reg.TL_PVA c)
      let p : Pin := { va := va, root := s.proot c, z := 12, walk := .command, waits := [] }
      ((((s.fset (Reg.TL_PRES_DONE c) 0).setPins c (s.pins c ++ [p])).walkPins c), none)

/-- UNPIN (R262). -/
def runUnpin (core : Fin 48) (s : State) : State :=
  let c := core.val
  s.tlCommand 2 c (!s.prootV c) fun s =>
    if ¬ s.pinnedAt c then (s, some (stsConflict, 0, 0))
    else
      let va := s.rget (Reg.TL_PVA c)
      ((s.setTlb c ((s.tlb c).map fun x => x.unpin (s.proot c) va)).setPins c ((s.pins c).filter fun p => !p.covers (s.proot c) va),
        some (0, 0, 0))

/-- UNPIN ALL (R262): every pin of the core. -/
def runUnpinAll (core : Fin 48) (s : State) : State :=
  let c := core.val
  s.tlCommand 3 c false fun s =>
    ((s.setTlb c ((s.tlb c).map fun x => { x with pinned := false })).setPins c [], some (0, 0, 0))

/-- A store of OP 0 to TL_PCMD (R262). -/
def State.tlBadOp (s : State) (c : Nat) : State := s.tlCommand 0 c true fun s => (s, some (0, 0, 0))

/-- A core's TLBs and pins are emptied (R261). -/
def State.emptyTlb (s : State) (c : Nat) : State :=
  let s1 := { s with core := { s.core with tlb := Tab.set [] s.core.tlb c [], pins := Tab.set [] s.core.pins c [] } }
  (s1.fset (Reg.TL_PUSED_COUNT c) 0).countPins (c / 2)

/-! ## TLBI (R259, R260) -/

/-- Whether a TLBI removes an entry (R259). -/
def Tlbi.hits (t : Tlbi) (e : TlbEntry) : Bool :=
  decide (e.part = t.part ∧ e.secure = t.secure) &&
    (if t.form = 0 then e.covers t.arg else if t.form = 1 then !e.g && decide (e.root = bits t.arg 0 32) else true)

/-- Whether a store-buffer entry's translation came from a removed entry. -/
def StoreEntry.from_ (x : StoreEntry) (gone : List TlbEntry) : Bool :=
  gone.any fun e => e.covers x.va && decide (e.part = x.req.part.val ∧ e.secure = x.req.secure) && (e.g || decide (e.root = x.root))

/-- The store-buffer entries of a core that a TLBI's acknowledgement waits for are marked with it. -/
def State.markStores (s : State) (c id : Nat) (gone : List TlbEntry) : State :=
  (coreSlots c).foldl (fun t i =>
    let x := t.slot i
    t.setSlot i { x with sb := x.sb.map fun e => if e.from_ gone then { e with waits := e.waits ++ [id] } else e }) s

/-- A TLBI acts on a core (R259, R260, R263): matching entries go, and matching pins are walked again. -/
def State.tlbiActs (s : State) (t : Tlbi) : State :=
  let l := s.tlb t.core
  let gone := l.filter t.hits
  let s1 := s.setTlb t.core (l.filter fun e => !t.hits e)
  let s2 := s1.markStores t.core t.id gone
  let marked := (s2.pins t.core).map fun p =>
    if p.walk ≠ .command ∧ gone.any p.owns then { p with walk := if p.walk = .none then .refresh else p.walk, waits := p.waits ++ [t.id] } else p
  let s3 := (s2.setPins t.core marked).walkPins t.core
  { s3 with core := { s3.core with tlbis := s3.core.tlbis.map fun u => if u = t then { u with arrived := true } else u } }

/-- TLBI_ARRIVAL (R260): the TLBI issued first of those on their way to the core. -/
def runTlbiArrival (core : Fin 48) (s : State) : State :=
  match s.core.tlbis.find? (fun t => decide (t.core = core.val) && !t.arrived) with
  | some t => s.tlbiActs t
  | none => s

/-- Whether a store-buffer entry, or the refresh of a pin, of a core still holds a TLBI's acknowledgement (R260). -/
def State.heldBy (s : State) (c id : Nat) : Bool :=
  (coreSlots c).any (fun i => (s.slot i).sb.any fun e => e.waits.contains id) || (s.pins c).any fun p => p.waits.contains id

/-- TLBI_ACK (R260): the first TLBI that reached the core and that nothing holds there is acknowledged. -/
def runTlbiAck (core : Fin 48) (s : State) : State :=
  match s.core.tlbis.find? (fun t => decide (t.core = core.val) && t.arrived) with
  | some t => if s.heldBy core.val t.id then s else { s with core := { s.core with tlbis := s.core.tlbis.erase t } }
  | none => s

/-- The cores of a partition (R25). -/
def State.coresOf (s : State) (p : Nat) : List Nat :=
  (List.range 24).flatMap fun k => if s.pairOwner k = p then s.pairCores k else []

/-- A TLBI is issued to every core of a partition (R259, R260). -/
def State.issueTlbi (s : State) (slot form : Nat) (arg : Word) : State :=
  let p := s.slotPart slot
  let id := s.core.nextTlbi
  let new := (s.coresOf p).map fun c =>
    { id := id, core := c, slot := slot, form := form, arg := arg, part := p, secure := s.secureCtx slot, arrived := false : Tlbi }
  { s with core := { s.core with tlbis := s.core.tlbis ++ new, nextTlbi := id + 1 } }

/-! ## Window stores (R253, R254) -/

/-- TL_WB_STORE (R253). -/
def runTlWbStore (req : Requester) (va : Word) (p : Fin 16) (k : Fin 32) (v : Word) (s : State) : State :=
  let a := Reg.TL_WB p.val k.val
  if s.fbit (Reg.TL_WL_V p.val k.val) ∧ (s.storeGuard req.level a).isNone then s.flag Reg.TL_STAT_WREF Reg.TL_STAT_WREF_MORE
  else s.regStore req va a v

/-- Whether an entry was allowed by a window of a partition with these words (R252, R254). -/
def StoreEntry.under (e : StoreEntry) (p : Nat) (wb wl : Word) : Bool :=
  decide (e.req.part.val = p) && bitAt wb 33 && decide (bits wb 0 32 ≤ e.group / 4 ∧ e.group / 4 ≤ bits wl 0 32)

/-- TL_WL_STORE (R254): where it narrows a window or clears V, the entries that the old window allowed hold WPEND. -/
def runTlWlStore (req : Requester) (va : Word) (p : Fin 16) (k : Fin 32) (v : Word) (s : State) : State :=
  let a := Reg.TL_WL p.val k.val
  let old := s.rget a
  let wb := s.rget (Reg.TL_WB p.val k.val)
  let s1 := s.regStore req va a v
  let new := s1.rget a
  if bitAt old 32 && (!bitAt new 32 || decide (bits new 0 32 < bits old 0 32)) then
    let t := (s1.core.slots.map (·.1)).foldl (fun t i =>
      let x := t.slot i
      t.setSlot i { x with sb := x.sb.map fun e => if e.under p.val wb old then { e with wpend := true } else e }) s1
    t.fset Reg.TL_STAT_WPEND 1
  else s1

/-- WPEND_CLEAR (R254): once every such entry has drained. -/
def runWpendClear (s : State) : State :=
  if s.core.slots.any fun (_, x) => x.sb.any (·.wpend) then s else s.fset Reg.TL_STAT_WPEND 0

end Sys2Proof.Machine
end

