-- ==== Sys2Proof/Machine/Lockstep.lean ====
section
/-! DEFINITION. Lockstep pairs (spec/10_lockstep_pairs.md): pair states, mismatch hold, verdicts, fencing and takeover. -/

namespace Sys2Proof.Machine

/-- The pool as an owner of a pair (LS_STATk.OWNER). -/
def poolOwner : Nat := 0o37

/-- The slots of both cores of a pair. -/
def pairSlots (k : Nat) : List Nat := (List.range 16).map (16 * k + ·)

/-- A spare that is no longer both in the pool and in LOCKSTEP is reported once for each pair that names it (R312). -/
def State.spareLost (s : State) (j : Nat) (but : Option Nat) : State :=
  let named := (List.range 24).filter fun k =>
    s.fbit (Reg.LS_CFG_SPAREV k) && decide (s.fget (Reg.LS_CFG_SPARE k) = j) && decide (some k ≠ but)
  named.foldl (fun t _ => (t.flag Reg.LS_EVT_SPLOST Reg.LS_EVT_SPLOST_MORE).raise 54) s

/-- Whether a pair can be taken as a spare. -/
def State.isSpare (s : State) (j : Nat) : Bool := decide (s.pairOwner j = poolOwner ∧ s.pairState j = lsLockstep)

/-- A debug hold of a pair's cores ends (R548). -/
def State.unhaltPair (s : State) (k : Nat) : State := (s.unhalt (2 * k)).unhalt (2 * k + 1)

/-- A pair changes state: the record, the end of a debug hold, and the loss of a spare (R299, R312, R548). -/
def State.setPair (s : State) (k st : Nat) (but : Option Nat := none) : State :=
  let was := s.isSpare k
  let s1 := (s.unhaltPair k |>.fset (Reg.LS_STAT_STATE k) st).record tyLockstep 2 (s.pairPart k) k (BitVec.ofNat 36 st)
  if was ∧ ¬ s1.isSpare k then s1.spareLost k but else s1

/-- The core pages of a pair that passes to another owner take their reset values (R539). -/
def State.clearTracePages (s : State) (k : Nat) : State :=
  [2 * k, 2 * k + 1].foldl (fun t n => { t with regs := Tab.keep (fun a => decide (a < Reg.TR_CCFG n ∨ Reg.TR_CCFG n + 64 ≤ a)) t.regs }) s

/-- A pair passes to another partition or to the pool (R25, R261, R539, R548). -/
def State.giveTo (s : State) (k owner : Nat) (but : Option Nat := none) : State :=
  let was := s.isSpare k
  let s1 := ((((s.unhaltPair k).fset (Reg.LS_STAT_OWNER k) owner).emptyTlb (2 * k)).emptyTlb (2 * k + 1)).clearTracePages k
  if was ∧ ¬ s1.isSpare k then s1.spareLost k but else s1

/-- Counters and their control words of a core are cleared at power-up (R202). -/
def State.clearCounters (s : State) (c : Nat) : State :=
  { s with core := { s.core with pmc := Tab.keep (fun k => decide (k / 8 ≠ c)) s.core.pmc
                                 pmr := Tab.keep (fun k => decide (k / 16 ≠ c)) s.core.pmr } }

/-- The checker's counters and their control words take the main core's values (R315). -/
def State.copyCounters (s : State) (k : Nat) : State :=
  let s1 := (List.range 8).foldl (fun t j => t.setPmc (2 * k + 1) j (s.pmc (2 * k) j)) s
  (List.range 11).foldl (fun t j => t.setPmr (2 * k + 1) j (s.pmr (2 * k) j)) s1

/-- The L1D of a core is written back, and its L1s, fetch buffers and predictor are cleared (R307, R315). -/
def State.clearCore (s : State) (c : Nat) : State :=
  let t := s.flushL1 c
  let s1 := { t with core := { t.core with pred := Tab.set [] t.core.pred c [] } }
  (coreSlots c).foldl (fun t i => t.setSlot i { t.slot i with fetch := [], hist := 0, rstack := [] }) s1

/-- A core's domain is powered up, or gated. -/
def State.powerCore (s : State) (c : Nat) (on : Bool) : State :=
  if on then (if s.domState c = 1 then s else ((s.setDom c 1).clearCounters c).emptyTlb c)
  else ((s.setDom c 0).clearCore c).emptyTlb c

/-- Whether any slot of the cores holds or awaits a context. -/
def State.occupied (s : State) (slots : List Nat) : Bool := slots.any fun i => !(s.slot i).free

/-- Whether an enabled class-D entry names the pair as HOME (R300). -/
def State.homeUsed (s : State) (k : Nat) : Bool :=
  s.entryList.any fun (_, e) => !e.classG && e.en && decide (e.home = k) && decide (e.state ≠ stFree)

/-! ## Commands (R299, R300, R315, R316) -/

def State.lsResult (s : State) (k status : Nat) : State := (s.fset (Reg.LS_RES_STATUS k) status).fset (Reg.LS_RES_DONE k) 1

/-- A command of LS_CMDk: while DONE is 0 it sets BUSYHIT alone (R575); in TEST and HOLD its STATUS is BUSY (R300); else it is refused or
carried out. -/
def State.lsCommand (s : State) (op k : Nat) (ok : Bool) (f : State → State) : State :=
  let part := s.pairPart k
  if !s.fbit (Reg.LS_RES_DONE k) then
    (s.flag (Reg.LS_RES_BUSYHIT k) (Reg.LS_RES_BUSYHIT_MORE k)).refusal stsBusy part 0o7777 blkLS op k
  else if s.pairState k = lsTest ∨ s.pairState k = lsHold then
    (s.refusal stsBusy part 0o7777 blkLS op k).lsResult k stsBusy
  else if ok then (f s).lsResult k 0
  else (s.refusal stsConflict part 0o7777 blkLS op k).lsResult k stsConflict

/-- The four changes of R315 that take a pair to TEST. -/
def State.enterTest (s : State) (k : Nat) : State :=
  let s1 := (s.powerCore (2 * k) true).powerCore (2 * k + 1) true
  let s2 := ((s1.clearCore (2 * k)).clearCore (2 * k + 1)).copyCounters k
  let s3 := (s2.emptyTlb (2 * k)).emptyTlb (2 * k + 1)
  (s3.countPins k).setPair k lsTest

/-- LS_LOCKSTEP (R299, R300, R315). -/
def runLsLockstep (k : Fin 24) (s : State) : State :=
  let st := s.pairState k.val
  s.lsCommand 1 k.val (decide (st = lsOff ∨ st = lsSplit) && !s.occupied (pairSlots k.val)) fun s => s.enterTest k.val

/-- The checker's own L1s, predictor, TLB and pins start as the main core's, which they equalled in every cycle of lockstep (R302). -/
def State.copyToChecker (s : State) (k : Nat) : State :=
  let m := 2 * k
  let n := 2 * k + 1
  let s1 := (s.mem.l1.filter fun (x, _) => decide (x / 512 = m)).foldl (fun t (x, set) =>
    { t with mem := { t.mem with l1 := Tab.set L1Set.none t.mem.l1 (x + 512) set } }) s
  let s2 : State := { s1 with core := { s1.core with pred := Tab.set [] s1.core.pred n (Tab.get [] s1.core.pred m) } }
  let words := ([0, 1, 4, 5, 6].map fun j => (Reg.TL_PVA m + j, Reg.TL_PVA n + j)) ++
    (List.range 64).map fun j => (Reg.TR_CCFG m + j, Reg.TR_CCFG n + j)
  let s3 := (words.filter fun x => decide (s2.rget x.1 ≠ s2.rget x.2)).foldl (fun t x => t.rset x.2 (t.rget x.1)) s2
  (s3.setTlb n (s3.tlb m)).setPins n (s3.pins m)

/-- LS_SPLIT (R299, R300, R315): the checker's page starts as the main core's. -/
def runLsSplit (k : Fin 24) (s : State) : State :=
  let st := s.pairState k.val
  let ok := decide (st = lsOff ∨ st = lsLockstep) && !s.occupied (pairSlots k.val) && !s.homeUsed k.val
  s.lsCommand 2 k.val ok fun s =>
    let s1 := (s.powerCore (2 * k.val) true).powerCore (2 * k.val + 1) true
    let s2 := s1.setPair k.val lsSplit
    let s3 := if st = lsLockstep then (s2.copyCounters k.val).copyToChecker k.val else s2
    (s3.flag Reg.LS_EVT_MODE Reg.LS_EVT_MODE_MORE).raise 55

/-- LS_OFF (R299, R300): both core domains are gated. -/
def runLsOff (k : Fin 24) (s : State) : State :=
  let st := s.pairState k.val
  let ok := decide (st = lsLockstep ∨ st = lsSplit) && !s.occupied (pairSlots k.val) && !s.homeUsed k.val
  s.lsCommand 3 k.val ok fun s =>
    (((s.powerCore (2 * k.val) false).powerCore (2 * k.val + 1) false).countPins k.val).setPair k.val lsOff

/-- RETEST (R299, R300, R315). -/
def runRetest (k : Fin 24) (s : State) : State :=
  let st := s.pairState k.val
  let ok := decide (st = lsFenced) || (decide (st = lsHalf) && !s.occupied ((s.pairCores k.val).flatMap coreSlots))
  s.lsCommand 4 k.val ok fun s => s.enterTest k.val

/-! ## Mismatch hold (R305, R306) -/

/-- The entry as it was before its last release: the aborted point awaited again (R79, R81, R88). -/
def Entry.retreat (e : Entry) : Entry :=
  if e.ttype = 1 then
    if 0 < e.nidx then { e with next0 := setBits e.next0 12 12 (e.nidx - 1) }
    else { e with next0 := setBits (setBits e.next0 12 12 (e.n - 1)) 0 12 (e.nturn + 4095) }
  else if e.ttype = 2 then e.setNextNs (e.nextNs - e.period)
  else e

/-- A class-D entry goes to HELD; a run in progress leaves its point pending where RSTPOL is 0, else missed (R88); with SC_CFG.EN = 0 it is
missed (R578). RSTPOL does not touch the pending point of an entry that had yet to start its run (model's choice). -/
def State.holdEntry (s : State) (c : Nat) : State :=
  let e := s.entry c
  let s1 := s.setCommit c []
  if e.state = stRunning ∨ e.state = stCommit then
    if e.pend ∨ e.rstpol ∨ ¬ s.fbit Reg.SC_CFG_EN then (s1.setEntry c (e.setState stHeld)).missed c 1
    else s1.setEntry c ({ e.retreat with pend := true }.setState stHeld)
  else s1.setEntry c (e.setState stHeld)

/-- A class-G context of the pair goes to UNAVAIL (R305). -/
def State.haltG (s : State) (c : Nat) (pc : Word) (conts : List (List Word)) : State :=
  let e := s.entry c
  let s1 := s.setEntry c ((e.setState stUnavail).setUcause 5)
  match s1.partOf c with
  | none => s1
  | some p => ((s1.flag (Reg.SC_PSTAT_HALT p) (Reg.SC_PSTAT_HALT_MORE p)).raise (32 + p)).record tyContext 0o77 p c pc conts

/-- The save set word `j` of a slot at E (level 2) or M (level 3): 0 PC, 1 NPC, 2 STATUS, 3 CAUSE, 4 FADDR (R224). -/
def State.saved (s : State) (i lvl j : Nat) : Word := Tab.get 0 s.core.save (16 * i + 8 * (lvl - 2) + j)

def State.setSaved (s : State) (i lvl j : Nat) (v : Word) : State :=
  { s with core := { s.core with save := Tab.set 0 s.core.save (16 * i + 8 * (lvl - 2) + j) v } }

/-- The continuation of a CONTEXT record (R475): CAUSE, FADDR, SCAUSE and the slot with world and level. -/
def State.contextCont (s : State) (i : Nat) (cause faddr : Word) : List (List Word) :=
  [[cause, faddr, s.img i 8, BitVec.ofNat 36 (i % 512 + b2n (s.secureCtx i) * 512 + s.level i * 1024)]]

/-- A monitor call in a slot is abandoned (R431): what it has posted is carried to its end, with no status. -/
def State.abandonCall (s : State) (i : Nat) : State :=
  { s with rook := { s.rook with waits := s.rook.waits.map fun w => if w.slot = i then { w with live := false } else w } }

/-- What a mismatch does to one slot of the pair (R305, R306): transfers are abandoned, entries held, stores discarded. -/
def State.holdSlot (k : Nat) (s : State) (i : Nat) : State :=
  let x := s.slot i
  let s0 := x.sb.foldl (fun t e =>
    t.record tyLockstep 3 e.req.part.val k e.va [[BitVec.ofNat 36 e.req.ctx.val, 0, 0, 0]]) (s.setSlot i { x with sb := [], long := [] })
  let s1 := match x.resv with
    | none => s0
    | some c =>
      let t := (s0.dropTransfers i).setSlot i { s0.slot i with resv := none }
      if (t.entry c).classG then t.haltG c 0 [[0, 0, 0, BitVec.ofNat 36 i]] else t.holdEntry c
  match x.ctx with
  | none => s1
  | some c =>
    let e := s1.entry c
    if !e.classG && decide (e.state = stCommit) && e.agreed then s1
    else
      let call := s1.saved i 3 4
      let called := decide (s1.level i = 3) && decide (bits (s1.saved i 3 3) 0 6 = 0o21)
      let s2 := if called then (s1.abandonCall i).record tySecure 5 (s1.slotPart i) c call else s1
      let s3 := if e.classG then s2.haltG c (s2.img i iwPc) (s2.contextCont i 0 0) else s2.holdEntry c
      (s3.dropTransfers i).vacateSlot i

/-- A mismatch of a pair (R305). `kind` is the KIND of R303. -/
def State.mismatch (s : State) (k kind slot : Nat) : State :=
  if s.pairState k ≠ lsLockstep then s
  else
    let ctx := (s.slot (16 * k + slot)).ctx.getD 0
    let s1 :=
      if s.fbit (Reg.LS_LOGB_V k) then s
      else ((((s.fset (Reg.LS_LOGA_CYC k) s.cyc).fset (Reg.LS_LOGB_SLOT k) slot).fset (Reg.LS_LOGB_KIND k) kind).fset
        (Reg.LS_LOGB_CTX k) ctx)
    let s2 := (s1.flag (Reg.LS_LOGB_V k) (Reg.LS_LOGB_V_MORE k)).fadd (Reg.LS_CNT_MISM k) 1
    let s3 := (s2.flag Reg.LS_EVT_MISM Reg.LS_EVT_MISM_MORE).raise 48
    let s4 := s3.record tyLockstep 1 (s3.pairPart k) k (BitVec.ofNat 36 (slot % 8 + kind % 16 * 8 + ctx % 4096 * 128))
    let s5 := (pairSlots k).foldl (State.holdSlot k) s4
    let s6 := { s5 with core := { s5.core with recon := Tab.set false s5.core.recon k true } }
    s6.setPair k lsHold

/-- MISMATCH (R305). -/
def runMismatch (k : Fin 24) (kind : Fin 16) (slot : Fin 8) (s : State) : State := s.mismatch k.val kind.val slot.val

/-- INJECT (R316): accepted only in LOCKSTEP; the outputs of the next cycle differ. -/
def runInject (k : Fin 24) (s : State) : State :=
  s.lsCommand 5 k.val (decide (s.pairState k.val = lsLockstep)) fun s => s.mismatch k.val 12 0

/-- A line held in M in the pair's L1Ds whose two copies differ (R306): its L2 copy is lost. -/
def State.lostLine (k : Nat) (st : State × Bool) (line : Nat) : State × Bool :=
  let s := st.1
  let x := s.agentLine (k / 2) line
  if (s.l1Way (2 * k) false line).st ≠ .m then st
  else
    let t := s.setAgentLine (k / 2) line { x with words := x.words.map fun w => lostWord (dataOf w) }
    let s1 := t.setL1Way (2 * k) false line L1Way.none
    let s2 := (s1.fadd (Reg.LS_CNT_LOSTL k) 1).flag Reg.LS_EVT_LOSTL Reg.LS_EVT_LOSTL_MORE
    (if st.2 then s2 else s2.record tyLockstep 4 (s2.pairPart k) k (BitVec.ofNat 36 (line * 64)), true)

/-- RECONCILE_COMPLETE (R306): modified lines are in the L2, differing ones lost, and the pair's L1s hold nothing. -/
def runReconcileComplete (k : Fin 24) (differ : List (BitVec 32)) (s : State) : State :=
  if ¬ Tab.get false s.core.recon k.val then s
  else
    let s1 := (differ.foldl (fun st l => State.lostLine k.val st l.toNat) (s, false)).1
    let s2 := (s1.clearCore (2 * k.val)).clearCore (2 * k.val + 1)
    { s2 with core := { s2.core with recon := Tab.set false s2.core.recon k.val false } }

/-! ## Verdicts (R307 to R311, R579) -/

/-- Trap windows and save sets of a core's slots are cleared by the self-test (R307). -/
def State.clearSaves (s : State) (c : Nat) : State :=
  { s with core := { s.core with save := Tab.keep (fun k => decide (k / 128 ≠ c)) s.core.save
                                 trapWin := Tab.keep (fun k => decide (k / 256 ≠ c)) s.core.trapWin } }

/-- Pins are walked one at a time, in the order they were made (R308). -/
def State.restorePins (s : State) (c : Nat) (ps : List Pin) : State :=
  (s.setPins c ((ps.filter fun p => decide (p.walk ≠ .command)).map fun p => { p with walk := .restore, waits := [] })).walkPins c

/-- A HELD entry goes to ARMED, or to IDLE where its one point has been missed (R81, R86, R88). -/
def State.rearmHeld (s : State) (c : Nat) : State :=
  let e := s.entry c
  if e.oneShot ∧ ¬ e.pend ∧ s.reached c e then s.setEntry c ((e.setState stIdle).setEn false)
  else s.setEntry c (e.setState stArmed)

/-- The HELD entries that held a slot of a pair. -/
def State.heldOn (s : State) (k : Nat) : List Nat :=
  (s.entryList.filter fun (_, e) => decide (e.state = stHeld ∧ e.slot / 16 = k)).map (·.1)

/-- Class-D entries whose HOME is a pair. -/
def State.homedOn (s : State) (k : Nat) : List Nat :=
  (s.entryList.filter fun (_, e) => !e.classG && decide (e.state ≠ stFree ∧ e.home = k)).map (·.1)

/-- The spare takes over (R309). -/
def State.takeover (s : State) (k j : Nat) (pins : List Pin) : State :=
  let owner := s.pairOwner k
  let held := s.heldOn k
  let s1 := s.giveTo j owner (some k)
  let s2 := (s1.restorePins (2 * j) pins).countPins j
  let s3 := (s2.homedOn k).foldl (fun t c => t.setEntry c { t.entry c with cfg := setBits (t.entry c).cfg 5 5 j }) s2
  let s4 := held.foldl State.rearmHeld s3
  let s5 := ((s4.flag Reg.LS_EVT_FENCE Reg.LS_EVT_FENCE_MORE).flag Reg.LS_EVT_TAKE Reg.LS_EVT_TAKE_MORE).raise 50
  (s5.raise 52).record tyLockstep 5 (if owner < 16 then owner else 0) k (BitVec.ofNat 36 j)

/-- No spare can be taken (R86, R310). -/
def State.noSpare (s : State) (k : Nat) : State :=
  let s1 := (s.heldOn k).foldl (fun t c => t.toUnavail c 1) s
  let s2 := (s1.flag Reg.LS_EVT_FENCE Reg.LS_EVT_FENCE_MORE).flag Reg.LS_EVT_NOSPARE Reg.LS_EVT_NOSPARE_MORE
  (s2.raise 50).raise 53

/-- A pair leaves service in part or whole: HALF where SURVG asks for it and one core passed, else FENCED, in the pool (R301). -/
def State.fencePair (s : State) (k : Nat) (failM failC : Bool) : State :=
  let half := s.fbit (Reg.LS_CFG_SURVG k) && !(failM && failC)
  if half then
    let dead := if failC then 2 * k + 1 else 2 * k
    let live := if failC then 2 * k else 2 * k + 1
    (((s.powerCore dead false).emptyTlb live).countPins k).setPair k lsHalf
  else
    let s1 := (s.powerCore (2 * k) false).powerCore (2 * k + 1) false
    let s2 := s1.setPair k lsFenced
    (if s2.pairOwner k = poolOwner then s2 else s2.giveTo k poolOwner).countPins k

/-- The work of a fenced pair goes to its spare, or nowhere (R309, R310). -/
def State.afterFence (s : State) (k : Nat) (pins : List Pin) (failM failC : Bool) : State :=
  let j := s.fget (Reg.LS_CFG_SPARE k)
  let ok := s.fbit (Reg.LS_CFG_SPAREV k) && decide (j ≠ k) && decide (j < 24) && s.isSpare j
  let s1 := if ok then s.takeover k j pins else s.noSpare k
  s1.fencePair k failM failC

/-- SELF_TEST_VERDICT (R307 to R311, R579): a core whose clock or supply is lost fails without running the test. -/
def runSelfTestVerdict (k : Fin 24) (failsM failsC : Bool) (s : State) : State :=
  let n := k.val
  let st := s.pairState n
  let failM := failsM || decide (s.domState (2 * n) = 3)
  let failC := failsC || decide (s.domState (2 * n + 1) = 3)
  if (st ≠ lsTest ∧ st ≠ lsHold) ∨ Tab.get false s.core.recon n then s
  else
    let pins := s.pins (2 * n)
    let s1 := (s.fset (Reg.LS_STAT_FAILM n) (b2n failM)).fset (Reg.LS_STAT_FAILC n) (b2n failC)
    let s2 := ((s1.clearSaves (2 * n)).clearSaves (2 * n + 1)).emptyTlb (2 * n) |>.emptyTlb (2 * n + 1)
    if ¬ failM ∧ ¬ failC then
      let s3 := s2.setPair n lsLockstep
      if st = lsTest then (s3.flag Reg.LS_EVT_MODE Reg.LS_EVT_MODE_MORE).raise 55
      else
        let s4 := (s3.restorePins (2 * n) pins).countPins n
        let s5 := (s4.heldOn n).foldl State.rearmHeld s4
        ((s5.fadd (Reg.LS_CNT_PASS n) 1).flag Reg.LS_EVT_PASS Reg.LS_EVT_PASS_MORE).raise 49
    else if st = lsTest then ((s2.flag Reg.LS_EVT_FENCE Reg.LS_EVT_FENCE_MORE).raise 50).fencePair n failM failC
    else
      let s3 := if failM ∧ failC then (s2.flag Reg.LS_EVT_STALE Reg.LS_EVT_STALE_MORE).raise 51 else s2
      s3.afterFence n pins failM failC

end Sys2Proof.Machine
end

