-- ==== Sys2Proof/Machine/Engine.lean ====
section
/-! DEFINITION. Accesses to memory by the engines beside the clusters: the process-data engine and the switch as agent 12
(R286, R379), PCIe as agent 13, each under a partition's windows where its rule says so. -/

namespace Sys2Proof.Machine

/-- The outcome of an engine's access: `window` where a window check fails, `bad` where the word is poisoned, lost,
uncorrectable or answered by an error, `wait` where the channel does not answer yet. -/
inductive Eng (α : Type) where
  | ok (a : α)
  | window
  | bad
  | wait
  deriving DecidableEq, Repr

/-- The next access follows one that succeeded. -/
def Eng.andThen {α β : Type} (r : State × Eng α) (f : State → α → State × Eng β) : State × Eng β :=
  match r.2 with
  | .ok a => f r.1 a
  | .window => (r.1, .window)
  | .bad => (r.1, .bad)
  | .wait => (r.1, .wait)

/-- Partition `p` in a world, as an engine reaches memory for it (R252, R380, R428). -/
def engWho (p : Nat) (secure : Bool := false) : Who :=
  { level := 1, secure := secure, part := p, root := 0, sug := false, asU := false }

/-- A word read by agent `a` on behalf of `w`, or with no window check. -/
def State.engRead (s : State) (a : Nat) (w : Option Who) (pw : PWord) : State × Eng Word :=
  if decide (paDramEnd ≤ 4 * pw) || (match w with
      | some who => !s.reachable who (4 * pw) 1
      | none => false) then (s, .window)
  else match s.readMem a pw with
    | (t, .ok v) => (t, .ok v)
    | (t, .err _) => (t, .bad)
    | (t, .wait) => (t, .wait)

/-- `n` consecutive words read. -/
def State.engReads (s : State) (a : Nat) (w : Option Who) (pw : PWord) : Nat → State × Eng (List Word)
  | 0 => (s, .ok [])
  | n + 1 =>
    Eng.andThen (s.engRead a w pw) fun t v =>
      Eng.andThen (State.engReads t a w (pw + 1) n) fun u vs => (u, .ok (v :: vs))

/-- Words grouped by the line they lie in, in order. -/
def byLine : List (PWord × Word) → List (Nat × List (Fin 16 × Word))
  | [] => []
  | (pw, v) :: t =>
    let e : Fin 16 × Word := (⟨pw % 16, Nat.mod_lt _ (by decide)⟩, v)
    match byLine t with
    | (l, ws) :: rest => if l = pw / 16 then (l, e :: ws) :: rest else (pw / 16, [e]) :: (l, ws) :: rest
    | [] => [(pw / 16, [e])]

/-- Whether an output page in force at a physical address is bound to another context (R99). -/
def State.pageBars (s : State) (c : Option Nat) (pa : Nat) : Bool :=
  s.regs.any fun (a, w) =>
    decide (Reg.SC_OPAGE_F 0 ≤ a ∧ a < Reg.SC_OPAGE_F 256 ∧ (a - Reg.SC_OPAGE_F 0) % 2 = 0) && bitAt w 26 &&
      decide (bits w 0 26 = pa / 4096) && decide (c ≠ some (s.fget (Reg.SC_OPAGE_C_CTX ((a - Reg.SC_OPAGE_F 0) / 2))))

/-- Words written without a check: one WRH for each line (R287, R290), served after the requests that came before. -/
def State.engPut (s : State) (a : Nat) (target : Option (Fin 12)) (ws : List (PWord × Word)) : State :=
  (byLine ws).foldl (fun t (l, g) => (t.enqueue l { agent := a, op := .wrh g target }).settle l) s

/-- Whether a write of agent `a` is not yet visible to every agent: its WRH waits for memory (R294, R494, R535). -/
def State.writesWait (s : State) (a : Nat) : Bool :=
  let mine (r : LineReq) : Bool := decide (r.agent = a) && (match r.op with
    | .wrh _ _ => true
    | _ => false)
  s.mem.lineq.any fun (_, q) => (q.service.map mine).getD false || q.queue.any mine

/-- Words written by an engine: a word of an output page in force takes none (R99). -/
def State.engStore (s : State) (a : Nat) (target : Option (Fin 12)) (ws : List (PWord × Word)) : State :=
  s.engPut a target (ws.filter fun x => !s.pageBars none (4 * x.1))

/-- Words written by agent `a` on behalf of `w`; none is written where one fails the check (R380). -/
def State.engWrite (s : State) (a : Nat) (w : Option Who) (target : Option (Fin 12)) (ws : List (PWord × Word)) :
    State × Eng Unit :=
  let barred (x : PWord × Word) : Bool := decide (paDramEnd ≤ 4 * x.1) || s.pageBars none (4 * x.1) || (match w with
    | some who => !s.reachable who (4 * x.1) 2
    | none => false)
  if ws.any barred then (s, .window) else (s.engPut a target ws, .ok ())

/-- Work of the engine that waits for memory (R20, R29): it is taken up again once the work before it is done. -/
def State.later (s : State) (j : EngineJob) : State := { s with pd := { s.pd with jobs := s.pd.jobs ++ [j] } }

/-- A frame found with an uncorrectable word (R358): its Moraine record names no structure of CH_ELOGB.SRC, so its subject and data are
free values. -/
def State.frameUe (s : State) : State :=
  let w := Config.freeWord s.freeCtr
  s.freeNext.record tyMemory 2 0 (bits w 0 12) (Config.freeWord (s.freeCtr + 1)) [[w, Config.freeWord (s.freeCtr + 1), 0, 0]]

/-- Consecutive word addresses from `pw`. -/
def wordsAt (pw : PWord) (vs : List Word) : List (PWord × Word) := vs.mapIdx fun i v => (pw + i, v)

/-- The cluster a TCL field names, where its V bit asks for a hint (R290). -/
def hintOf (tcl : Nat) (v : Bool) : Option (Fin 12) :=
  if h : tcl < 12 then (if v then some ⟨tcl, h⟩ else none) else none

end Sys2Proof.Machine
end

