-- ==== Sys2Proof/Machine/Net.lean ====
section
/-! DEFINITION. Ports and switch (spec/12_network_ports_switch.md): the frame buffer and egress queues, HSR and PRP, PTP, host
queues, bypass hold, and the port stores. What a received frame does is in Machine/Frame.lean. -/

namespace Sys2Proof.Machine

/-! ## Ports and pairs -/

/-- Whether port `x` takes and sends frames (R348, R350). -/
def State.portUp (s : State) (x : Nat) : Bool :=
  let mode := s.fget (Reg.NP_PCFG_MODE x)
  s.fbit (Reg.NP_PCFG_EN x) && s.fbit (Reg.NP_PSTAT_LINK x) && decide (mode ≠ 0) && !(decide (4 ≤ x ∧ mode = 3))

/-- The mode of pair `k`: 0 independent, 1 HSR, 2 PRP. -/
def State.pairMode (s : State) (k : Nat) : Nat :=
  let m := if k = 0 then s.fget Reg.NP_CFG_PM0 else s.fget Reg.NP_CFG_PM1
  if m = 3 then 0 else m

/-- The pair in HSR or PRP that port `x` belongs to. -/
def State.ringPair (s : State) (x : Nat) : Option Nat :=
  if x < 4 ∧ s.pairMode (x / 2) ≠ 0 then some (x / 2) else none

/-- The MAC of port `x`: that of the lower port in a pair in HSR or PRP (R359, R360). -/
def State.macOf (s : State) (x : Nat) : BitVec 48 :=
  let y := match s.ringPair x with
    | some k => 2 * k
    | none => x
  BitVec.ofNat 48 (s.fget (Reg.NP_MACH_MAC y) * 2 ^ 24 + s.fget (Reg.NP_MACL_MAC y))

/-- The class of a frame: its PCP, or DEFPCP of the port given for an untagged one (R356). -/
def State.classOf (s : State) (f : Frame) (x : Nat) : Nat :=
  match f.tag with
  | some (pcp, _) => pcp.toNat
  | none => s.fget (Reg.NP_PCFG_DEFPCP x)

def frameVid (f : Frame) : Nat :=
  match f.tag with
  | some (_, v) => v.toNat
  | none => 0

def frameMulticast (f : Frame) : Bool := f.dst.getLsbD 40

/-- An errored frame on port `x` (R351, R376). -/
def State.portErr (s : State) (x : Nat) : State :=
  let s1 := s.fadd (Reg.NP_CERR_N x) 1
  { s1 with net := { s1.net with errs := Tab.set 0 s1.net.errs x (Tab.get 0 s1.net.errs x + 1) } }

/-! ## The frame buffer (R355, R356) -/

def State.setNet (s : State) (n : Net) : State := { s with net := n }

/-- The queue of a class at a port; forwarded class-7 frames have one of their own. -/
def State.txq (s : State) (x cls : Nat) (fwd : Bool) : List TxFrame := Tab.get [] s.net.egress (16 * x + 2 * cls + b2n fwd)

def State.setTxq (s : State) (x cls : Nat) (fwd : Bool) (q : List TxFrame) : State :=
  s.setNet { s.net with egress := Tab.set [] s.net.egress (16 * x + 2 * cls + b2n fwd) q }

/-- The cells that classes 0 to 6 hold at a port. -/
def State.portCells (s : State) (x : Nat) : Nat :=
  (((List.range 7).flatMap fun c => s.txq x c false).map (·.cells)).foldl (· + ·) 0

/-- Whether a buffer number still waits at some port. -/
def State.waiting (s : State) (id : Nat) : Bool := s.net.egress.any fun (_, q) => q.any fun t => decide (t.id = id)

/-- The cells of a frame. -/
def frameCells (f : Frame) : Nat := (f.len + 63) / 64

/-- The free count, and the least since the last read. -/
def State.setFree (s : State) (n : Nat) : State :=
  let s1 := s.fset Reg.NP_FBSTAT_FREE n
  s1.fset Reg.NP_FBSTAT_MINFREE (Nat.min (s1.fget Reg.NP_FBSTAT_MINFREE) n)

/-- Whether the buffer refuses a frame of `cells` cells and class `cls` for the ports `outs` (R355). -/
def State.bufferFull (s : State) (cls cells : Nat) (outs : List Nat) : Bool :=
  let free := s.fget Reg.NP_FBSTAT_FREE
  if cls < 7 then
    decide (free < cells + s.fget Reg.NP_FBCFG_RES7) ||
      outs.any fun x => decide (s.fget Reg.NP_FBCFG_PLIM < s.portCells x + cells)
  else decide (free < cells)

/-- A frame discarded at ingress for want of room (R355). Port 6 is the internal port. -/
def State.bufferDrop (s : State) (inPort : Nat) : State :=
  let s1 := if inPort < 6 then s.fadd (Reg.NP_CDROP_N inPort) 1 else s
  (s1.flag Reg.NP_EVT_FBDROP Reg.NP_EVT_FBDROP_MORE).raise 141

/-- A frame takes its cells and joins the queues of its ports, with a copy of its own at each (R355, R356). Ports that are
down take none. -/
def State.queueFrames (s : State) (inPort cls ingress : Nat) (stamp : Option (Nat × Nat)) (fs : List (Nat × Frame)) : State :=
  let up := fs.filter fun (x, _) => s.portUp x
  match up with
  | [] => s
  | (_, f0) :: _ =>
    if s.bufferFull cls (frameCells f0) (up.map (·.1)) then s.bufferDrop inPort
    else
      let id := s.net.nextId
      let s1 := (s.setFree (s.fget Reg.NP_FBSTAT_FREE - (frameCells f0))).setNet { s.net with nextId := id + 1 }
      let fwd := decide (cls = 7 ∧ inPort < 6)
      (up.foldl (fun (r : State × Option (Nat × Nat)) (x, f) =>
        let t : TxFrame := { frame := f, ue := false, id := id, cells := (frameCells f0), inPort := inPort, ingress := ingress, stamp := r.2 }
        (r.1.setTxq x cls fwd (r.1.txq x cls fwd ++ [t]), none)) (s1, stamp)).1

/-- The last copy of a frame has left: its cells are free. -/
def State.freeCells (s : State) (t : TxFrame) : State :=
  if s.waiting t.id then s else s.setFree (s.fget Reg.NP_FBSTAT_FREE + t.cells)

/-- Frames of the device in class 7 that have not begun to leave a port are taken out of its queue. -/
def State.cancelQueued (s : State) (gone : Frame → Bool) (x : Nat) : State :=
  let q := s.txq x 7 false
  (q.filter fun t => gone t.frame).foldl State.freeCells (s.setTxq x 7 false (q.filter fun t => !gone t.frame))

/-- The class and queue that a port serves next (R356). -/
def State.nextQueue (s : State) (x : Nat) : Option (Nat × Bool) :=
  ([(7, false), (7, true), (6, false), (5, false), (4, false), (3, false), (2, false), (1, false), (0, false)]).find?
    fun (c, f) => decide (s.txq x c f ≠ [])

/-! ## Frames of the device (R359, R360, R369, R409) -/

/-- The copies of a device's frame on pair `k`, with the pair's one sequence number (R359, R360). -/
def State.pairCopies (s : State) (k : Nat) (f : Frame) : State × List (Nat × Frame) :=
  let seq := Tab.get 0 s.net.seqs k
  let s1 := s.setNet { s.net with seqs := Tab.set 0 s.net.seqs k (seq + 1) }
  let netid := s.fget (Reg.NP_RCFG_NETID k)
  let red (b : Nat) : Redundancy :=
    if s.pairMode k = 1 then .hsr (BitVec.ofNat 4 (2 * netid + b)) seq true else .prp (decide (b = 1)) seq true
  (s1, [(2 * k, { f with red := red 0 }), (2 * k + 1, { f with red := red 1 })])

/-- A frame of the device leaves by port `x`, or by both ports of the pair that `x` belongs to (R359, R360). PTP frames carry
no tag and no trailer and leave by their port alone (R369). -/
def State.sendOwn (s : State) (x cls : Nat) (stamp : Option (Nat × Nat)) (f : Frame) : State :=
  match s.ringPair x, f.payload with
  | some _, .ptp _ => s.queueFrames 6 cls s.nowNs stamp [(x, f)]
  | some k, _ =>
    let r := s.pairCopies k f
    r.1.queueFrames 6 cls s.nowNs stamp r.2
  | none, _ => s.queueFrames 6 cls s.nowNs stamp [(x, f)]

/-- The clock identity of a port: its MAC as an EUI-64 with its port number. -/
def State.portIdentity (s : State) (x : Nat) : BitVec 80 :=
  let m := (s.macOf x).toNat
  BitVec.ofNat 80 ((m / 2 ^ 24 * 2 ^ 40 + 0xFFFE * 2 ^ 24 + m % 2 ^ 24) * 2 ^ 16 + (x + 1))

/-- A PTP frame of the device (R368, R369). -/
def State.ptpFrame (s : State) (x : Nat) (seq : BitVec 16) (corr : Int) (b : PtpBody) : Frame :=
  { dst := 0x0180C200000E, src := s.macOf x, tag := none, etype := 0x88F7, red := .none, len := 72, fcsOk := true,
    payload := .ptp { domain := BitVec.ofNat 8 (s.fget Reg.NP_PTPCFG_DOM), source := s.portIdentity x, seq := seq,
                      corr := corr, body := b },
    octets := [] }

def State.sendPtp (s : State) (x : Nat) (seq : BitVec 16) (corr : Int) (b : PtpBody) : State :=
  s.sendOwn x (s.fget (Reg.NP_PCFG_DEFPCP x)) none (s.ptpFrame x seq corr b)

def PtpPort.idle : PtpPort := { master := none, sync := none, req := none, resp := none, seq := 0 }

def State.ptpPort (s : State) (x : Nat) : PtpPort := Tab.get PtpPort.idle s.net.ptp x

def State.setPtpPort (s : State) (x : Nat) (p : PtpPort) : State :=
  s.setNet { s.net with ptp := Tab.set PtpPort.idle s.net.ptp x p }

/-- PDELAY_REQ_SEND (R369). -/
def runPdelayReqSend (x : Fin 6) (s : State) : State :=
  if s.fbit (Reg.NP_PCFG_PDEN x.val) && s.portUp x.val then
    let p := s.ptpPort x.val
    (s.setPtpPort x.val { p with seq := p.seq + 1, req := none, resp := none }).sendPtp x.val p.seq 0 .pdelayReq
  else s

/-! ## Transmission -/

/-- NP_ASYMx, by which the ingress stamp of a PTP frame is corrected (R368), in ns. -/
def State.asym (s : State) (x : Nat) : Int := sint (s.fget (Reg.NP_ASYM_A x)) 18

/-- The amount that a Sync forwarded through the device gains: residence and the ingress link's delay (R370), in 2^-16 ns. -/
def State.residence (s : State) (t : TxFrame) : Int :=
  ((s.nowNs : Int) - (t.ingress - s.asym t.inPort)) * 65536 + (s.fget (Reg.NP_PDLY_D t.inPort) : Int) * 256

/-- A two-step Sync has left port `x`: what its Follow_Up is to gain (R370). -/
def State.oweFollowUp (s : State) (x : Nat) (m : PtpMsg) (r : Int) : State :=
  let same (o : Nat × BitVec 80 × BitVec 16 × Int) : Bool := decide (o.1 = x ∧ o.2.1 = m.source ∧ o.2.2.1 = m.seq)
  s.setNet { s.net with owed := (s.net.owed.filter fun o => !same o) ++ [(x, m.source, m.seq, r)] }

/-- A PTP frame as it leaves port `x`: the transparent clock (R370), and the stamps of the device's own messages (R369). -/
def State.ptpLeaves (s : State) (x : Nat) (t : TxFrame) (m : PtpMsg) : State × PtpMsg :=
  if t.inPort < 6 then
    if !s.fbit Reg.NP_PTPCFG_TCEN then (s, m)
    else match m.body with
      | .sync false _ _ => (s, { m with corr := m.corr + s.residence t })
      | .sync true _ _ => (s.oweFollowUp x m (s.residence t), m)
      | .followUp _ =>
        match s.net.owed.find? fun o => decide (o.1 = x ∧ o.2.1 = m.source ∧ o.2.2.1 = m.seq) with
        | some o => (s.setNet { s.net with owed := s.net.owed.erase o }, { m with corr := m.corr + o.2.2.2 })
        | none => (s, m)
      | _ => (s, m)
  else match m.body with
    | .pdelayReq =>
      let p := s.ptpPort x
      (s.setPtpPort x { p with req := some (m.seq, s.nowNs) }, m)
    | .pdelayResp false t2 => (s, { m with corr := m.corr + ((s.nowNs : Int) - t2) * 65536, body := .pdelayResp false 0 })
    | .pdelayResp true _ => (s.sendPtp x m.seq m.corr (.pdelayRespFollowUp s.nowNs), m)
    | _ => (s, m)

/-- The descriptor of a host frame that has left: words 2 and 3 with TSREQ, its stamp, then OWN (R375); none while it waits for memory. -/
def State.hostSent (s : State) (p desc : Nat) (st : Word × Word) : Option State :=
  let w := some (engWho p)
  match s.engRead 12 w (desc + 1) with
  | (t, .ok d) =>
    let ws := (if bitAt d 33 then [(desc + 2, st.1), (desc + 3, st.2)] else []) ++ [(desc + 1, setBits d 35 1 0)]
    some (t.engWrite 12 w none ws).1
  | (_, .wait) => none
  | (t, _) => some t

/-- A frame as it leaves port `x` (R357, R358): one whose FCS has proved bad, or with an uncorrectable word, has an inverted FCS and is
counted. -/
def State.frameLeaves (s : State) (x : Nat) (t : TxFrame) (f : Frame) : State × Frame :=
  let s1 := if t.ue then s.frameUe else s
  if t.ue || !f.fcsOk then (s1.portErr x, { f with fcsOk := false }) else (s1, f)

/-- FRAME_TRANSMIT (R356, R368): the next frame of a port leaves. -/
def runFrameTransmit (x : Fin 6) (s : State) : State :=
  if !s.portUp x.val then s
  else match s.nextQueue x.val with
    | none => s
    | some (cls, fwd) =>
      match s.txq x.val cls fwd with
      | [] => s
      | t :: rest =>
        let s1 := ((s.setTxq x.val cls fwd rest).freeCells t).fadd (Reg.NP_CTX_N x.val) 1
        let r := match t.frame.payload with
          | .ptp m =>
            let q := s1.ptpLeaves x.val t m
            (q.1, { t.frame with payload := .ptp q.2 })
          | _ => (s1, t.frame)
        let q := r.1.frameLeaves x.val t r.2
        let s2 := q.1.setNet { q.1.net with sent := Tab.set none q.1.net.sent x.val (some q.2) }
        match t.stamp with
        | some (p, d) =>
          let st := s2.stamp
          let job : EngineJob := .hostDone p d st.1 st.2
          if s2.pd.jobs ≠ [] then s2.later job else (s2.hostSent p d st).getD (s2.later job)
        | none => s2

/-! ## Links and rates (R376) -/

/-- LINK_UP. -/
def runLinkUp (x : Fin 6) (s : State) : State :=
  if s.fbit (Reg.NP_PCFG_EN x.val) && !s.fbit (Reg.NP_PSTAT_LINK x.val) then
    ((s.fset (Reg.NP_PSTAT_LINK x.val) 1).flag Reg.NP_EVT_LINK Reg.NP_EVT_LINK_MORE x.val).raise (128 + x.val)
  else s

/-- The frames queued to a port are discarded and counted (R376). -/
def State.dropQueued (s : State) (x : Nat) : State :=
  ([0, 1, 2, 3, 4, 5, 6, 7].flatMap fun c => [(c, false), (c, true)]).foldl (fun t (c, f) =>
    (t.txq x c f).foldl (fun u q => (u.freeCells q).fadd (Reg.NP_CDROP_N x) 1) (t.setTxq x c f [])) s

/-- LINK_DOWN: `mid` says that a frame was being received. -/
def runLinkDown (x : Fin 6) (mid : Bool) (s : State) : State :=
  if s.fbit (Reg.NP_PSTAT_LINK x.val) then
    let s1 := if mid then s.portErr x.val else s
    let s2 := (s1.dropQueued x.val).fset (Reg.NP_PSTAT_LINK x.val) 0
    (s2.flag Reg.NP_EVT_LINK Reg.NP_EVT_LINK_MORE x.val).raise (128 + x.val)
  else s

/-- One port's errored frames of the second that ends. -/
def State.judgeErrors (s : State) (x : Nat) : State :=
  if s.fget (Reg.NP_PCFG_ERRLIM x) < Tab.get 0 s.net.errs x then
    ((s.fset (Reg.NP_PSTAT_ERRH x) 1).flag Reg.NP_EVT_ERRH Reg.NP_EVT_ERRH_MORE).raise 140
  else s.fset (Reg.NP_PSTAT_ERRH x) 0

/-- ERROR_RATE_SECOND (R376). -/
def runErrorRateSecond (s : State) : State :=
  let s1 := (List.range 6).foldl State.judgeErrors s
  s1.setNet { s1.net with errs := [] }

/-! ## Learning (R354) -/

/-- LEARNING_AGE. -/
def runLearningAge (mac : BitVec 48) (s : State) : State :=
  s.setNet { s.net with learn := Tab.set 0 s.net.learn mac.toNat 0 }

/-- FLUSH. -/
def runFlush (s : State) : State := s.setNet { s.net with learn := [] }

/-- A source address is learned for a port; a full table takes no new one. -/
def State.learn (s : State) (x : Nat) (mac : BitVec 48) : State :=
  if Tab.get 0 s.net.learn mac.toNat = 0 ∧ 4096 ≤ s.net.learn.length then s
  else s.setNet { s.net with learn := Tab.set 0 s.net.learn mac.toNat (x + 1) }

/-! ## HSR and PRP pairs (R361, R362) -/

def State.dups (s : State) (k : Nat) : List DupEntry := Tab.get [] s.net.dups k

def State.setDups (s : State) (k : Nat) (l : List DupEntry) : State :=
  s.setNet { s.net with dups := Tab.set [] s.net.dups k l }

def State.ringSent (s : State) (x : Nat) : List (BitVec 48 × BitVec 16) := Tab.get [] s.net.ringSent x

def State.setRingSent (s : State) (x : Nat) (l : List (BitVec 48 × BitVec 16)) : State :=
  s.setNet { s.net with ringSent := Tab.set [] s.net.ringSent x l }

/-- DISCARD_ENTRY_FORGET (R361). -/
def runDiscardEntryForget (k : Fin 2) (src : BitVec 48) (seq : BitVec 16) (s : State) : State :=
  let s1 := s.setDups k.val ((s.dups k.val).filter fun e => decide (¬ (e.src = src ∧ e.seq = seq)))
  [2 * k.val, 2 * k.val + 1].foldl (fun t x =>
    t.setRingSent x ((t.ringSent x).filter fun e => decide (e ≠ (src, seq)))) s1

/-- SUPERVISION_SEND (R362). -/
def runSupervisionSend (k : Fin 2) (s : State) : State :=
  if s.pairMode k.val = 0 then s
  else
    let mac := s.macOf (2 * k.val)
    s.sendOwn (2 * k.val) (s.fget (Reg.NP_PCFG_DEFPCP (2 * k.val))) none
      { dst := BitVec.ofNat 48 (0x01154E000100 + s.fget (Reg.NP_RCFG_SUPLSB k.val)), src := mac, tag := none, etype := 0x88FB,
        red := .none, len := 64, fcsOk := true, payload := .supervision mac, octets := [] }

/-- One of a pair's status bits becomes 1 (R362). -/
def State.ringStatus (s : State) (k : Nat) (f : Field) : State :=
  if s.fbit f then s
  else
    let s1 := s.fset f 1
    let s2 := if k = 0 then s1.flag Reg.NP_EVT_RING0 Reg.NP_EVT_RING0_MORE else s1.flag Reg.NP_EVT_RING1 Reg.NP_EVT_RING1_MORE
    s2.raise (134 + k)

/-- RING_STATUS_TIMEOUT (R362): 2 × LIFE seconds without what the status waits for. -/
def runRingStatusTimeout (k : Fin 2) (which : Fin 3) (s : State) : State :=
  if which = 0 then
    if s.pairMode k.val = 1 then
      (s.setNet { s.net with back := Tab.set 0 s.net.back k.val 0 }).ringStatus k.val (Reg.NP_RSTAT_OPEN k.val)
    else s
  else if s.pairMode k.val = 2 then
    s.ringStatus k.val (if which = 1 then Reg.NP_RSTAT_SILA k.val else Reg.NP_RSTAT_SILB k.val)
  else s

def State.nodes (s : State) (k : Nat) : List (BitVec 48) := Tab.get [] s.net.nodes k

def State.setNodes (s : State) (k : Nat) (l : List (BitVec 48)) : State :=
  (s.setNet { s.net with nodes := Tab.set [] s.net.nodes k l }).fset (Reg.NP_RSTAT_NODES k) l.length

/-- NODE_ENTRY_AGE (R362). -/
def runNodeEntryAge (k : Fin 2) (node : BitVec 48) (s : State) : State :=
  s.setNodes k.val ((s.nodes k.val).filter fun n => decide (n ≠ node))

/-! ## Bypass hold (R364 to R367) -/

/-- Whether the clocks that HEALTHY needs are within limits and locked (R364). -/
def State.pairClocks (s : State) (k : Nat) : Bool :=
  s.fbit Reg.PM_CLK_CORE && bitAt (s.rget Reg.PM_CLK) (2 + 2 * k) && bitAt (s.rget Reg.PM_CLK) (3 + 2 * k)

/-- The conditions of HEALTHY for pair `k`; `marker` says that the self-check marker passed in the last 100 µs (R364). -/
def State.bypassHealthy (s : State) (k : Nat) (marker : Bool) : Bool :=
  decide (s.domState 80 = 1 ∧ s.domState (74 + 2 * k) = 1 ∧ s.domState (75 + 2 * k) = 1) && s.pairClocks k && marker &&
    s.fbit (Reg.NP_PCFG_EN (2 * k)) && s.fbit (Reg.NP_PCFG_EN (2 * k + 1)) && s.fbit (Reg.NP_BYP_EN k) &&
    !s.fbit (Reg.NP_BYP_FORCE k)

/-- BYPASS_HEALTH_CHANGE (R364, R365). -/
def runBypassHealthChange (k : Fin 2) (marker : Bool) (s : State) : State :=
  if s.bypassHealthy k.val marker then s.fset (Reg.NP_BYP_HEALTHY k.val) 1
  else (s.fset (Reg.NP_BYP_HEALTHY k.val) 0).fset (Reg.NP_BYP_HOLD k.val) 0

/-- HOLDDLY_EXPIRY (R365): HEALTHY has been 1 for HOLDDLY ms. -/
def runHolddlyExpiry (k : Fin 2) (s : State) : State :=
  if s.fbit (Reg.NP_BYP_HEALTHY k.val) then s.fset (Reg.NP_BYP_HOLD k.val) 1 else s

/-- BYPASS_DRIVE_FAULT (R367). -/
def runBypassDriveFault (k : Fin 2) (short : Bool) (s : State) : State :=
  let s1 := s.fset (if short then Reg.NP_BYP_SHORT k.val else Reg.NP_BYP_OPEN k.val) 1
  ((s1.flag Reg.NP_EVT_BYPF Reg.NP_EVT_BYPF_MORE).raise 136).record tyNetwork 1 0 k.val 0

/-! ## PTP (R368 to R372) -/

/-- A port's bit in PSET. -/
def State.inPset (s : State) (x : Nat) : Bool := bitAt (s.rget Reg.NP_PTPCFG) x

/-- The data sets compared in the order of BMCA, the lower the better. -/
def announceRank (a : Announce) : List Nat :=
  [a.priority1.toNat, a.clockClass.toNat, a.accuracy.toNat, a.variance.toNat, a.priority2.toNat, a.grandmaster.toNat, a.steps.toNat]

def ranksBelow : List Nat → List Nat → Bool
  | x :: xs, y :: ys => decide (x < y) || (decide (x = y) && ranksBelow xs ys)
  | _, _ => false

/-- Port `x` is better than port `y`: a better master, and on a tie the active port, then the lower number (R371). -/
def betterPort (act : Nat) (a b : Nat × Announce) : Bool :=
  ranksBelow (announceRank a.2) (announceRank b.2) ||
    (!ranksBelow (announceRank b.2) (announceRank a.2) && (decide (a.1 = act) || (decide (b.1 ≠ act) && decide (a.1 < b.1))))

/-- The ports of PSET that have a master. -/
def State.masters (s : State) : List (Nat × Announce) :=
  (List.range 6).filterMap fun x => if s.inPset x then (s.ptpPort x).master.map fun a => (x, a) else none

/-- The port on which BMCA finds the best master. -/
def State.bestPort (s : State) : Option (Nat × Announce) :=
  s.masters.foldl (fun b m => match b with
    | none => some m
    | some c => if betterPort (s.fget Reg.NP_PTPSTAT_ACT) m c then some m else b) none

/-- Port `x` with its master becomes or stays the active port (R371, R372). -/
def State.followMaster (s : State) (x : Nat) (a : Announce) : State :=
  let s1 := if s.fget Reg.NP_PTPSTAT_ACT = x then s else (s.fset Reg.NP_PTPSTAT_ACT x).fset Reg.NP_PTPSTAT_STATE 1
  let s2 := (s1.fset Reg.NP_PTPSTAT_GMCLASS a.clockClass.toNat).fset Reg.NP_PTPSTAT_UTCV (b2n a.utcValid)
  let s3 := match s2.net.gm with
    | some g => if g = a.grandmaster then s2 else (s2.flag Reg.NP_EVT_PTPGM Reg.NP_EVT_PTPGM_MORE).raise 138
    | none => s2
  let s4 := s3.setNet { s3.net with gm := some a.grandmaster }
  ({ s4 with ang := { s4.ang with ptpUtc := if a.utcValid then some a.utcOffset else none } }).refreshUtc

/-- No port of PSET has a master (R371). -/
def State.noMaster (s : State) : State :=
  if s.fget Reg.NP_PTPSTAT_ACT = 7 then s
  else
    let s1 := ((s.fset Reg.NP_PTPSTAT_STATE 0).fset Reg.NP_PTPSTAT_ACT 7).fset Reg.NP_PTPSTAT_UTCV 0
    let s2 := ({ s1 with ang := { s1.ang with ptpUtc := none } }).refreshUtc
    (s2.flag Reg.NP_EVT_PTPTO Reg.NP_EVT_PTPTO_MORE).raise 139

/-- BMCA over the ports of PSET. -/
def State.bmca (s : State) : State :=
  match s.bestPort with
  | some (x, a) => s.followMaster x a
  | none => s.noMaster

/-- A store to NP_PTPCFG: another domain has no master yet, and BMCA runs over the new PSET (R368, R371). -/
def runNpPtpcfgStore (req : Requester) (va : Word) (v : Word) (s : State) : State :=
  let t := s.regStore req va Reg.NP_PTPCFG v
  if t.rget Reg.NP_PTPCFG = s.rget Reg.NP_PTPCFG then t
  else
    let u := if t.fget Reg.NP_PTPCFG_DOM = s.fget Reg.NP_PTPCFG_DOM then t
      else (List.range 6).foldl (fun u x => u.setPtpPort x { u.ptpPort x with master := none, sync := none }) t
    u.bmca

/-- The slave moves to another port of PSET with the same master (R371). -/
def State.movePath (s : State) (x : Nat) (g : BitVec 64) : Option State :=
  let others := s.masters.filter fun m => decide (m.1 ≠ x ∧ m.2.grandmaster = g)
  match others.foldl (fun b m => match b with
      | none => some m
      | some c => if betterPort 7 m c then some m else b) none with
  | some (y, a) => some (((s.followMaster y a).flag Reg.NP_EVT_PTPSW Reg.NP_EVT_PTPSW_MORE).raise 137)
  | none => none

/-- PTP_TIMEOUT (R371). -/
def runPtpTimeout (x : Fin 6) (announce : Bool) (s : State) : State :=
  let m := (s.ptpPort x.val).master
  let s1 := if announce then s.setPtpPort x.val { s.ptpPort x.val with master := none, sync := none } else s
  if s.fget Reg.NP_PTPSTAT_ACT ≠ x.val then s1
  else match m with
    | none => if announce then s1.bmca else s1
    | some a =>
      match s1.movePath x.val a.grandmaster with
      | some t => t
      | none => if announce then s1.bmca else s1

/-- A Sync taken: its offset and path delay reach the time base (R372). -/
def State.syncTaken (s : State) (x t2 t1 : Nat) (corr : Int) (interval : Nat) : State :=
  let pdly := s.fget (Reg.NP_PDLY_D x)
  let o : Rat := ((t2 : Int) - s.asym x - t1 : Int) - mkRat corr 65536 - mkRat pdly 256
  let s1 := (s.fset Reg.AN_TB_PDLY_PDLY pdly).fset Reg.NP_PTPSTAT_STATE 2
  s1.timeSample 1 o interval (decide (pdly ≤ 256 * s1.fget Reg.AN_TB_DLYLIM_DLYLIM))

/-- The mean link delay from a completed peer-delay exchange (R369), in 2^-8 ns. -/
def State.setPdly (s : State) (x : Nat) (t1 t4 : Nat) (turn corr : Int) : State :=
  let d := (((t4 : Int) - t1 - turn) * 65536 - corr) / 512
  s.fset (Reg.NP_PDLY_D x) (Nat.min d.toNat (2 ^ 36 - 1))

/-- A PTP message reaches the PTP unit by port `x` with ingress stamp `ns` (R368 to R372). -/
def State.ptpMessage (s : State) (x ns : Nat) (m : PtpMsg) : State :=
  let p := s.ptpPort x
  if m.domain.toNat ≠ s.fget Reg.NP_PTPCFG_DOM then s
  else match m.body with
    | .announce a => if s.inPset x then (s.setPtpPort x { p with master := some a }).bmca else s
    | .sync twoStep origin interval =>
      if s.fget Reg.NP_PTPSTAT_ACT ≠ x then s
      else if twoStep then s.setPtpPort x { p with sync := some (m.seq, ns, m.corr, interval) }
      else s.syncTaken x ns origin m.corr interval
    | .followUp origin =>
      match p.sync with
      | some (seq, t2, corr, interval) =>
        if s.fget Reg.NP_PTPSTAT_ACT = x ∧ seq = m.seq then
          (s.setPtpPort x { p with sync := none }).syncTaken x t2 origin (corr + m.corr) interval
        else s
      | none => s
    | .pdelayReq => if s.fbit (Reg.NP_PCFG_PDEN x) then s.sendPtp x m.seq m.corr (.pdelayResp (!s.fbit Reg.NP_PTPCFG_ONESTEP) ns) else s
    | .pdelayResp twoStep t2 =>
      match p.req with
      | some (seq, t1) =>
        if seq ≠ m.seq then s
        else if twoStep then s.setPtpPort x { p with resp := some (seq, t2, ns, m.corr) }
        else (s.setPtpPort x { p with req := none }).setPdly x t1 ns 0 m.corr
      | none => s
    | .pdelayRespFollowUp t3 =>
      match p.req, p.resp with
      | some (_, t1), some (seq, t2, t4, corr) =>
        if seq ≠ m.seq then s
        else (s.setPtpPort x { p with req := none, resp := none }).setPdly x t1 t4 ((t3 : Int) - t2) (corr + m.corr)
      | _, _ => s
    | .other => s

/-! ## Host queues (R373 to R375) -/

/-- A word of octets, one per nonet, from the first octet of the list (R373). -/
def packOctets (l : List (BitVec 8)) : Word :=
  BitVec.ofNat 36 ((l.take 4).mapIdx (fun i o => o.toNat * 2 ^ (9 * i))).sum

/-- Octets as words, in order; `n` bounds the words. -/
def octetWords : Nat → List (BitVec 8) → List Word
  | 0, _ => []
  | _, [] => []
  | n + 1, l => packOctets l :: octetWords n (l.drop 4)

/-- The octets of a word. -/
def wordOctets (w : Word) : List (BitVec 8) := (List.range 4).map fun i => BitVec.ofNat 8 (bits w (9 * i) 8)

/-- Descriptors of a ring. -/
def ringSize (code : Nat) : Nat := 2 ^ (Nat.min code 8 + 4)

/-- A failed check stops a queue (R373). -/
def State.hostStop (s : State) (p : Nat) (en : Field) : State :=
  ((s.fset en 0).flag (Reg.NP_HST_WIN p) (Reg.NP_HST_WIN_MORE p)).record tyNetwork 2 p p 0

/-- A frame is written through the descriptor at NEXT (R374). -/
def State.hostFill (s : State) (p x ns : Nat) (f : Frame) : State × Eng Bool :=
  let w := some (engWho p)
  let next := s.fget (Reg.NP_HRXC_NEXT p)
  let desc := (s.rget (Reg.NP_HRXB p)).toNat / 4 * 4 + 4 * next
  Eng.andThen (s.engReads 12 w desc 2) fun t d =>
    let d1 := d.getD 1 0
    if !bitAt d1 35 then (t, .ok false)
    else
      let size := bits d1 0 12
      let st := time72 ns (t.fget Reg.AN_TB_STAT_QUAL)
      let body := wordsAt (d.getD 0 0).toNat (octetWords 1024 (f.octets.take size))
      let done := BitVec.ofNat 36 (f.len % 4096 + x * 2 ^ 12 + (frameVid f) * 2 ^ 15 + b2n (decide (size < f.len)) * 2 ^ 32)
      Eng.andThen (t.engWrite 12 w none (body ++ [(desc + 2, st.1), (desc + 3, st.2), (desc + 1, done)])) fun u _ =>
        (u.fset (Reg.NP_HRXC_NEXT p) ((next + 1) % ringSize (u.fget (Reg.NP_HRXC_SIZE p))), .ok true)

/-- Whether partition `p`'s filter and ring take a frame (R374). -/
def State.hostTakes (s : State) (p : Nat) (f : Frame) : Bool :=
  s.fbit (Reg.NP_HRXC_EN p) && (!frameMulticast f || s.fbit (Reg.NP_HFIL_MC p)) &&
    (if s.fbit (Reg.NP_HFIL_VEN p) then decide ((frameVid f) = s.fget (Reg.NP_HFIL_VID p)) && f.tag.isSome else decide ((frameVid f) = 0))

/-- A frame that partition `p` takes goes into its receive ring (R373, R374); none while that waits for memory. -/
def State.hostPut (s : State) (p x ns : Nat) (f : Frame) : Option State :=
  match s.hostFill p x ns f with
  | (t, .ok true) => some (t.raise (144 + p))
  | (t, .window) => some (t.hostStop p (Reg.NP_HRXC_EN p))
  | (_, .wait) => none
  | (t, _) => some (t.flag (Reg.NP_HST_RXNB p) (Reg.NP_HST_RXNB_MORE p))

/-- A frame is offered to one partition's receive ring (R373, R374). -/
def State.hostDeliver (x ns : Nat) (f : Frame) (s : State) (p : Nat) : State :=
  let job : EngineJob := .hostRx p x ns false f
  if !s.hostTakes p f then s
  else if s.pd.jobs ≠ [] then s.later job
  else (s.hostPut p x ns f).getD (s.later job)

def octetsNat (l : List (BitVec 8)) : Nat := l.foldl (fun n o => n * 256 + o.toNat) 0

/-- A number as `n` octets, the most significant first. -/
def octetsBe : Nat → Nat → List (BitVec 8)
  | 0, _ => []
  | n + 1, v => BitVec.ofNat 8 (v / 2 ^ (8 * n)) :: octetsBe n v

/-- A frame as its octets give it, in the order of the wire. -/
def frameOf (l : List (BitVec 8)) : Frame :=
  let et := octetsNat ((l.drop 12).take 2)
  let tci := octetsNat ((l.drop 14).take 2)
  { dst := BitVec.ofNat 48 (octetsNat (l.take 6)), src := BitVec.ofNat 48 (octetsNat ((l.drop 6).take 6)),
    tag := if et = 0x8100 then some (BitVec.ofNat 3 (tci / 2 ^ 13), BitVec.ofNat 12 tci) else none,
    etype := BitVec.ofNat 16 (if et = 0x8100 then octetsNat ((l.drop 16).take 2) else et), red := .none, len := l.length,
    fcsOk := true, payload := .other, octets := l }

/-- The descriptor at NEXT is taken when its OWN is 1: its frame is queued (R375). -/
def State.hostTake (s : State) (p : Nat) : State × Eng Bool :=
  let w := some (engWho p)
  let next := s.fget (Reg.NP_HTXC_NEXT p)
  let desc := (s.rget (Reg.NP_HTXB p)).toNat / 4 * 4 + 4 * next
  Eng.andThen (s.engReads 12 w desc 2) fun t d =>
    let d1 := d.getD 1 0
    if !bitAt d1 35 then (t, .ok false)
    else
      let len := bits d1 0 12
      Eng.andThen (t.engReads 12 w (d.getD 0 0).toNat ((len + 3) / 4)) fun u ws =>
        let f := frameOf ((ws.flatMap wordOctets).take len)
        let x := bits d1 12 3
        let v := u.fset (Reg.NP_HTXC_NEXT p) ((next + 1) % ringSize (u.fget (Reg.NP_HTXC_SIZE p)))
        if x < 6 then (v.sendOwn x (v.classOf f x) (some (p, desc)) f, .ok true) else (v, .ok true)

/-- Descriptors are taken from NEXT while their OWN is 1, at most once round the ring; true where one waits for memory. -/
def State.hostSend (p : Nat) : Nat → State → State × Bool
  | 0, s => (s, false)
  | n + 1, s =>
    match s.hostTake p with
    | (t, .ok true) => State.hostSend p n t
    | (t, .window) => (t.hostStop p (Reg.NP_HTXC_EN p), false)
    | (_, .wait) => (s, true)
    | (t, _) => (t, false)

/-- A transmit ring that has been kicked is gone through (R375); true where a descriptor waits for memory. -/
def State.hostKick (s : State) (p : Nat) : State × Bool :=
  if s.fbit (Reg.NP_HTXC_EN p) then State.hostSend p (ringSize (s.fget (Reg.NP_HTXC_SIZE p))) s else (s, false)

/-- NP_HTXK_STORE (R375). -/
def runNpHtxkStore (p : Fin 16) (s : State) : State :=
  if s.pd.jobs ≠ [] then s.later (.hostTx p.val)
  else match s.hostKick p.val with
    | (t, true) => t.later (.hostTx p.val)
    | (t, false) => t

/-! ## Stores (R350, R363) -/

/-- A store refused with CFGREF; an LK refusal comes first. -/
def State.cfgRef (s : State) : State := s.flag Reg.NP_EVT_CFGREF Reg.NP_EVT_CFGREF_MORE

/-- NP_PCFG_STORE (R350). -/
def runNpPcfgStore (req : Requester) (va : Word) (x : Fin 6) (v : Word) (s : State) : State :=
  let a := Reg.NP_PCFG x.val
  let new := s.storedWord req.level a v 0
  let old := s.rget a
  if s.fbit (Reg.NP_PCFG_EN x.val) && decide (bits new 0 2 ≠ bits old 0 2 ∨ bits new 3 2 ≠ bits old 3 2) then s.cfgRef
  else s.regStore req va a v

/-- Whether a new NP_CFG is refused for pair `k` (R363). -/
def State.pairStoreBad (s : State) (old new : Word) (k : Nat) : Bool :=
  let o := bits old (2 * k) 2
  let n := bits new (2 * k) 2
  let x := 2 * k
  (decide (o ≠ n) && (s.fbit (Reg.NP_PCFG_EN x) || s.fbit (Reg.NP_PCFG_EN (x + 1)))) ||
    (decide (n = 1 ∨ n = 2) && decide (s.fget (Reg.NP_PCFG_MODE x) ≠ s.fget (Reg.NP_PCFG_MODE (x + 1))))

/-- A pair that is in neither HSR nor PRP keeps no ring state. -/
def State.clearPair (s : State) (k : Nat) : State :=
  if s.pairMode k ≠ 0 then s
  else ((((s.setDups k []).setNodes k []).fset (Reg.NP_RSTAT_OPEN k) 0).fset (Reg.NP_RSTAT_SILA k) 0).fset (Reg.NP_RSTAT_SILB k) 0

/-- NP_CFG_STORE (R353, R354, R363). -/
def runNpCfgStore (req : Requester) (va : Word) (v : Word) (s : State) : State :=
  let new := s.storedWord req.level Reg.NP_CFG v 0
  let old := s.rget Reg.NP_CFG
  if s.pairStoreBad old new 0 || s.pairStoreBad old new 1 then s.cfgRef
  else
    let s1 := ((s.regStore req va Reg.NP_CFG v).clearPair 0).clearPair 1
    if bitAt v 14 then runFlush s1 else s1

end Sys2Proof.Machine
end

