-- ==== Sys2Proof/Machine/Trig.lean ====
section
/-! DEFINITION. Exact functions of phases and of the four-point kernel (R164, R165, R173, R174, R393): cosine, sine, square
root and angle to far more bits than any result keeps. -/

namespace Sys2Proof.Machine

/-- The working scale, 2^120. -/
def fixOne : Int := 2 ^ 120

/-- π at the working scale. -/
def fixPi : Int := 4175892906503776358826876457663557747

/-- A product at the working scale. -/
def fixMul (a b : Int) : Int := a * b / fixOne

/-- Cosine by its series: Σ (−1)^k x^2k ÷ (2k)!. -/
def fixCos (x : Int) : Int :=
  let x2 := fixMul x x
  (List.range 20).foldl (fun (r : Int × Int) k =>
    (r.1 + r.2, -(fixMul r.2 x2) / ((2 * k + 1) * (2 * k + 2) : Nat))) (0, fixOne) |>.1

/-- Sine by its series: Σ (−1)^k x^(2k+1) ÷ (2k+1)!. -/
def fixSin (x : Int) : Int :=
  let x2 := fixMul x x
  (List.range 20).foldl (fun (r : Int × Int) k =>
    (r.1 + r.2, -(fixMul r.2 x2) / ((2 * k + 2) * (2 * k + 3) : Nat))) (0, x) |>.1

/-- Cosine and sine of `num ÷ den` turn, `num` below `den`, at the working scale. -/
def cosSinTurn (num den : Nat) : Int × Int :=
  let oct := 8 * num / den
  let rest := 8 * num % den
  let x : Int := fixPi * rest / (4 * den : Nat)
  let y : Int := fixPi * (den - rest : Nat) / (4 * den : Nat)
  match oct with
  | 0 => (fixCos x, fixSin x)
  | 1 => (fixSin y, fixCos y)
  | 2 => (-fixSin x, fixCos x)
  | 3 => (-fixCos y, fixSin y)
  | 4 => (-fixCos x, -fixSin x)
  | 5 => (-fixSin y, -fixCos y)
  | 6 => (fixSin x, -fixCos x)
  | _ => (fixCos y, -fixSin y)

/-- A value at the working scale rounded to an integer after a shift up by `n` bits. -/
def fixRnd (v : Int) (n : Nat) : Int := (v * 2 ^ n * 2 + fixOne) / (2 * fixOne)

/-- The clamp of C and S (R165). -/
def clampQ17 (v : Int) : Int := max (-131071) (min 131071 v)

/-- C(φ) (R165). -/
def cosQ17 (phi : Nat) : Int := clampQ17 (fixRnd (cosSinTurn (phi % 2 ^ 24) (2 ^ 24)).1 17)

/-- S(φ) (R165). -/
def sinQ17 (phi : Nat) : Int := clampQ17 (fixRnd (cosSinTurn (phi % 2 ^ 24) (2 ^ 24)).2 17)

/-- The arc tangent of a value from 0 to 1 at the working scale, in radians: two halvings of the angle, then the series. -/
def fixAtan (t : Int) : Int :=
  let half (u : Int) : Int :=
    let r : Int := (Nat.sqrt ((fixOne * fixOne + u * u).toNat) : Nat)
    u * fixOne / (fixOne + r)
  let v := half (half t)
  let v2 := fixMul v v
  4 * ((List.range 40).foldl (fun (r : Int × Int) k => (r.1 + r.2 / (2 * k + 1 : Nat), -(fixMul r.2 v2))) (0, v)).1

/-- The angle of (re, im) in turns, from 0 to below 1; 0 at the origin. -/
def angleTurns (re im : Int) : Rat :=
  if re = 0 ∧ im = 0 then 0
  else
    let a := re.natAbs
    let b := im.natAbs
    let part (n d : Nat) : Rat := mkRat (fixAtan ((n : Int) * fixOne / (d : Int))) (2 * fixPi.toNat)
    let first : Rat := if a = b then 1 / 8 else if b < a then part b a else 1 / 4 - part a b
    if 0 ≤ re then (if 0 ≤ im then first else if first = 0 then 0 else 1 - first)
    else (if 0 ≤ im then 1 / 2 - first else 1 / 2 + first)

/-- √n rounded to an integer (R164, R173). -/
def sqrtRnd (n : Nat) : Nat := (Nat.sqrt (4 * n) + 1) / 2

/-- sat36 (R164). -/
def sat36 (v : Int) : Int := max (-(2 ^ 35)) (min (2 ^ 35 - 1) v)

/-- Σ c_i × x_i of R174 before it is rounded, for μ = m ÷ 2^18. -/
def cubicSum (m : Nat) (xm x0 x1 x2 : Int) : Rat :=
  let u : Rat := mkRat m (2 ^ 18)
  (-(u * (u - 1) * (u - 2)) / 6) * xm + ((u + 1) * (u - 1) * (u - 2) / 2) * x0 + (-((u + 1) * u * (u - 2)) / 2) * x1 +
    ((u + 1) * u * (u - 1) / 6) * x2

/-- The CUBI result (R174). -/
def cubic (m : Nat) (xm x0 x1 x2 : Int) : Int := sat36 (rnd (cubicSum m xm x0 x1 x2))

end Sys2Proof.Machine
end

