-- ==== Sys2Proof/Machine/ProcessData.lean ====
section
/-! DEFINITION. The process-data engine (spec/13_process_data_path.md): tables, keys of frames, sampled-value subscriptions,
phasors for the references, and resampling onto the angle. -/

namespace Sys2Proof.Machine

/-! ## Keys (R390, R435, R436) -/

def KeyGroup.none : KeyGroup := { cur := Option.none, succ := Option.none }

def State.keyGroup (s : State) (id : Nat) : KeyGroup := Tab.get KeyGroup.none s.rook.keys id

def State.setKeyGroup (s : State) (id : Nat) (g : KeyGroup) : State :=
  { s with rook := { s.rook with keys := Tab.set KeyGroup.none s.rook.keys id g } }

/-- Whether a key is unexpired at `ns`. -/
def Key.alive (k : Key) (ns : Nat) : Bool := decide (ns < k.expiry)

/-- The group as key expiry leaves it at `ns`: a successor whose START has been reached takes an expired key's place. -/
def KeyGroup.at (g : KeyGroup) (ns : Nat) : KeyGroup :=
  match g.cur, g.succ with
  | some c, some n => if !c.alive ns && decide (n.start ≤ ns) then { cur := some n, succ := Option.none } else g
  | _, _ => g

/-- The unexpired current key of a group with a USE bit, where it holds one. -/
def State.keyNow (s : State) (id use : Nat) : Option Key :=
  match ((s.keyGroup id).at s.nowNs).cur with
  | some k => if decide (s.domState 83 = 1) && k.alive s.nowNs && k.use.getLsbD use then some k else Option.none
  | Option.none => Option.none

/-- The kind of code that an ALG makes (R435). -/
def codeKind (alg : Nat) : Nat := [0, 1, 2, 3, 4, 5, 4, 5].getD alg 0

/-- The bits of a code of a kind. -/
def codeBits (kind : Nat) : Nat := [0, 80, 128, 256, 64, 128].getD kind 0

/-- The content that a frame's code covers. -/
def Payload.signed : Payload → Payload
  | .sv a b c _ d => .sv a b c Option.none d
  | .goose a m _ d => .goose a m Option.none d
  | p => p

/-- The code of a content under a key. -/
def Key.codeOf (k : Key) (p : Payload) : Nat := (Config.frameCode k.value k.alg p).toNat % 2 ^ codeBits (codeKind k.alg)

/-- Whether an extension's code verifies under a key. -/
def Key.verifies (k : Key) (e : AuthExt) (p : Payload) : Bool :=
  decide (e.kind.val = codeKind k.alg) && decide (e.code = k.codeOf p)

/-- The outcome of authentication: accepted, verified or not, or rejected with a code. -/
inductive Auth where
  | ok (unauth : Bool)
  | reject (code : Nat)
  deriving DecidableEq, Repr

/-- Whether a frame's extension verifies under the current key, or under a successor whose START has been reached. -/
def State.extVerifies (s : State) (id : Nat) (k : Key) (ext : Option AuthExt) (p : Payload) : Bool :=
  match ext with
  | Option.none => false
  | some e =>
    if e.keyId = k.ident then k.verifies e p
    else match ((s.keyGroup id).at s.nowNs).succ with
      | some n => decide (n.ident = e.keyId) && decide (n.start ≤ s.nowNs) && n.alive s.nowNs && n.use.getLsbD 0 && n.verifies e p
      | Option.none => false

/-- Authentication of a frame (R390): the state, the outcome, and whether the want of a key has now been told. -/
def State.authenticate (s : State) (auth pol : Bool) (id : Nat) (told : Bool) (ext : Option AuthExt) (p : Payload) :
    State × Auth × Bool :=
  if !auth then (s, .ok false, told)
  else match s.keyNow id 0 with
    | some k =>
      if s.extVerifies id k ext (Payload.signed p) then (s, .ok false, false)
      else (s.flag Reg.PD_STAT_AUTHF Reg.PD_STAT_AUTHF_MORE, .reject 3, false)
    | Option.none =>
      let t := if told then s else (s.flag Reg.PD_STAT_KEYX Reg.PD_STAT_KEYX_MORE).raise 209
      (t, if pol then .ok true else .reject 8, true)

/-! ## Tables (R379, R380) -/

/-- The tables, by PD_CMD.TBL: 0 sampled-value subscriptions, 1 resample sets, 2 GOOSE subscriptions, 3 GOOSE publications,
4 sampled-value publications. -/
def tblSize (tbl : Nat) : Nat := [64, 16, 64, 64, 32].getD tbl 64

def tblCount (tbl : Nat) : Nat := [1024, 1024, 4096, 512, 64].getD tbl 0

def State.tblBase (s : State) (tbl : Nat) : Nat :=
  [s.fget Reg.PD_TSVS_BASE, s.fget Reg.PD_TRS_BASE, s.fget Reg.PD_TGS_BASE, s.fget Reg.PD_TGP_BASE, s.fget Reg.PD_TSP_BASE].getD tbl 0

/-- The word address of word `w` of entry `i` of a table. -/
def State.entryAt (s : State) (tbl i w : Nat) : PWord := 16 * s.tblBase tbl + tblSize tbl * i + w

/-- The words of an entry. -/
def State.readEntry (s : State) (tbl i : Nat) : State × Eng (List Word) := s.engReads 12 none (s.entryAt tbl i 0) (tblSize tbl)

/-- Status words of an entry, written with no check (R379). -/
def State.writeStatus (s : State) (tbl i w : Nat) (vs : List Word) : State :=
  s.engStore 12 none (wordsAt (s.entryAt tbl i w) vs)

/-- A word of memory as it stands, with no access made. -/
def State.peek (s : State) (pw : PWord) : Word :=
  match s.newestLine (pw / 16) with
  | some ws => dataOf (ws.getD (pw % 16) 0)
  | none => match s.fetchLine (pw / 16) with
    | .data _ ws _ => dataOf (ws.getD (pw % 16) 0)
    | _ => 0

def State.setPd (s : State) (p : Pd) : State := { s with pd := p }

/-- EVSRC of an entry; below 224 it raises nothing. -/
def State.raiseEv (s : State) (src : Nat) : State := if src < 224 then s else s.raise src

/-- The report of an entry's change of state (R389, R475). -/
def State.processRecord (s : State) (code part tbl i st : Nat) : State :=
  s.record tyProcess code part i (BitVec.ofNat 36 (tbl * 2 ^ 33 + st))

/-- What a FAULT of an entry reports (R380). -/
def State.faultReport (s : State) (part tbl i st : Nat) : State :=
  ((s.flag Reg.PD_STAT_FAULT Reg.PD_STAT_FAULT_MORE).raise 210).processRecord 3 part tbl i st

/-- An octet string held one octet per nonet. -/
def octetsAt (ws : List Word) (w n : Nat) : List (BitVec 8) := ((ws.drop w).flatMap wordOctets).take n

/-- The DMAC of an entry's words 2 and 3. -/
def dmacOf (ws : List Word) : BitVec 48 := BitVec.ofNat 48 (bits (ws.getD 2 0) 0 24 * 2 ^ 24 + bits (ws.getD 3 0) 0 24)

/-! ## Sampled-value subscriptions (R383 to R391) -/

def stOff : Nat := 0
def stWait : Nat := 1
def stOk : Nat := 2
def stLost : Nat := 3
def stFault : Nat := 4

/-- A sampled-value subscription entry's words (R385). -/
structure SvCfg where
  ws : List Word
  deriving DecidableEq, Repr

def SvCfg.w (c : SvCfg) (i : Nat) : Word := c.ws.getD i 0
def SvCfg.part (c : SvCfg) : Nat := bits (c.w 0) 0 4
def SvCfg.nch (c : SvCfg) : Nat := bits (c.w 0) 4 6
def SvCfg.nasdu (c : SvCfg) : Nat := if bits (c.w 0) 10 3 = 0 then 8 else bits (c.w 0) 10 3
def SvCfg.syncpol (c : SvCfg) : Nat := bits (c.w 0) 13 2
def SvCfg.simacc (c : SvCfg) : Bool := bitAt (c.w 0) 15
def SvCfg.auth (c : SvCfg) : Bool := bitAt (c.w 0) 16
def SvCfg.authpol (c : SvCfg) : Bool := bitAt (c.w 0) 17
def SvCfg.evsrc (c : SvCfg) : Nat := bits (c.w 0) 18 9
def SvCfg.hint (c : SvCfg) : Option (Fin 12) := hintOf (bits (c.w 0) 27 4) (bitAt (c.w 0) 31)
def SvCfg.size (c : SvCfg) : Nat := bits (c.w 0) 32 4
def SvCfg.appid (c : SvCfg) : Nat := bits (c.w 1) 0 16
def SvCfg.vid (c : SvCfg) : Nat := bits (c.w 1) 16 12
def SvCfg.confrev (c : SvCfg) : Nat := bits (c.w 4) 0 32
def SvCfg.wrap (c : SvCfg) : Nat := if bits (c.w 5) 0 16 = 0 then 65536 else bits (c.w 5) 0 16
def SvCfg.gapmax (c : SvCfg) : Nat := bits (c.w 5) 16 8
def SvCfg.recn (c : SvCfg) : Nat := if bits (c.w 5) 24 4 = 0 then 1 else bits (c.w 5) 24 4
def SvCfg.maxdly (c : SvCfg) : Nat := Nat.min (bits (c.w 6) 18 18) 2000
def SvCfg.toff (c : SvCfg) : Int := sint (c.w 7).toNat 36
def SvCfg.rate (c : SvCfg) : Nat := bits (c.w 8) 0 18
def SvCfg.ring (c : SvCfg) : Nat := bits (c.w 9) 0 32
def SvCfg.keyid (c : SvCfg) : Nat := bits (c.w 10) 0 16
def SvCfg.svid (c : SvCfg) : List (BitVec 8) := octetsAt c.ws 16 (bits (c.w 11) 0 6)
def SvCfg.nom (c : SvCfg) (ch : Nat) : Nat := bits (c.w (32 + ch)) 0 18
def SvCfg.lim (c : SvCfg) (ch : Nat) : Nat := bits (c.w (32 + ch)) 18 18

/-- E of R391: words of a raw entry. -/
def SvCfg.entryWords (c : SvCfg) : Nat :=
  let n := 3 + c.nch + (c.nch + 15) / 16
  if n ≤ 16 then 16 else if n ≤ 32 then 32 else 64

def SvSub.off : SvSub :=
  { state := 0, fresh := true, lastCnt := 0, lastRej := 0, next := 0, run := 0, hist := [], keyTold := false }

def State.svSub (s : State) (i : Nat) : SvSub := Tab.get SvSub.off s.pd.sv i

def State.setSv (s : State) (i : Nat) (x : SvSub) : State := s.setPd { s.pd with sv := Tab.set SvSub.off s.pd.sv i x }

/-- Status word 24 of a subscription. -/
def SvSub.word24 (x : SvSub) : Word := BitVec.ofNat 36 (x.state + 16 * x.lastRej + 2 ^ 20 * x.lastCnt)

/-- A subscription's state, written to its entry; a change is reported (R389). -/
def State.svState (s : State) (i part ev st : Nat) : State :=
  let x := s.svSub i
  let s1 := (s.setSv i { x with state := st }).writeStatus 0 i 24 [({ x with state := st } : SvSub).word24]
  if x.state = st then s1
  else if st = stFault then (s1.raiseEv ev).faultReport part 0 i st
  else (s1.raiseEv ev).processRecord 1 part 0 i st

/-- Counts of an entry's status words that wrap. -/
def State.bumpWord (s : State) (tbl i w n : Nat) : State :=
  s.writeStatus tbl i w [s.peek (s.entryAt tbl i w) + BitVec.ofNat 36 n]

/-- Rejected ASDUs (R386): counted one by one, the code kept, and the run of accepted ones ends. -/
def State.svReject (s : State) (i code n : Nat) : State :=
  let x := { s.svSub i with lastRej := code, run := 0 }
  ((s.setSv i x).bumpWord 0 i 29 n).writeStatus 0 i 24 [x.word24]

/-- The quality code of a channel from its 32 quality bits (R386). -/
def qualCode (q : BitVec 32) : Nat :=
  if q.toNat % 4 = 1 then 2 else if q.toNat % 4 = 3 then 1 else if q.getLsbD 11 ∧ q.toNat % 4 = 0 then 3 else 0

/-- The worst of several quality codes: 2, then 3, then 1 (R397). -/
def worstQual (l : List Nat) : Nat := if l.contains 2 then 2 else if l.contains 3 then 3 else if l.contains 1 then 1 else 0

/-- A raw entry with V = 0 (R391). -/
def State.rawGap (s : State) (i : Nat) (c : SvCfg) (cnt : Nat) : State × Eng Unit :=
  let x := s.svSub i
  let pw := 16 * c.ring + c.entryWords * (x.next % 2 ^ c.size)
  Eng.andThen (s.engWrite 12 (some (engWho c.part)) c.hint [(pw, BitVec.ofNat 36 cnt)]) fun t _ =>
    let h : RawSample := { v := false, ns := 0, vals := [], quals := [], steps := t.ang.steps }
    let y := { x with next := (x.next + 1) % 2 ^ 16, hist := (h :: x.hist).take 1024 }
    ((t.setSv i y).writeStatus 0 i 27 [BitVec.ofNat 36 y.next], .ok ())

/-- V = 0 entries for consecutive counts. -/
def State.rawGaps (i : Nat) (c : SvCfg) : Nat → Nat → State → State × Eng Unit
  | 0, _, s => (s, .ok ())
  | n + 1, cnt, s => Eng.andThen (s.rawGap i c (cnt % c.wrap)) fun t _ => State.rawGaps i c n (cnt + 1) t

/-- What the count of an ASDU says (R388): in order, a gap, a break, or old. -/
inductive Continuity where
  | inOrder
  | gap (n : Nat)
  | break_
  | old
  deriving DecidableEq, Repr

def SvSub.continuity (x : SvSub) (c : SvCfg) (cnt : Nat) : Continuity :=
  if x.fresh then .inOrder
  else
    let exp := (x.lastCnt + 1) % c.wrap
    let g := (cnt + c.wrap - exp) % c.wrap
    if g = 0 then .inOrder else if g ≤ c.gapmax then .gap g else if c.wrap < g + 16 then .old else .break_

/-- The sample time of an allowed ASDU in ns (R387). -/
def SvCfg.sampleNs (c : SvCfg) (cnt synch stamp : Nat) : Int :=
  if 2 ≤ synch ∨ (synch = 1 ∧ c.syncpol = 1) then
    let off := rnd (mkRat ((cnt * nsPerSec : Nat) : Int) c.rate) + c.toff
    ((stamp : Int) - off) / (nsPerSec : Int) * (nsPerSec : Int) + off
  else (stamp : Int) + c.toff

/-- The first check of R386 that an ASDU fails, 0 where it passes all. -/
def SvCfg.check (c : SvCfg) (x : SvSub) (a : Asdu) (stamp : Nat) : Nat :=
  let synch := a.smpSynch.toNat
  let t := c.sampleNs a.smpCnt.toNat synch stamp
  if a.confRev.toNat ≠ c.confrev then 2
  else if ¬ (2 ≤ synch ∨ c.syncpol = 2 ∨ (synch = 1 ∧ c.syncpol = 1)) then 5
  else if x.continuity c a.smpCnt.toNat = .old then 7
  else if ¬ (t ≤ stamp ∧ (stamp : Int) - t ≤ (1000 * c.maxdly : Nat)) then 6
  else 0

/-- The channels' quality codes of an accepted ASDU (R386, R390). -/
def SvCfg.quals (c : SvCfg) (a : Asdu) (unauth : Bool) : List Nat :=
  (List.range c.nch).map fun ch =>
    let v := (a.vals.getD ch 0).toInt
    if c.lim ch ≠ 0 ∧ c.lim ch * 2 ^ 14 < v.natAbs then 2
    else if unauth then 1 else qualCode (a.quals.getD ch 0)

/-- The quality words of a raw entry: channel c in bits 2(c mod 16) of word ⌊c/16⌋ (R391). -/
def qualWords (qs : List Nat) : List Word :=
  (List.range ((qs.length + 15) / 16)).map fun k =>
    BitVec.ofNat 36 (((qs.drop (16 * k)).take 16).mapIdx fun j q => q * 2 ^ (2 * j)).sum

/-- The raw entry of an accepted ASDU (R391), words 1 onwards and then word 0. -/
def State.rawEntry (s : State) (i : Nat) (c : SvCfg) (a : Asdu) (stamp : Nat) (sim unauth : Bool) : State × Eng RawSample :=
  let x := s.svSub i
  let cnt := a.smpCnt.toNat
  let ns := (c.sampleNs cnt a.smpSynch.toNat stamp).toNat
  let qs := c.quals a unauth
  let pw := 16 * c.ring + c.entryWords * (x.next % 2 ^ c.size)
  let tm := time72 ns (s.fget Reg.AN_TB_STAT_QUAL)
  let vals := (List.range c.nch).map fun ch => (a.vals.getD ch 0).signExtend 36
  let w0 := BitVec.ofNat 36 (cnt + 2 ^ 16 * Nat.min a.smpSynch.toNat 3 + 2 ^ 18 * worstQual qs + 2 ^ 20 * b2n sim +
    2 ^ 21 * b2n unauth + 2 ^ 35)
  let w := some (engWho c.part)
  Eng.andThen (s.engWrite 12 w c.hint (wordsAt (pw + 1) ([tm.1, tm.2] ++ vals ++ qualWords qs))) fun t _ =>
    Eng.andThen (t.engWrite 12 w c.hint [(pw, w0)]) fun u _ =>
      let h : RawSample :=
        { v := true, ns := ns, vals := (a.vals.take c.nch).map BitVec.toInt, quals := qs, steps := u.ang.steps }
      let y := { x with fresh := false, lastCnt := cnt, next := (x.next + 1) % 2 ^ 16, run := x.run + 1,
                        hist := (h :: x.hist).take 1024 }
      let u1 := (u.setSv i y).bumpWord 0 i 28 1
      (u1.writeStatus 0 i 24 [y.word24, tm.1, tm.2, BitVec.ofNat 36 y.next], .ok h)

/-! ### Phasors for the references (R52, R393) -/

/-- The sum Σ x(t − m) e^(j2πm/n) over the newest `n` samples of a channel, none where one of them is unusable. -/
def dftSum (h : List RawSample) (ch n : Nat) : Option (Int × Int) :=
  let win := h.take n
  if win.length < n ∨ win.any (fun r => !r.v || decide (r.quals.getD ch 2 = 2)) then none
  else some ((win.mapIdx fun m r =>
    let cs := cosSinTurn m n
    (r.vals.getD ch 0 * cs.1, r.vals.getD ch 0 * cs.2)).foldl (fun a b => (a.1 + b.1, a.2 + b.2)) (0, 0))

/-- A complex number turned by `num ÷ den` turn. -/
def turnBy (z : Int × Int) (num den : Nat) : Int × Int :=
  let cs := cosSinTurn num den
  (fixMul z.1 cs.1 - fixMul z.2 cs.2, fixMul z.1 cs.2 + fixMul z.2 cs.1)

/-- The DFT sum of the channels a reference names: one channel, or the positive sequence of three, times three (R52). -/
def phasorSum (h : List RawSample) (ch n : Nat) (pseq : Bool) : Option (Int × Int) :=
  if !pseq then (dftSum h ch n).map fun z => (3 * z.1, 3 * z.2)
  else match dftSum h ch n, dftSum h (ch + 1) n, dftSum h (ch + 2) n with
    | some a, some b, some c =>
      let b1 := turnBy b 1 3
      let c1 := turnBy c 2 3
      some (a.1 + b1.1 + c1.1, a.2 + b1.2 + c1.2)
    | _, _, _ => none

/-- The phasor that subscription `i` gives reference `n` for its newest sample; `missing` V = 0 entries came before it. -/
def State.givePhasor (i : Nat) (c : SvCfg) (h : RawSample) (missing : Nat) (s : State) (n : Nat) : State :=
  let w := (s.ref n).cfg
  if !cfgEn w || cfgNom w || decide (bits w 5 10 ≠ i) then s
  else
    let x := s.svSub i
    let win := (rnd ((c.rate : Rat) / cfgFnom w)).toNat
    let ch := bits w 15 5
    match phasorSum x.hist ch win (bitAt w 20) with
    | some z =>
      let size : Nat := Nat.sqrt (z.1 * z.1 + z.2 * z.2).toNat
      let mag := if c.nom ch = 0 then 0 else 4 * size / (3 * win * c.nom ch * 2 ^ 120)
      s.phasor n h.ns mag (angleTurns z.1 z.2) (decide (x.state = stOk) && decide (0 < win)) c.rate missing
    | none => s.phasor n h.ns 0 0 false c.rate missing

/-! ### Angles of samples (R396) -/

/-- A(s): the angle of reference `n` at a raw sample, none for a V = 0 entry or one beyond the epochs kept. -/
def State.angleOf (s : State) (n : Nat) (r : RawSample) : Option Rat :=
  match s.ang.epochs.getLast? with
  | none => none
  | some e => if !r.v || decide (r.ns < e.tb / 2 ^ 32) then none else some (s.phaseAt n r.ns)

/-- Whether angle `a` lies after angle `b`, both modulo 4,096 turns. -/
def angleAfter (a b : Rat) : Bool :=
  let d := (a - b) / 4096
  let f := d - d.floor
  decide (0 < f ∧ f < 1 / 2)

/-! ### Resample sets (R394 to R400) -/

structure RsCfg where
  ws : List Word
  deriving DecidableEq, Repr

def RsCfg.w (c : RsCfg) (i : Nat) : Word := c.ws.getD i 0
def RsCfg.sub (c : RsCfg) : Nat := bits (c.w 0) 0 10
def RsCfg.ref (c : RsCfg) : Nat := bits (c.w 0) 10 3
def RsCfg.n (c : RsCfg) : Nat := bits (c.w 0) 13 8 + 1
def RsCfg.lag (c : RsCfg) : Nat := bits (c.w 0) 21 4
def RsCfg.firstch (c : RsCfg) : Nat := bits (c.w 0) 25 5
def RsCfg.hint (c : RsCfg) : Option (Fin 12) := hintOf (bits (c.w 0) 30 4) true
def RsCfg.rlen (c : RsCfg) : Nat := if bits (c.w 1) 0 12 = 0 then 4096 else bits (c.w 1) 0 12
def RsCfg.nch (c : RsCfg) : Nat := bits (c.w 1) 12 6
def RsCfg.stride (c : RsCfg) : Nat := bits (c.w 1) 18 18
def RsCfg.rbase (c : RsCfg) : Nat := (c.w 2).toNat
def RsCfg.mark (c : RsCfg) : Nat := (c.w 3).toNat

def RsSet.off : RsSet :=
  { state := 0, sub := 0, ref := 0, nch := 0, next := 0, label := 0, last := 0, marked := none, prev := [], aband := [] }

def State.rsSet (s : State) (k : Nat) : RsSet := Tab.get RsSet.off s.pd.rs k

def State.setRs (s : State) (k : Nat) (x : RsSet) : State := s.setPd { s.pd with rs := Tab.set RsSet.off s.pd.rs k x }

/-- The partition of a subscription, as its entry stands. -/
def State.subPart (s : State) (i : Nat) : Nat := bits (s.peek (s.entryAt 0 i 0)) 0 4

/-- TURN and IDX of a label. -/
def labelWord (n l : Nat) : Nat := l / n % 4096 * 2 ^ 20 + l % n

/-- Status word 8 of a set; bits 1 and 0 are named for STATE and for IDX, and show both (R394, model's choice). -/
def State.rsWord (s : State) (k n : Nat) : State :=
  let x := s.rsSet k
  s.writeStatus 1 k 8 [BitVec.ofNat 36 x.state ||| BitVec.ofNat 36 (labelWord n x.last)]

/-- A set's entry into FAULT (R380, R400). -/
def State.rsFault (s : State) (k n : Nat) : State :=
  ((s.setRs k { s.rsSet k with state := 2 }).rsWord k n).faultReport (s.subPart (s.rsSet k).sub) 1 k 2

/-- A set after an access of the engine for it. -/
def State.rsDone (k n : Nat) (s0 : State) (r : State × Eng Unit) : State :=
  match r.2 with
  | .ok _ => r.1
  | .wait => s0
  | _ => r.1.rsFault k n

/-- PD_NRCH: the channels of the enabled sets. -/
def State.countChannels (s : State) : State :=
  s.fset Reg.PD_NRCH_COUNT ((s.pd.rs.filter fun (_, x) => decide (x.state ≠ 0)).map (·.2.nch)).sum

/-- The angle of a point in turns (R396). -/
def RsCfg.target (c : RsCfg) (l : Nat) : Rat := mkRat ((l : Int) - c.lag) c.n

/-- A point is written: the values of every channel, then the marker (R395, R396, R398). -/
def State.writePoint (s : State) (k : Nat) (c : RsCfg) (l : Nat) (vals : List Word) (qual held : Nat) : State × Eng Unit :=
  let x := s.rsSet k
  let w := some (engWho (s.subPart x.sub))
  let pos := l % (4096 * c.n) % c.rlen
  let data := vals.mapIdx fun j v => (c.rbase + c.stride * j + pos, v)
  Eng.andThen (s.engWrite 12 w c.hint data) fun t _ =>
    Eng.andThen (t.engWrite 12 w c.hint [(c.mark, BitVec.ofNat 36 (2 ^ 35 + qual * 2 ^ 33 + labelWord c.n l))]) fun u _ =>
      let u1 := u.setRs k { x with next := l + 1, last := l, marked := some l, prev := vals }
      ((u1.rsWord k c.n).bumpWord 1 k 9 held, .ok ())

/-- The value of each channel's previous point; before the first point of a set the spec names none. -/
def State.prevValues (s : State) (x : RsSet) : State × List Word :=
  if x.prev.length = x.nch then (s, x.prev)
  else (s.freeNext, List.replicate x.nch (Config.freeWord s.freeCtr))

/-- The samples s−1, s0, s1, s2 of a target angle, oldest first in `h`; none while s2 is not written. -/
def State.bracket (s : State) (n : Nat) (a : Rat) (h : List RawSample) : Option (List (Option RawSample)) :=
  let after (r : RawSample) : Bool := match s.angleOf n r with
    | some x => angleAfter x a
    | none => false
  match h.findIdx? after with
  | none => none
  | some k =>
    if k + 1 < h.length then
      some [if k < 2 then none else h[k - 2]?, if k < 1 then none else h[k - 1]?, h[k]?, h[k + 1]?]
    else none

/-- A channel's value at a point, none where it is held (R397). -/
def channelPoint (mu ch : Nat) : List (Option RawSample) → Option Int
  | [some a, some b, some c, some d] =>
    if [a, b, c, d].any fun r => decide (r.quals.getD ch 2 = 2) then none
    else some (cubic mu (a.vals.getD ch 0) (b.vals.getD ch 0) (c.vals.getD ch 0) (d.vals.getD ch 0))
  | _ => none

/-- Whether every channel of a point is held (R397): a sample unusable, a step between them, or the subscription not OK. -/
def State.pointHeld (s : State) (n : Nat) (sub : SvSub) (four : List (Option RawSample)) : Bool :=
  decide (sub.state ≠ stOk) ||
    four.any (fun o => match o with
      | none => true
      | some r => (s.angleOf n r).isNone) ||
    (match four with
     | [some a, some b, some c, some d] => decide (¬ (a.steps = b.steps ∧ b.steps = c.steps ∧ c.steps = d.steps))
     | _ => true)

/-- μ in units of 2^-18 (R396). -/
def State.pointMu (s : State) (n : Nat) (a : Rat) (four : List (Option RawSample)) : Nat :=
  match four with
  | [_, some b, some c, _] =>
    match s.angleOf n b, s.angleOf n c with
    | some x, some y =>
      let d := (a - x) - 4096 * ((a - x) / 4096).floor
      let span := (y - x) - 4096 * ((y - x) / 4096).floor
      ((2 ^ 18 : Nat) * d / span).floor.toNat
    | _, _ => 0
  | _ => 0

/-- The next point of set `k` is formed, where its completing sample has been written (R396, R397). -/
def State.formPoint (s : State) (k : Nat) (c : RsCfg) : State × Eng Unit :=
  let x := s.rsSet k
  let sub := s.svSub x.sub
  let a := c.target x.next
  match s.bracket x.ref a sub.hist.reverse with
  | none => (s, .ok ())
  | some four =>
    let all := s.pointHeld x.ref sub four
    let mu := s.pointMu x.ref a four
    let p := s.prevValues x
    let pts := (List.range x.nch).map fun j => if all then none else channelPoint mu (c.firstch + j) four
    let vals := (pts.zip p.2).map fun (o, v) => match o with
      | some i => BitVec.ofInt 36 i
      | none => v
    let held := (pts.filter Option.isNone).length
    let qs := four.flatMap fun o => match o with
      | some r => (List.range x.nch).map fun j => r.quals.getD (c.firstch + j) 0
      | none => []
    (if held = 0 then s else p.1).writePoint k c x.next vals (if held = 0 then worstQual qs else 2) held

/-- RESAMPLE_POINT (R396). -/
def runResamplePoint (k : Fin 1024) (s : State) : State :=
  if (s.rsSet k.val).state ≠ 1 then s
  else
    let r := s.readEntry 1 k.val
    let n := bits (s.peek (s.entryAt 1 k.val 0)) 13 8 + 1
    State.rsDone k.val n s (Eng.andThen r fun t ws => t.formPoint k.val { ws := ws })

/-- The angle that a reference has now, in turns. -/
def State.angleNow (s : State) (n : Nat) : Rat := accTurns (s.ref n).acc

/-- A label is reached (R398, R399): the point before it is written held if it is still unwritten; the marker is written to 0
unless it names the label. -/
def State.reachLabel (s : State) (k : Nat) (c : RsCfg) : State × Eng Unit :=
  let x := s.rsSet k
  let l := x.label
  let late : State × Eng Unit :=
    if x.next < l then
      let p := s.prevValues x
      Eng.andThen (p.1.writePoint k c x.next p.2 2 x.nch) fun t _ =>
        let y := t.rsSet k
        ((t.setRs k { y with aband := y.aband ++ [x.next] }).bumpWord 1 k 10 1, .ok ())
    else (s, .ok ())
  Eng.andThen late fun t _ =>
    let y := t.rsSet k
    if y.marked = some l then (t.setRs k { y with label := l + 1 }, .ok ())
    else
      Eng.andThen (t.engWrite 12 (some (engWho (t.subPart y.sub))) c.hint [(c.mark, 0)]) fun u _ =>
        (u.setRs k { u.rsSet k with marked := none, label := l + 1 }, .ok ())

/-- LABEL_REACHED (R398, R399): acts once the reference has reached the label that the set awaits. -/
def runLabelReached (k : Fin 1024) (s : State) : State :=
  let x := s.rsSet k.val
  let n := bits (s.peek (s.entryAt 1 k.val 0)) 13 8 + 1
  if x.state ≠ 1 ∨ angleAfter (mkRat x.label n) (s.angleNow x.ref) then s
  else State.rsDone k.val n s (Eng.andThen (s.readEntry 1 k.val) fun t ws => t.reachLabel k.val { ws := ws })

/-- A completing sample has come for a point abandoned before (R399). -/
def State.lateSamples (i : Nat) (s : State) (k : Nat) : State :=
  let x := s.rsSet k
  if x.state ≠ 1 ∨ x.sub ≠ i ∨ x.aband = [] then s
  else
    let c : RsCfg := { ws := [s.peek (s.entryAt 1 k 0)] }
    match (s.svSub i).hist[1]? with
    | none => s
    | some r =>
      match s.angleOf x.ref r with
      | none => s
      | some a =>
        let gone := x.aband.filter fun l => angleAfter a (c.target l)
        gone.foldl (fun t _ => (t.flag Reg.PD_STAT_RSOVR Reg.PD_STAT_RSOVR_MORE).raise 211)
          (s.setRs k { x with aband := x.aband.filter fun l => !angleAfter a (c.target l) })

/-- The sets whose reference is OFF go to FAULT with their marker at 0 (R400). -/
def State.setsOff (s : State) : State :=
  s.pd.rs.foldl (fun t (k, x) =>
    if x.state = 1 ∧ t.refState x.ref = 0 then
      let mark := (t.peek (t.entryAt 1 k 3)).toNat
      let n := bits (t.peek (t.entryAt 1 k 0)) 13 8 + 1
      ((t.engWrite 12 (some (engWho (t.subPart x.sub))) none [(mark, 0)]).1.setRs k { t.rsSet k with marked := none }).rsFault k n
    else t) s

/-- The first label whose angle lies after the reference's angle now (R396). -/
def State.startSet (s : State) (k n : Nat) : State :=
  let x := s.rsSet k
  let l := (s.angleNow x.ref * n).floor.toNat + 1
  s.setRs k { x with next := l, label := l, marked := none, aband := [] }

/-! ### Frames (R384, R386) -/

/-- An accepted ASDU (R386 to R389, R391, R393). -/
def State.svAccept (s : State) (i : Nat) (c : SvCfg) (a : Asdu) (stamp : Nat) (sim unauth : Bool) : State × Eng Unit :=
  let x := s.svSub i
  let cnt := a.smpCnt.toNat
  let exp := (x.lastCnt + 1) % c.wrap
  let gaps : State × Eng Nat := match x.continuity c cnt with
    | .gap g => Eng.andThen (State.rawGaps i c g exp s) fun t _ => (t.bumpWord 0 i 30 g, .ok g)
    | .break_ => Eng.andThen (s.rawGap i c cnt) fun t _ => (t, .ok 1)
    | _ => (s, .ok 0)
  Eng.andThen gaps fun t missing =>
    Eng.andThen (t.rawEntry i c a stamp sim unauth) fun u h =>
      let y := u.svSub i
      let u1 := if decide (y.state = stWait ∨ y.state = stLost) && decide (c.recn ≤ y.run) then u.svState i c.part c.evsrc stOk else u
      let u2 := (List.range 8).foldl (State.givePhasor i c h missing) u1
      ((u2.pd.rs.map (·.1)).foldl (State.lateSamples i) u2, .ok ())

/-- The ASDUs of a frame in order. -/
def State.svAsdus (i : Nat) (c : SvCfg) (stamp : Nat) (sim unauth : Bool) : List Asdu → State → State × Eng Unit
  | [], s => (s, .ok ())
  | a :: rest, s =>
    let code := c.check (s.svSub i) a stamp
    if code ≠ 0 then State.svAsdus i c stamp sim unauth rest (s.svReject i code 1)
    else Eng.andThen (s.svAccept i c a stamp sim unauth) fun t _ => State.svAsdus i c stamp sim unauth rest t

/-- Whether a frame's ASDUs have the structure a subscription expects (R386, code 1). -/
def SvCfg.structureOk (c : SvCfg) (asdus : List Asdu) (decodes : Bool) : Bool :=
  decodes && decide (asdus.length = c.nasdu) &&
    asdus.all fun a => decide (a.vals.length = c.nch ∧ a.quals.length = c.nch)

/-- A frame of subscription `i` (R386, R390). -/
def State.svHandle (s : State) (i : Nat) (c : SvCfg) (stamp : Nat) (p : Payload) (sim : Bool) (asdus : List Asdu)
    (ext : Option AuthExt) (decodes : Bool) : State × Eng Unit :=
  let n := Nat.max 1 asdus.length
  if !c.structureOk asdus decodes then (s.svReject i 1 n, .ok ())
  else
    let r := s.authenticate c.auth c.authpol c.keyid (s.svSub i).keyTold ext p
    let t := r.1.setSv i { r.1.svSub i with keyTold := r.2.2 }
    match r.2.1 with
    | .reject code => (t.svReject i code n, .ok ())
    | .ok unauth =>
      if sim && !c.simacc then (t.svReject i 4 n, .ok ())
      else State.svAsdus i c stamp sim unauth asdus t

/-- Whether a subscription entry's words name a frame (R384). -/
def SvCfg.takes (c : SvCfg) (f : Frame) (appid : BitVec 16) (asdus : List Asdu) : Bool :=
  decide (dmacOf c.ws = f.dst) && decide (c.appid = appid.toNat) && decide (c.vid = frameVid f) &&
    decide (some c.svid = (asdus.head?.map (·.svId)))

/-- The words of an entry as they stand. -/
def State.peekEntry (s : State) (tbl i : Nat) : List Word := (List.range (tblSize tbl)).map fun w => s.peek (s.entryAt tbl i w)

/-- The subscription takes a frame, or goes to FAULT where an access fails (R380); none while it waits for memory. -/
def State.svFrame (s : State) (i stamp : Nat) (p : Payload) (sim : Bool) (asdus : List Asdu) (ext : Option AuthExt)
    (decodes : Bool) : Option State :=
  match Eng.andThen (s.readEntry 0 i) fun t ws => t.svHandle i { ws := ws } stamp p sim asdus ext decodes with
  | (t, .ok _) => some t
  | (_, .wait) => none
  | (t, _) =>
    let c : SvCfg := { ws := t.peekEntry 0 i }
    some (t.svState i c.part c.evsrc stFault)

/-- A sampled-value frame reaches the engine (R384); none while it waits for memory. -/
def State.svReceived (s : State) (stamp : Nat) (f : Frame) (appid : BitVec 16) (sim : Bool) (asdus : List Asdu)
    (ext : Option AuthExt) (decodes : Bool) : Option State :=
  let m := (s.pd.sv.filter fun (_, x) => decide (x.state ≠ stOff ∧ x.state ≠ stFault)).find? fun (i, _) =>
    SvCfg.takes { ws := s.peekEntry 0 i } f appid asdus
  match m with
  | none => some (s.fadd Reg.PD_CNOSUB_N 1)
  | some (i, _) => s.svFrame i stamp f.payload sim asdus ext decodes

/-- SV_TIMEOUT (R389): no ASDU accepted for TMO µs. -/
def runSvTimeout (i : Fin 1024) (s : State) : State :=
  if (s.svSub i.val).state ≠ stOk then s
  else
    let c : SvCfg := { ws := s.peekEntry 0 i.val }
    let s1 := s.setSv i.val { s.svSub i.val with run := 0 }
    ((s1.svState i.val c.part c.evsrc stLost).bumpWord 0 i.val 31 1).flag Reg.PD_STAT_SVLOSS Reg.PD_STAT_SVLOSS_MORE

end Sys2Proof.Machine
end

