-- ==== Sys2Proof/Machine/Goose.lean ====
section
/-! DEFINITION. GOOSE subscriptions, publications, releases, discrete inputs and outputs, and the engine's commands
(spec/13_process_data_path.md, R381, R382, R401 to R419). -/

namespace Sys2Proof.Machine

/-! ## GOOSE subscriptions (R401 to R405) -/

/-- A GOOSE subscription entry's words (R401). -/
structure GoCfg where
  ws : List Word
  deriving DecidableEq, Repr

def GoCfg.w (c : GoCfg) (i : Nat) : Word := c.ws.getD i 0
def GoCfg.part (c : GoCfg) : Nat := bits (c.w 0) 0 4
def GoCfg.nmem (c : GoCfg) : Nat := if bits (c.w 0) 4 6 = 0 then 64 else bits (c.w 0) 4 6
def GoCfg.auth (c : GoCfg) : Bool := bitAt (c.w 0) 10
def GoCfg.authpol (c : GoCfg) : Bool := bitAt (c.w 0) 11
def GoCfg.testacc (c : GoCfg) : Bool := bitAt (c.w 0) 12
def GoCfg.simacc (c : GoCfg) : Bool := bitAt (c.w 0) 13
def GoCfg.evsrc (c : GoCfg) : Nat := bits (c.w 0) 14 9
def GoCfg.hint (c : GoCfg) : Option (Fin 12) := hintOf (bits (c.w 0) 23 4) (bitAt (c.w 0) 27)
def GoCfg.appid (c : GoCfg) : Nat := bits (c.w 1) 0 16
def GoCfg.vid (c : GoCfg) : Nat := bits (c.w 1) 16 12
def GoCfg.confrev (c : GoCfg) : Nat := bits (c.w 4) 0 32
def GoCfg.img (c : GoCfg) : Nat := (c.w 5).toNat
def GoCfg.keyid (c : GoCfg) : Nat := bits (c.w 6) 0 16
def GoCfg.talmax (c : GoCfg) : Nat := bits (c.w 6) 16 18
def GoCfg.ref (c : GoCfg) : List (BitVec 8) := octetsAt c.ws 16 (bits (c.w 7) 0 7)
def GoCfg.type (c : GoCfg) (m : Nat) : Nat := bits (c.w (8 + m / 9)) (4 * (m % 9)) 4

def GooseSub.off : GooseSub := { state := 0, lastRej := 0, stNum := 0, sqNum := 0, deadline := 0, keyTold := false }

def State.goSub (s : State) (i : Nat) : GooseSub := Tab.get GooseSub.off s.pd.goose i

/-- A GOOSE subscription and its status words 32 to 36. -/
def State.setGo (s : State) (i : Nat) (x : GooseSub) : State :=
  let d := time72 x.deadline 0
  (s.setPd { s.pd with goose := Tab.set GooseSub.off s.pd.goose i x }).writeStatus 2 i 32
    [BitVec.ofNat 36 (x.state + 16 * x.lastRej), x.stNum.setWidth 36, x.sqNum.setWidth 36, d.1, d.2]

/-- The report of a change of state; `ev` is EVSRC (R389). -/
def State.goState (s : State) (i part ev st : Nat) : State :=
  let x := s.goSub i
  let s1 := s.setGo i { x with state := st }
  if x.state = st then s1
  else if st = stFault then (s1.raiseEv ev).faultReport part 2 i st
  else (s1.raiseEv ev).processRecord 2 part 2 i st

def State.goReject (s : State) (i code : Nat) : State := (s.setGo i { s.goSub i with lastRej := code }).bumpWord 2 i 38 1

/-- Whether a member is of its TYPE (R401). -/
def memberOk (type : Nat) (v : GooseVal) : Bool :=
  match type, v with
  | 0, _ => true
  | 1, .bool _ => true
  | 2, .int i => decide (-(2 ^ 31) ≤ i ∧ i < 2 ^ 31)
  | 3, .uint n => decide (n < 2 ^ 32)
  | 4, .bitString b => decide (b.length ≤ 32)
  | 5, .float _ => true
  | 6, .utc _ => true
  | _, _ => false

/-- The quality of a received time (R411). -/
def utcQual (t : UtcTime) : Nat := if t.qual.getLsbD 6 then 3 else if t.qual.getLsbD 5 then 2 else 0

/-- A UtcTime as TIME72 in TAI (R401). -/
def State.utcTai (s : State) (t : UtcTime) : Word × Word :=
  let sec := ((t.secs.toNat : Int) + sint (s.fget Reg.AN_UTC_OFFS) 18).toNat
  time72 (sec * nsPerSec + t.frac.toNat * nsPerSec / 2 ^ 24) (utcQual t)

/-- A 72-bit value as two words, the higher at the lower address (R47). -/
def pair72 (v : Int) : List Word := [BitVec.ofInt 36 (v / 2 ^ 36), BitVec.ofInt 36 v]

/-- The image words of a member (R401, R405). -/
def State.memberWords (s : State) (type : Nat) (v : GooseVal) : List Word :=
  match type, v with
  | 1, .bool b => pair72 (b2n b : Nat)
  | 2, .int i => pair72 i
  | 3, .uint n => pair72 n
  | 4, .bitString b => pair72 ((b.mapIdx fun j x => b2n x * 2 ^ j).sum : Nat)
  | 5, .float f => pair72 f.toNat
  | 6, .utc t => [(s.utcTai t).1, (s.utcTai t).2]
  | _, _ => [0, 0]

/-- A write of an image under SEQ (R405): SEQ odd, the words, SEQ even. -/
def State.seqWrite (s : State) (part : Nat) (hint : Option (Fin 12)) (img : PWord) (ws : List (PWord × Word)) : State × Eng Unit :=
  let w := some (engWho part)
  Eng.andThen (s.engRead 12 none img) fun t q =>
    Eng.andThen (t.engWrite 12 w hint [(img, q + 1)]) fun u _ =>
      Eng.andThen (u.engWrite 12 w hint ws) fun v _ => v.engWrite 12 w hint [(img, q + 2)]

/-- Word 1 of an image (R405). -/
def imageWord1 (st : Nat) (m : GooseMsg) (unauth : Bool) : Word :=
  BitVec.ofNat 36 (st + 8 * b2n m.test + 16 * b2n m.simulation + 32 * b2n unauth + 64 * utcQual m.t)

/-- The first check of R402 before authentication that a message fails. -/
def GoCfg.check (c : GoCfg) (m : GooseMsg) (decodes : Bool) : Nat :=
  if !(decodes && decide (m.numEntries = c.nmem ∧ m.members.length = c.nmem) &&
      (List.range c.nmem).all fun k => memberOk (c.type k) (m.members.getD k .other)) then 1
  else if m.confRev.toNat ≠ c.confrev ∨ m.ndsCom then 2
  else 0

/-- Serial-number order modulo 2^32: `a` is after `b`. -/
def serialAfter (a b : BitVec 32) : Bool := decide (0 < (a - b).toNat ∧ (a - b).toNat < 2 ^ 31)

/-- An accepted message (R403, R404): a new state, or a subscription in LOST, has its whole image written; a retransmission
its head. -/
def State.goAccept (s : State) (i : Nat) (c : GoCfg) (m : GooseMsg) (stamp : Nat) (unauth new : Bool) : State × Eng Unit :=
  let x := s.goSub i
  let ttl := if c.talmax = 0 then m.ttl else Nat.min m.ttl c.talmax
  let tt := s.utcTai m.t
  let st := time72 stamp (s.fget Reg.AN_TB_STAT_QUAL)
  let head := [imageWord1 stOk m unauth, m.stNum.setWidth 36, m.sqNum.setWidth 36, tt.1, tt.2, st.1, st.2]
  let whole := new || decide (x.state = stLost)
  let body := if whole then (List.range c.nmem).flatMap fun k => s.memberWords (c.type k) (m.members.getD k .other) else []
  Eng.andThen (s.seqWrite c.part c.hint c.img (wordsAt (c.img + 1) (head ++ body))) fun t _ =>
    let y := { x with stNum := m.stNum, sqNum := m.sqNum, deadline := stamp + ttl * 1000000 }
    let t1 := (t.setGo i y).bumpWord 2 i 37 1
    let t2 := t1.goState i c.part c.evsrc stOk
    (if new && decide (x.state = stOk) then t2.raiseEv c.evsrc else t2, .ok ())

/-- A message of subscription `i` (R402, R403). -/
def State.goHandle (s : State) (i : Nat) (c : GoCfg) (stamp : Nat) (p : Payload) (m : GooseMsg) (ext : Option AuthExt)
    (decodes : Bool) : State × Eng Unit :=
  let code := c.check m decodes
  if code ≠ 0 then (s.goReject i code, .ok ())
  else
    let r := s.authenticate c.auth c.authpol c.keyid (s.goSub i).keyTold ext p
    let t := r.1.setGo i { r.1.goSub i with keyTold := r.2.2 }
    match r.2.1 with
    | .reject k => (t.goReject i k, .ok ())
    | .ok unauth =>
      let x := t.goSub i
      let same := decide (m.stNum = x.stNum) && decide (x.state ≠ stWait)
      if (m.test && !c.testacc) || (m.simulation && !c.simacc) then (t.goReject i 4, .ok ())
      else if same && !serialAfter m.sqNum x.sqNum then (t.goReject i 7, .ok ())
      else t.goAccept i c m stamp unauth (!same)

def GoCfg.takes (c : GoCfg) (f : Frame) (appid : BitVec 16) (m : GooseMsg) : Bool :=
  decide (dmacOf c.ws = f.dst) && decide (c.appid = appid.toNat) && decide (c.vid = frameVid f) && decide (c.ref = m.gocbRef)

/-- A GOOSE frame reaches the engine (R384, R401); none while it waits for memory. -/
def State.gooseReceived (s : State) (stamp : Nat) (f : Frame) (appid : BitVec 16) (m : GooseMsg) (ext : Option AuthExt)
    (decodes : Bool) : Option State :=
  let hit := (s.pd.goose.filter fun (_, x) => decide (x.state ≠ stOff ∧ x.state ≠ stFault)).find? fun (i, _) =>
    GoCfg.takes { ws := s.peekEntry 2 i } f appid m
  match hit with
  | none => some (s.fadd Reg.PD_CNOSUB_N 1)
  | some (i, _) =>
    match Eng.andThen (s.readEntry 2 i) fun t ws => t.goHandle i { ws := ws } stamp f.payload m ext decodes with
    | (t, .ok _) => some t
    | (_, .wait) => none
    | (t, _) =>
      let c : GoCfg := { ws := t.peekEntry 2 i }
      some (t.goState i c.part c.evsrc stFault)

/-- Words of an image are written under SEQ (R405, R416); where that fails, the subscription, or the inputs' image of table 7, has its
fault. None while it waits for memory. -/
def State.imageWrite (s : State) (part : Nat) (hint : Option (Fin 12)) (img : PWord) (ws : List (PWord × Word)) (tbl i : Nat) :
    Option State :=
  match s.seqWrite part hint img ws with
  | (t, .ok _) => some t
  | (_, .wait) => none
  | (t, _) =>
    if tbl = 2 then
      let c : GoCfg := { ws := t.peekEntry 2 i }
      some (t.goState i c.part c.evsrc stFault)
    else some (t.faultReport part tbl i 0)

/-- An image write, which joins the work that waits where it cannot be made at once. -/
def State.imageNow (s : State) (part : Nat) (hint : Option (Fin 12)) (img : PWord) (ws : List (PWord × Word)) (tbl i : Nat) : State :=
  let job : EngineJob := .image part hint img ws tbl i
  if s.pd.jobs ≠ [] then s.later job else (s.imageWrite part hint img ws tbl i).getD (s.later job)

/-- GOOSE_DEADLINE (R404). -/
def runGooseDeadline (i : Fin 4096) (s : State) : State :=
  let x := s.goSub i.val
  if x.state ≠ stOk ∨ s.nowNs < x.deadline then s
  else
    let c : GoCfg := { ws := s.peekEntry 2 i.val }
    let s1 := ((s.goState i.val c.part c.evsrc stLost).bumpWord 2 i.val 39 1).flag Reg.PD_STAT_GOLOSS Reg.PD_STAT_GOLOSS_MORE
    s1.imageNow c.part c.hint c.img [(c.img + 1, setBits (s1.peek (c.img + 1)) 0 3 stLost)] 2 i.val

/-! ## Publications (R408 to R414) -/

def pubOff : Nat := 0
def pubRun : Nat := 1
def pubFault : Nat := 2
def pubKeystop : Nat := 3

/-- A publication entry's words (R409, R413); `sv` says of which table. -/
structure PubCfg where
  sv : Bool
  ws : List Word
  deriving DecidableEq, Repr

def PubCfg.w (c : PubCfg) (i : Nat) : Word := c.ws.getD i 0
def PubCfg.part (c : PubCfg) : Nat := bits (c.w 0) 0 4
def PubCfg.port (c : PubCfg) : Nat := bits (c.w 0) 4 3
def PubCfg.n (c : PubCfg) : Nat := bits (c.w 0) 7 9
def PubCfg.auth (c : PubCfg) : Bool := bitAt (c.w 0) 16
def PubCfg.authpol (c : PubCfg) : Bool := bitAt (c.w 0) 17
def PubCfg.test (c : PubCfg) : Bool := bitAt (c.w 0) 18
def PubCfg.sim (c : PubCfg) : Bool := bitAt (c.w 0) 19
def PubCfg.pcp (c : PubCfg) : Nat := bits (c.w 0) 20 3
def PubCfg.appid (c : PubCfg) : Nat := bits (c.w 1) 0 16
def PubCfg.vid (c : PubCfg) : Nat := bits (c.w 1) 16 12
def PubCfg.confrev (c : PubCfg) : Nat := bits (c.w 4) 0 32
def PubCfg.mint (c : PubCfg) : Nat := bits (c.w 5) 0 18
def PubCfg.maxt (c : PubCfg) : Nat := bits (c.w 5) 18 18
def PubCfg.wrap (c : PubCfg) : Nat := if bits (c.w 5) 0 16 = 0 then 65536 else bits (c.w 5) 0 16
def PubCfg.tpl (c : PubCfg) : Nat := (c.w 6).toNat
def PubCfg.tpllen (c : PubCfg) : Nat := bits (c.w 7) 0 12
def PubCfg.mtab (c : PubCfg) : Nat := (c.w 8).toNat
def PubCfg.val (c : PubCfg) : Nat := if c.sv then (c.w 8).toNat else (c.w 9).toNat
def PubCfg.keyid (c : PubCfg) : Nat := if c.sv then bits (c.w 9) 0 16 else bits (c.w 10) 0 16
def PubCfg.tbl (c : PubCfg) : Nat := if c.sv then 4 else 3

/-- The ports a publication leaves by: a pair's two, or one (R409). -/
def PubCfg.ports (c : PubCfg) : List Nat :=
  if c.port < 4 then [c.port] else if c.port = 4 then [0, 1] else if c.port = 5 then [2, 3] else [c.port - 2]

def Pub.off : Pub := { state := 0, stNum := 0, sqNum := 0, interval := 0, tstate := 0, keyTold := false }

def State.pub (s : State) (tbl i : Nat) : Pub := Tab.get Pub.off (if tbl = 4 then s.pd.spub else s.pd.gpub) i

/-- A publication and its status words (R409, R413). -/
def State.setPub (s : State) (tbl i : Nat) (x : Pub) : State :=
  if tbl = 4 then
    (s.setPd { s.pd with spub := Tab.set Pub.off s.pd.spub i x }).writeStatus 4 i 16
      [BitVec.ofNat 36 x.state, BitVec.ofNat 36 x.sqNum]
  else
    (s.setPd { s.pd with gpub := Tab.set Pub.off s.pd.gpub i x }).writeStatus 3 i 16
      [BitVec.ofNat 36 x.state, BitVec.ofNat 36 x.stNum, BitVec.ofNat 36 x.sqNum]

/-- A publication goes to FAULT (R380). -/
def State.pubFaults (s : State) (tbl i : Nat) : State :=
  (s.setPub tbl i { s.pub tbl i with state := pubFault }).faultReport (bits (s.peek (s.entryAt tbl i 0)) 0 4) tbl i pubFault

/-- What the access of a publication leaves; none while it waits for memory. -/
def State.pubDone (tbl i : Nat) (r : State × Eng Unit) : Option State :=
  match r.2 with
  | .ok _ => some r.1
  | .wait => none
  | _ => some (r.1.pubFaults tbl i)

/-- The octets of a frame at its full size: members by TYPE, the template, and the fields that the engine encodes. -/
def memberSize (type : Nat) : Nat := [0, 3, 6, 7, 7, 7].getD type 0

def PubCfg.size (c : PubCfg) (types : List Nat) : Nat :=
  (if c.vid = 0 ∧ c.pcp = 0 then 0 else 4) + c.tpllen + (if c.auth then 48 else 0) +
    (if c.sv then 58 + 8 * c.n else 82 + (types.map memberSize).sum)

/-- The value of the first TLV of a template. -/
def firstTlv (l : List (BitVec 8)) : List (BitVec 8) := (l.drop 2).take (l.getD 1 0).toNat

/-- The time quality octet of R411. -/
def State.timeQuality (s : State) (q : Nat) : BitVec 8 :=
  let known := decide (q < 2) && decide (s.fget Reg.AN_UTC_USRC ≠ 0)
  BitVec.ofNat 8 (128 * b2n known + 64 * b2n (decide (q = 3)) + 32 * b2n (decide (2 ≤ q)) + [20, 17, 10, 31].getD q 31)

/-- A TAI time in ns as UtcTime (R409, R411). -/
def State.utcOf (s : State) (ns : Nat) : UtcTime :=
  let utc := ((ns / nsPerSec : Nat) : Int) - sint (s.fget Reg.AN_UTC_OFFS) 18
  { secs := BitVec.ofInt 32 utc, frac := BitVec.ofNat 24 (ns % nsPerSec * 2 ^ 24 / nsPerSec),
    qual := s.timeQuality (s.fget Reg.AN_TB_STAT_QUAL) }

/-- The value of a member as its TYPE sends it. -/
def encodeMember (type : Nat) (v : Word) : GooseVal :=
  match type with
  | 1 => .bool (bitAt v 0)
  | 2 => .int (sint v.toNat 32)
  | 3 => .uint (bits v 0 32)
  | 4 => .bitString ((List.range 32).map fun j => bitAt v j)
  | 5 => .float (v.setWidth 32)
  | _ => .other

/-- The extension of a frame under Rook's current key (R414). -/
def State.signFrame (s : State) (c : PubCfg) (p : Payload) : Payload :=
  match (if c.auth then s.keyNow c.keyid 1 else none), p with
  | some k, .goose a m _ d => .goose a m (some { keyId := k.ident, kind := ⟨codeKind k.alg % 6, Nat.mod_lt _ (by decide)⟩, code := k.codeOf p }) d
  | some k, .sv a b l _ d => .sv a b l (some { keyId := k.ident, kind := ⟨codeKind k.alg % 6, Nat.mod_lt _ (by decide)⟩, code := k.codeOf p }) d
  | _, _ => p

/-- A publication's frame is queued in class 7 on its port, or on both ports of a pair (R409). -/
def State.publish (s : State) (c : PubCfg) (types : List Nat) (etype : BitVec 16) (p : Payload) : State :=
  let x := c.ports.headD 0
  let f : Frame :=
    { dst := dmacOf c.ws, src := s.macOf x,
      tag := if c.vid = 0 ∧ c.pcp = 0 then none else some (BitVec.ofNat 3 c.pcp, BitVec.ofNat 12 c.vid), etype := etype,
      red := .none, len := c.size types, fcsOk := true, payload := s.signFrame c p, octets := [] }
  match s.ringPair x, c.ports with
  | none, [a, b] => s.queueFrames 6 7 s.nowNs none [(a, f), (b, f)]
  | _, _ => s.sendOwn x 7 none f

/-- Whether nothing may be published now: the engine is without power or dead, or the power fails (R419, R513). -/
def State.pdDown (s : State) : Bool := decide (s.domState 82 ≠ 1) || s.dead 12 || s.mor.powerFail

/-- The interval to the next frame after one of `iv` µs (R410). -/
def PubCfg.nextInterval (c : PubCfg) (iv : Nat) : Nat := Nat.min (2 * iv) (1000 * c.maxt)

/-- A GOOSE frame is sent from VAL (R409, R410). -/
def State.sendGoose (s : State) (i : Nat) (c : PubCfg) : State × Eng Unit :=
  Eng.andThen (s.engReads 12 none c.mtab c.n) fun t tys =>
    Eng.andThen (t.engReads 12 none c.val c.n) fun u vs =>
      Eng.andThen (u.engReads 12 none c.tpl ((c.tpllen + 3) / 4)) fun v ts =>
        let x := v.pub 3 i
        let types := tys.map fun w => bits w 0 4
        let m : GooseMsg :=
          { gocbRef := firstTlv ((ts.flatMap wordOctets).take c.tpllen), ttl := (2 * x.interval + 999) / 1000,
            t := v.utcOf x.tstate, stNum := BitVec.ofNat 32 x.stNum, sqNum := BitVec.ofNat 32 x.sqNum, test := c.test,
            simulation := c.sim, confRev := BitVec.ofNat 32 c.confrev, ndsCom := false, numEntries := c.n,
            members := (types.zip vs).map fun (ty, w) => encodeMember ty w }
        (if v.pdDown then v
         else (v.publish c types 0x88B8 (.goose (BitVec.ofNat 16 c.appid) m none true)).bumpWord 3 i 19 1, .ok ())

/-- Whether a publication may send: a key is held, or AUTHPOL lets it send without (R414). -/
def State.pubKeyed (s : State) (i : Nat) (c : PubCfg) : State × Bool :=
  let x := s.pub c.tbl i
  if !c.auth then (s, true)
  else if (s.keyNow c.keyid 1).isSome then (s.setPub c.tbl i { x with keyTold := false }, true)
  else
    let s1 := if x.keyTold then s else (s.flag Reg.PD_STAT_KEYX Reg.PD_STAT_KEYX_MORE).raise 209
    let y := { x with keyTold := true, state := if c.authpol then x.state else pubKeystop }
    (s1.setPub c.tbl i y, c.authpol)

/-- A number that wraps from 2^32 − 1 to 1 (R410). -/
def wrap32 (n : Nat) : Nat := if n = 2 ^ 32 - 1 then 1 else n + 1

/-- A retransmission of a publication that has not begun to leave is replaced (R410). -/
def State.replaceQueued (s : State) (i : Nat) (c : PubCfg) : State :=
  let gone (f : Frame) : Bool := match f.payload with
    | .goose a m _ _ => decide (f.dst = dmacOf c.ws ∧ a.toNat = c.appid ∧ m.stNum.toNat = (s.pub 3 i).stNum ∧ m.sqNum ≠ 0)
    | _ => false
  c.ports.foldl (State.cancelQueued · gone ·) s

/-- A new state of a GOOSE publication (R410, R414). -/
def State.gooseNew (s : State) (i : Nat) (c : PubCfg) : State × Eng Unit :=
  let r := s.pubKeyed i c
  if !r.2 then (r.1, .ok ())
  else
    let x := r.1.pub 3 i
    let y := { x with state := pubRun, stNum := wrap32 x.stNum, sqNum := 0, interval := c.mint, tstate := r.1.nowNs }
    let st := r.1.stamp
    (((r.1.replaceQueued i c).setPub 3 i y).writeStatus 3 i 20 [st.1, st.2]).sendGoose i c

/-- GOOSE_RETRANSMISSION (R410). -/
def runGooseRetransmission (g : Fin 512) (s : State) : State :=
  if (s.pub 3 g.val).state ≠ pubRun then s
  else (State.pubDone 3 g.val (Eng.andThen (s.readEntry 3 g.val) fun t ws =>
    let c : PubCfg := { sv := false, ws := ws }
    let r := t.pubKeyed g.val c
    if !r.2 then (r.1, .ok ())
    else
      let x := r.1.pub 3 g.val
      (r.1.setPub 3 g.val { x with sqNum := wrap32 x.sqNum, interval := c.nextInterval x.interval }).sendGoose g.val c)).getD s

/-- The saturated INT32 of a value word (R413). -/
def int32Of (w : Word) : BitVec 32 :=
  let v := w.toInt
  BitVec.ofInt 32 (if 2 ^ 31 ≤ v then 2 ^ 31 - 1 else if v < -(2 ^ 31) then -(2 ^ 31) else v)

/-- A sampled-value publication sends one frame of one ASDU (R413, R414). -/
def State.svPublish (s : State) (i : Nat) (c : PubCfg) : State × Eng Unit :=
  let r := s.pubKeyed i c
  if !r.2 then (r.1, .ok ())
  else
    Eng.andThen (r.1.engReads 12 none c.val 64) fun t vs =>
      Eng.andThen (t.engReads 12 none c.tpl ((c.tpllen + 3) / 4)) fun u ts =>
        let x := u.pub 4 i
        let cnt := (x.sqNum + 1) % c.wrap
        let a : Asdu :=
          { svId := firstTlv ((ts.flatMap wordOctets).take c.tpllen), smpCnt := BitVec.ofNat 16 cnt,
            confRev := BitVec.ofNat 32 c.confrev, smpSynch := if u.fget Reg.AN_TB_STAT_QUAL < 2 then 2 else 0,
            vals := (List.range c.n).map fun ch => int32Of (vs.getD ch 0),
            quals := (List.range c.n).map fun ch => (vs.getD (32 + ch) 0).setWidth 32 }
        let u1 := u.setPub 4 i { x with state := pubRun, sqNum := cnt }
        (if u1.pdDown then u1 else u1.publish c [] 0x88BA (.sv (BitVec.ofNat 16 c.appid) c.sim [a] none true), .ok ())

/-- A publication sends what a release or store has made of it: a GOOSE publication when a value changed, a sampled-value
publication always; one in KEYSTOP only once a key is held again (R408, R410, R413, R414). None while it waits for memory. -/
def State.pubSend (s : State) (tbl i : Nat) (changed : Bool) : Option State :=
  let st := (s.pub tbl i).state
  if ¬ (st = pubRun ∧ (tbl = 4 ∨ changed)) then some s
  else State.pubDone tbl i (Eng.andThen (s.readEntry tbl i) fun t ws =>
    let c : PubCfg := { sv := decide (tbl = 4), ws := ws }
    if tbl = 4 then t.svPublish i c else t.gooseNew i c)

/-- A value reaches a publication's value area (R408): none where the publication does not take it, else whether it changed. Nothing
while it waits for memory. -/
def State.pubValue (s : State) (tbl i m : Nat) (v : Word) : Option (State × Option Bool) :=
  let st := (s.pub tbl i).state
  if st ≠ pubRun ∧ st ≠ pubKeystop then some (s.fadd Reg.PD_CQDROP_N 1, none)
  else
    let r := Eng.andThen (s.readEntry tbl i) fun t ws =>
      let c : PubCfg := { sv := decide (tbl = 4), ws := ws }
      if c.n ≤ (if tbl = 4 then m % 32 else m) then (t, .ok none)
      else
        Eng.andThen (t.engRead 12 none (c.val + m)) fun u old =>
          Eng.andThen (u.engWrite 12 (some (engWho c.part)) none [(c.val + m, v)]) fun x _ => (x, .ok (some (decide (old ≠ v))))
    match r with
    | (t, .ok o) => some (t, o)
    | (_, .wait) => none
    | (t, _) => some (t.pubFaults tbl i, none)

/-! ## Discrete outputs (R417, R418) -/

def DiscOut.idle : DiscOut := { onNs := none, offDue := false }

def State.discOut (s : State) (n : Nat) : DiscOut := Tab.get DiscOut.idle s.pd.outs n

def State.setDiscOut (s : State) (n : Nat) (x : DiscOut) : State :=
  s.setPd { s.pd with outs := Tab.set DiscOut.idle s.pd.outs n x }

/-- Core cycles in a millisecond. -/
def cyclesPerMs : Nat := 1600000

/-- Whether output `n` may be on (R417). -/
def State.outputAllowed (s : State) (n : Nat) : Bool :=
  s.fbit (Reg.PD_DOCFG_EN n) && s.fbit (Reg.PD_DOB_V n) && !s.pdDown

def State.outCmd (s : State) (n : Nat) : Bool := bitAt (s.rget Reg.PD_DOSTAT) n
def State.outOn (s : State) (n : Nat) : Bool := bitAt (s.rget Reg.PD_DOSTAT) (8 + n)

def State.setOutBit (s : State) (i : Nat) (b : Bool) : State := s.rset Reg.PD_DOSTAT (setBits (s.rget Reg.PD_DOSTAT) i 1 (b2n b))

/-- The rails of output `n` follow its command (R563), or an OFF that waits for MINON, where it may be on. -/
def State.driveOutput (s : State) (n : Nat) : State :=
  s.setOutBit (8 + n) (s.outputAllowed n && (s.outCmd n || (s.discOut n).offDue))

def State.driveOutputs (s : State) : State := (List.range 8).foldl State.driveOutput s

/-- Whether MINON ms of the last ON have yet to pass (R417). -/
def State.minOn (s : State) (n : Nat) : Bool :=
  match (s.discOut n).onNs with
  | some t => decide (s.cyc < t + s.fget (Reg.PD_DOCFG_MINON n) * cyclesPerMs)
  | none => false

/-- A release or store writes output `n` (R417). -/
def State.writeOutput (s : State) (n : Nat) (on : Bool) : State :=
  let x := s.discOut n
  let y : DiscOut := if on then { onNs := some s.cyc, offDue := false } else { x with offDue := s.outOn n && s.minOn n }
  ((s.setOutBit n on).setDiscOut n y).driveOutput n

/-- MINON_EXPIRY (R417): nothing while MINON lasts. -/
def runMinonExpiry (n : Fin 8) (s : State) : State :=
  if s.minOn n.val then s
  else (s.setDiscOut n.val { s.discOut n.val with offDue := false }).driveOutput n.val

/-- Whether output `n` is on and DEADMAN ms since its last ON have yet to pass, or the output has no dead man (R417). -/
def State.deadmanRuns (s : State) (n : Nat) : Bool :=
  let ms := s.fget (Reg.PD_DOCFG_DEADMAN n)
  decide (ms = 0) || (match (s.discOut n).onNs with
    | some t => decide (s.cyc < t + ms * cyclesPerMs)
    | none => false)

/-- DEADMAN_EXPIRY (R417): nothing has written the output for DEADMAN ms. -/
def runDeadmanExpiry (n : Fin 8) (s : State) : State :=
  if s.deadmanRuns n.val then s
  else ((s.setOutBit n.val false).setDiscOut n.val { s.discOut n.val with offDue := false }).driveOutput n.val

/-- Every output goes OFF (R417). -/
def State.outputsOff (s : State) : State :=
  (List.range 8).foldl (fun t n => ((t.setOutBit n false).setDiscOut n DiscOut.idle).driveOutput n) s

/-- RAIL_READBACK (R418). -/
def runRailReadback (n : Fin 8) (high low : Bool) (s : State) : State :=
  if high = s.outOn n.val ∧ low = s.outOn n.val then s
  else (s.flag Reg.PD_DOSTAT_FAULT Reg.PD_DOSTAT_FAULT_MORE n.val).raise 208

/-! ## Releases and stores (R406 to R408, R412) -/

/-- The word offset in the output aperture of a released entry's target (R101, R406). -/
def targetOffset (w : Word) : Nat :=
  let k := bits w 33 3
  if k = 2 then bits w 0 3 else if k = 3 then 262144 + bits w 0 18 else 4096 + bits w 0 12

def State.setOutVal (s : State) (off : Nat) (v : Word) : State :=
  { s with sch := { s.sch with outVal := Tab.set 0 s.sch.outVal off v } }

/-- The discrete output at an aperture offset takes a value (R408, R417). -/
def State.takeOutput (s : State) (off : Nat) (v : Word) : State := (s.setOutVal off v).writeOutput off (bitAt v 0)

/-- A value for the publication at an aperture offset, and the publication with whether the value changed; none while it waits for
memory. -/
def State.takeValue (s : State) (off : Nat) (v : Word) : Option (State × Option (Nat × Nat × Bool)) :=
  let s1 := s.setOutVal off v
  let t := if 262144 ≤ off then (3, (off - 262144) / 512, (off - 262144) % 512) else (4, (off - 4096) / 64, (off - 4096) % 64)
  (s1.pubValue t.1 t.2.1 t.2.2 v).map fun r => (r.1, r.2.map fun c => (t.1, t.2.1, c))

/-- A publication joins those a release has touched, in the order of its first entry. -/
def touch (l : List (Nat × Nat × Bool)) (t : Nat × Nat × Bool) : List (Nat × Nat × Bool) :=
  if l.any fun x => decide (x.1 = t.1 ∧ x.2.1 = t.2.1) then
    l.map fun x => if x.1 = t.1 ∧ x.2.1 = t.2.1 then (x.1, x.2.1, x.2.2 || t.2.2) else x
  else l ++ [t]

def State.setTouched (s : State) (c : Nat) (l : List (Nat × Nat × Bool)) : State :=
  s.setPd { s.pd with touched := Tab.set [] s.pd.touched c l }

/-- A publication to send, as work of the engine. -/
def sendJob (t : Nat × Nat × Bool) : EngineJob := .send t.1 t.2.1 t.2.2

/-- OUTPUT_BIND_STORE (R407). -/
def runOutputBindStore (req : Requester) (va : Word) (a : PWord) (v : Word) (s : State) : State :=
  let old := s.rget a
  let new := s.storedWord req.level a v 0
  let busy (w : Word) : Bool := bitAt w 12 && !pageIdle (s.entry (bits w 0 12)).state
  if decide (bits old 0 13 ≠ bits new 0 13) && (busy old || busy new) then s.storeError req va 4
  else
    let s1 := s.regStore req va a v
    let n := a - Reg.PD_DOB 0
    if Reg.PD_DOB 0 ≤ a ∧ n < 8 then
      let s2 := if s1.fbit (Reg.PD_DOB_V n) then s1 else (s1.setOutBit n false).setDiscOut n DiscOut.idle
      s2.driveOutput n
    else s1

/-! ## Discrete inputs (R415, R416) -/

/-- DISCRETE_INPUT_CHANGE: input `n` has held `level` for FILT µs. -/
def runDiscreteInputChange (n : Fin 16) (level : Bool) (s : State) : State :=
  let s1 := s.rset Reg.PD_DISTAT (setBits (s.rget Reg.PD_DISTAT) (16 + n.val) 1 (b2n level))
  if !s1.fbit (Reg.PD_DICFG_EN n.val) then s1
  else
    let st := level != s1.fbit (Reg.PD_DICFG_INV n.val)
    if st = bitAt (s1.rget Reg.PD_DISTAT) n.val then s1
    else
      let ns := s1.nowNs - 1000 * Nat.min (s1.fget (Reg.PD_DICFG_FILT n.val)) 1000
      let tm := time72 ns (s1.fget Reg.AN_TB_STAT_QUAL)
      let s2 := (s1.rset Reg.PD_DISTAT (setBits (s1.rget Reg.PD_DISTAT) n.val 1 (b2n st))).raise (192 + n.val)
      let img := 16 * s2.fget Reg.PD_DIIMG_ADDR
      let hint := hintOf (s2.fget Reg.PD_DICTL_TCL) (s2.fbit Reg.PD_DICTL_TCLV)
      let part := s2.fget Reg.PD_DICTL_PART
      s2.imageNow part hint img
        [(img + 1, BitVec.ofNat 36 (s2.fget Reg.PD_DISTAT_STATE)), (img + 2 + 2 * n.val, tm.1), (img + 3 + 2 * n.val, tm.2)] 7 n.val

/-- An input that is off reads 0 and reports nothing (R415). -/
def State.inputOff (s : State) (n : Nat) : State :=
  if s.fbit (Reg.PD_DICFG_EN n) then s else s.rset Reg.PD_DISTAT (setBits (s.rget Reg.PD_DISTAT) n 1 0)

/-! ## Commands (R381, R382) -/

/-- PD_RES after a command. -/
def State.pdResult (s : State) (status : Nat) : State := (s.fset Reg.PD_RES_STATUS status).fset Reg.PD_RES_DONE 1

/-- FULL (R381). -/
def stsFull : Nat := 5

/-- ENABLE of a sampled-value subscription. -/
def State.enableSv (s : State) (i : Nat) (ws : List Word) : State × Nat :=
  let c : SvCfg := { ws := ws }
  let len := bits (c.w 11) 0 6
  let twin := (s.pd.sv.filter fun (j, x) => decide (j ≠ i ∧ x.state ≠ stOff)).any fun (j, _) =>
    let d : SvCfg := { ws := s.peekEntry 0 j }
    decide (dmacOf d.ws = dmacOf ws ∧ d.appid = c.appid ∧ d.svid = c.svid)
  if ¬ (1 ≤ c.nch ∧ c.nch ≤ 32 ∧ 1 ≤ c.nasdu ∧ c.syncpol ≤ 2 ∧ 4 ≤ c.size ∧ 1 ≤ len ∧ len ≤ 32 ∧ 1 ≤ c.rate ∧ c.rate ≤ 16384) then
    (s, stsBadArg)
  else if twin then (s, stsConflict)
  else
    let x : SvSub := { SvSub.off with lastCnt := bits (c.w 24) 20 16, lastRej := bits (c.w 24) 4 4, next := bits (c.w 27) 0 16 }
    ((s.setSv i x).svState i c.part c.evsrc stWait, stsOk)

/-- ENABLE of a resample set. -/
def State.enableRs (s : State) (k : Nat) (ws : List Word) : State × Nat :=
  let c : RsCfg := { ws := ws }
  let sub : SvCfg := { ws := s.peekEntry 0 c.sub }
  let total := ((s.pd.rs.filter fun (_, x) => decide (x.state ≠ 0)).map (·.2.nch)).sum
  if c.nch = 0 ∨ 32 < c.nch ∨ c.n * 4096 % c.rlen ≠ 0 then (s, stsBadArg)
  else if (s.svSub c.sub).state = stOff ∨ sub.nch < c.firstch + c.nch then (s, stsConflict)
  else match s.viewRef sub.part c.ref with
    | none => (s, stsConflict)
    | some n =>
      if s.refState n = 0 ∨ ¬ s.aligned n then (s, stsConflict)
      else if 4096 < total + c.nch then (s, stsFull)
      else
        let x : RsSet := { RsSet.off with state := 1, sub := c.sub, ref := n, nch := c.nch }
        ((((s.setRs k x).startSet k c.n).rsWord k c.n).countChannels, stsOk)

/-- ENABLE of a GOOSE subscription. -/
def State.enableGo (s : State) (i : Nat) (ws : List Word) : State × Nat :=
  let c : GoCfg := { ws := ws }
  let len := bits (c.w 7) 0 7
  let twin := (s.pd.goose.filter fun (j, x) => decide (j ≠ i ∧ x.state ≠ stOff)).any fun (j, _) =>
    let d : GoCfg := { ws := s.peekEntry 2 j }
    decide (dmacOf d.ws = dmacOf ws ∧ d.appid = c.appid ∧ d.ref = c.ref)
  if len = 0 ∨ 64 < len ∨ (List.range c.nmem).any fun m => decide (6 < c.type m) then (s, stsBadArg)
  else if twin then (s, stsConflict)
  else
    let x : GooseSub := { GooseSub.off with lastRej := bits (c.w 32) 4 4, stNum := (c.w 33).setWidth 32, sqNum := (c.w 34).setWidth 32 }
    ((s.setGo i x).goState i c.part c.evsrc stWait, stsOk)

/-- ENABLE of a publication. -/
def State.enablePub (s : State) (tbl i : Nat) (ws : List Word) : State × Eng Nat :=
  let c : PubCfg := { sv := decide (tbl = 4), ws := ws }
  Eng.andThen (if tbl = 4 then (s, .ok []) else s.engReads 12 none c.mtab c.n) fun t tys =>
    let types := tys.map fun w => bits w 0 4
    let long := c.ports.any fun x => decide (Nat.min (t.fget (Reg.NP_PCFG_MAXLEN x)) 2048 < c.size types)
    let range := decide (c.n = 0) || (if tbl = 4 then decide (32 < c.n) else types.any fun ty => decide (ty = 0 ∨ 5 < ty))
    if range || long then (t, .ok stsBadArg)
    else
      let t1 := t.setPub tbl i { Pub.off with state := pubRun, sqNum := if tbl = 4 then bits (c.w 17) 0 16 else 0 }
      if tbl = 4 then (t1, .ok stsOk)
      else Eng.andThen (t1.gooseNew i c) fun u _ => (u, .ok stsOk)

/-- The state of an entry. -/
def State.entryState (s : State) (tbl i : Nat) : Nat :=
  match tbl with
  | 0 => (s.svSub i).state
  | 1 => (s.rsSet i).state
  | 2 => (s.goSub i).state
  | _ => (s.pub tbl i).state

/-- An entry whose words cannot be read goes to FAULT (R380). -/
def State.entryFault (s : State) (tbl i : Nat) : State :=
  match tbl with
  | 0 => let c : SvCfg := { ws := s.peekEntry 0 i }; s.svState i c.part c.evsrc stFault
  | 1 => s.rsFault i 1
  | 2 => let c : GoCfg := { ws := s.peekEntry 2 i }; s.goState i c.part c.evsrc stFault
  | _ => s.pubFaults tbl i

/-- ENABLE of an entry (R382): the state and STATUS, none while it waits for memory. -/
def State.pdEnable (s : State) (tbl i : Nat) : Option (State × Nat) :=
  if s.entryState tbl i ≠ 0 then some (s, stsConflict)
  else match Eng.andThen (s.readEntry tbl i) fun u ws =>
      match tbl with
      | 0 => let r := u.enableSv i ws; (r.1, Eng.ok r.2)
      | 1 => let r := u.enableRs i ws; (r.1, Eng.ok r.2)
      | 2 => let r := u.enableGo i ws; (r.1, Eng.ok r.2)
      | k => u.enablePub k i ws with
    | (u, .ok n) => some (u, n)
    | (_, .wait) => none
    | (u, _) => some (u.entryFault tbl i, stsOk)

/-- An enabled MEAS reference that names a subscription (R382). -/
def State.refNames (s : State) (i : Nat) : Bool :=
  (List.range 8).any fun n => let w := s.rget (Reg.AN_REF_CFG n); cfgEn w && !cfgNom w && decide (bits w 5 10 = i)

/-- DISABLE of an entry (R382): the state and STATUS. -/
def State.pdDisable (t : State) (tbl i : Nat) : State × Nat :=
  let named := t.pd.rs.any fun (_, x) => decide (x.state ≠ 0 ∧ x.sub = i)
  if t.entryState tbl i = 0 then (t, stsConflict)
  else match tbl with
    | 0 =>
      if named || t.refNames i then (t, stsConflict)
      else
        let c : SvCfg := { ws := t.peekEntry 0 i }
        let u := t.svState i c.part c.evsrc stOff
        (u.setSv i SvSub.off, stsOk)
    | 1 =>
      let n := bits (t.peek (t.entryAt 1 i 0)) 13 8 + 1
      let u := (t.setRs i { t.rsSet i with state := 0 }).rsWord i n
      ((u.setRs i RsSet.off).countChannels, stsOk)
    | 2 =>
      let c : GoCfg := { ws := t.peekEntry 2 i }
      let u := t.goState i c.part c.evsrc stOff
      (u.setPd { u.pd with goose := Tab.set GooseSub.off u.pd.goose i GooseSub.off }, stsOk)
    | k => (t.setPub k i { t.pub k i with state := pubOff }, stsOk)

/-- ENABLE (OP 1) and DISABLE with their results; a refusal is recorded and leaves no other effect. None while it waits for memory. -/
def State.pdWork (s : State) (op tbl idx : Nat) : Option State :=
  (if op = 1 then s.pdEnable tbl idx else some (s.pdDisable tbl idx)).map fun r =>
    if r.2 = 0 then r.1.pdResult stsOk
    else (s.refusal r.2 0 0o7777 blkPD op (tbl * 2 ^ 12 + idx)).pdResult r.2

/-- A command of PD_CMD (R381): refused with BUSY while DONE is 0 and with BAD_ARG beyond the tables; it follows the frames that are in the
engine (R419), and DONE is 0 while it waits. -/
def State.pdCommand (s : State) (op tbl idx : Nat) : State :=
  let arg := tbl * 2 ^ 12 + idx
  let job : EngineJob := .command op tbl idx
  if ¬ s.fbit Reg.PD_RES_DONE then
    (s.flag Reg.PD_RES_BUSYHIT Reg.PD_RES_BUSYHIT_MORE).refusal stsBusy 0 0o7777 blkPD op arg
  else if op = 0 ∨ 2 < op ∨ tblCount tbl ≤ idx then (s.refusal stsBadArg 0 0o7777 blkPD op arg).pdResult stsBadArg
  else if s.pd.jobs ≠ [] then (s.fset Reg.PD_RES_DONE 0).later job
  else (s.pdWork op tbl idx).getD ((s.fset Reg.PD_RES_DONE 0).later job)

/-- PD_ENABLE (R381, R382). -/
def runPdEnable (tbl : BitVec 3) (idx : BitVec 12) (s : State) : State := s.pdCommand 1 tbl.toNat idx.toNat

/-- PD_DISABLE (R381, R382). -/
def runPdDisable (tbl : BitVec 3) (idx : BitVec 12) (s : State) : State := s.pdCommand 2 tbl.toNat idx.toNat

/-! ## The engine's work in order (R286, R384, R408) -/

/-- A received frame reaches its subscription (R384, R419); one found with an uncorrectable word reaches none (R358). None while it waits
for memory. -/
def State.takeFrame (s : State) (ns : Nat) (ue : Bool) (f : Frame) : Option State :=
  if !s.fbit Reg.PD_CTL_EN || s.pd.hold || s.pdDown then some s
  else if ue then some s.frameUe
  else match f.payload with
    | .sv appid sim asdus ext dec => s.svReceived ns f appid sim asdus ext dec
    | .goose appid m ext dec => s.gooseReceived ns f appid m ext dec
    | _ => some s

/-- One piece of work: the state after it with what it leaves to do at once; none while it waits for memory. -/
def State.workOne (s : State) : EngineJob → Option (State × List EngineJob)
  | .frame ns ue f => (s.takeFrame ns ue f).map fun t => (t, [])
  | .hostRx p x ns ue f =>
    if !s.fbit (Reg.NP_HRXC_EN p) then some (s, [])
    else if ue then some (s.frameUe, [])
    else (s.hostPut p x ns f).map fun t => (t, [])
  | .image part hint img ws tbl i => (s.imageWrite part hint img ws tbl i).map fun t => (t, [])
  | .entry c off v =>
    (s.takeValue off v).map fun r =>
      (match r.2 with
       | some t => r.1.setTouched c (touch (Tab.get [] r.1.pd.touched c) t)
       | none => r.1, [])
  | .finish c => some (s.setTouched c [], (Tab.get [] s.pd.touched c).map sendJob)
  | .store off v => (s.takeValue off v).map fun r => (r.1, (r.2.map sendJob).toList)
  | .send tbl i changed => (s.pubSend tbl i changed).map fun t => (t, [])
  | .hostTx p =>
    match s.hostKick p with
    | (_, true) => none
    | (t, false) => some (t, [])
  | .hostDone p d hi lo => (s.hostSent p d (hi, lo)).map fun t => (t, [])
  | .command op tbl idx => (s.pdWork op tbl idx).map fun t => (t, [])

/-- The work that waits is done in order, up to a piece whose memory does not answer. -/
def State.workOn : Nat → State → State
  | 0, s => s
  | n + 1, s =>
    match s.pd.jobs with
    | [] => s
    | j :: rest =>
      match State.workOne (s.setPd { s.pd with jobs := [] }) j with
      | none => s
      | some (t, l) => State.workOn n (t.setPd { t.pd with jobs := l ++ rest ++ t.pd.jobs })

/-- A bound on the pieces of work: each leaves at most the publications that it or its release touches. -/
def State.workBound (s : State) : Nat := 3 * s.pd.jobs.length + (s.pd.touched.map (·.2.length)).sum + 1

/-- The engine goes on with its work. -/
def State.work (s : State) : State := if s.pd.jobs = [] then s else State.workOn s.workBound s

/-- The engine takes up a piece of work after what waits. -/
def State.engineDo (s : State) (j : EngineJob) : State := (s.later j).work

/-- The work that a publication release brings: an output takes its value as the entry arrives (R408). -/
def State.releasedEntry (c : Nat) (s : State) (e : CommitEntry) : State :=
  let off := targetOffset e.target
  if off < 8 then s.takeOutput off e.out else s.later (.entry c off e.out)

/-- PUBLICATION_RELEASE (R408): the engine takes the entries of a release; after the last, each publication touched sends at
most one frame. -/
def runPublicationRelease (s : State) : State :=
  match s.pd.released with
  | [] => s
  | r :: rest =>
    let s1 := r.entries.foldl (State.releasedEntry r.ctx) (s.setPd { s.pd with released := rest })
    (if r.final then s1.later (.finish r.ctx) else s1).work

/-- A store by the class-G context bound to a target takes effect when it completes (R20, R105, R412). -/
def State.apertureStore (s : State) (off : Nat) (v : Word) : State :=
  if off < 8 then s.takeOutput off v else s.engineDo (.store off v)

/-- A publication that may send under no key any more is stopped, or sends without (R414). -/
def State.keysGone (s : State) : State :=
  let run (l : Tab Pub) : List Nat := (l.filter fun (_, x) => decide (x.state = pubRun)).map (·.1)
  let t := (run s.pd.gpub).foldl (fun t i => (t.pubKeyed i { sv := false, ws := t.peekEntry 3 i }).1) s
  (run s.pd.spub).foldl (fun t i => (t.pubKeyed i { sv := true, ws := t.peekEntry 4 i }).1) t

/-- Publications in KEYSTOP send a new state once a key is held again (R414). -/
def State.keysHeld (s : State) : State :=
  let go := (s.pd.gpub.filter fun (_, x) => decide (x.state = pubKeystop)).map fun (i, _) => (3, i)
  let sv := (s.pd.spub.filter fun (_, x) => decide (x.state = pubKeystop)).map fun (i, _) => (4, i)
  (go ++ sv).foldl (fun t (tbl, i) =>
    let c : PubCfg := { sv := decide (tbl = 4), ws := t.peekEntry tbl i }
    if (t.keyNow c.keyid 1).isSome then (t.setPub tbl i { t.pub tbl i with state := pubRun }).engineDo (.send tbl i true) else t) s

/-! ## Resets (R376, R417, R419) -/

/-- What a warm reset does to the engine (R419). -/
def State.pdWarmReset (s : State) : State :=
  let s1 := s.setPd { s.pd with released := [], touched := [], jobs := [], hold := true }
  let s2 := (s1.pd.sv.filter fun (_, x) => decide (x.state ≠ stOff ∧ x.state ≠ stFault)).foldl (fun t (i, _) =>
    let c : SvCfg := { ws := t.peekEntry 0 i }
    let u := t.svState i c.part c.evsrc stWait
    u.setSv i { u.svSub i with fresh := true, run := 0 }) s1
  let s3 := (s2.pd.goose.filter fun (_, x) => decide (x.state ≠ stOff ∧ x.state ≠ stFault)).foldl (fun t (i, _) =>
    let c : GoCfg := { ws := t.peekEntry 2 i }
    t.goState i c.part c.evsrc stWait) s2
  let s4 := (s3.pd.rs.filter fun (_, x) => decide (x.state = 1)).foldl (fun t (k, x) =>
    let mark := (t.peek (t.entryAt 1 k 3)).toNat
    (t.engWrite 12 (some (engWho (t.subPart x.sub))) none [(mark, 0)]).1) s3
  s4.outputsOff

/-- The release of a warm reset: sets take up at the next label due, and each RUN GOOSE publication sends a new state (R396,
R419). -/
def State.pdRelease (s : State) : State :=
  let s1 := s.setPd { s.pd with hold := false }
  let s2 := (s1.pd.rs.filter fun (_, x) => decide (x.state = 1)).foldl (fun t (k, _) =>
    t.startSet k (bits (t.peek (t.entryAt 1 k 0)) 13 8 + 1)) s1
  (s2.pd.gpub.filter fun (_, x) => decide (x.state = pubRun)).foldl (fun t (i, _) => t.engineDo (.send 3 i true)) s2

end Sys2Proof.Machine
end

