-- ==== Sys2Proof/Machine/Moraine.lean ====
section
/-! DEFINITION. The Moraine (spec/15_dictionary_roles_moraine.md, R473 to R480): the writer, the tag, the scan and the reading of
slots. Records are queued by `State.record` (Machine/Ops.lean). -/

namespace Sys2Proof.Machine

/-- Ring slots of the MRAM (R473). -/
def ringSlots : Nat := 61440

/-- One bit of CRC-16 with polynomial x^16 + x^12 + x^5 + 1. -/
def crcBit (c : Nat) (b : Bool) : Nat :=
  let top := decide (2 ^ 15 ≤ c)
  let s := c * 2 % 2 ^ 16
  if top != b then s ^^^ 0x1021 else s

/-- The CRC-16 of 48 bits, the highest first, from FFFFh (R473). -/
def crc16 (v : Nat) : Nat := (List.range 48).foldl (fun c i => crcBit c (v.testBit (47 - i))) 0xFFFF

/-- The tag of a slot (R473). -/
def moTag (seq : Nat) (cont committed : Bool) : BitVec 64 :=
  let top := seq % 2 ^ 44 * 16 + 8 * b2n cont + 4 * b2n committed
  BitVec.ofNat 64 (top * 2 ^ 16 + crc16 top)

def tagSeq (t : BitVec 64) : Nat := t.toNat / 2 ^ 20
def tagCont (t : BitVec 64) : Bool := t.getLsbD 19
def tagDone (t : BitVec 64) : Bool := t.getLsbD 18
def tagGood (t : BitVec 64) : Bool := decide (crc16 (t.toNat / 2 ^ 16) = t.toNat % 2 ^ 16)

def MoSlot.blank : MoSlot := { words := [], tag := 0 }

def State.moRing (s : State) (i : Nat) : MoSlot := Tab.get MoSlot.blank s.mor.ring i
def State.moFf (s : State) (i : Nat) : MoSlot := Tab.get MoSlot.blank s.mor.ff i
def State.setMor (s : State) (m : Mor) : State := { s with mor := m }

/-- The lowest SEQ of a committed head that the ring holds. -/
def oldestHead : Tab MoSlot → Option Nat
  | [] => none
  | (_, x) :: t =>
    match oldestHead t with
    | none => if tagDone x.tag && !tagCont x.tag then some (tagSeq x.tag) else none
    | some n => if tagDone x.tag && !tagCont x.tag && decide (tagSeq x.tag < n) then some (tagSeq x.tag) else some n

/-- MO_NEXT and MO_OLD, which read 0 until READY (R474). -/
def State.moShow (s : State) : State :=
  let n := if s.fbit Reg.MO_STAT_READY then s.mor.next else 0
  let o := if s.fbit Reg.MO_STAT_READY then (oldestHead s.mor.ring).getD 0 else 0
  (((s.fset Reg.MO_NEXT_HI_SEQ (n / 2 ^ 36)).fset Reg.MO_NEXT_LO_SEQ (n % 2 ^ 36)).fset Reg.MO_OLD_HI_SEQ (o / 2 ^ 36)).fset
    Reg.MO_OLD_LO_SEQ (o % 2 ^ 36)

/-- The LOSS record is queued where the queue has room for it (R477), or from the third reserved slot once the rest is written
after a power fail (R479). -/
def State.tellLoss (s : State) : State :=
  if s.mor.powerFail then
    if s.mor.queue = [] ∧ s.mor.pfDropped ≠ 0 then
      let h := s.recordHead tyLoss 0 0 0 0 (BitVec.ofNat 36 (Nat.min s.mor.pfDropped (2 ^ 36 - 1)))
      (s.setMor { s.mor with queue := recordSlots false h [], pfDropped := 0, dropped := 0 }).qdep
    else s
  else if s.mor.dropped ≠ 0 ∧ s.mor.queue.length + 1 ≤ 253 then
    let h := s.recordHead tyLoss 0 0 0 0 (BitVec.ofNat 36 (Nat.min s.mor.dropped (2 ^ 36 - 1)))
    (s.setMor { s.mor with queue := s.mor.queue ++ recordSlots false h [], dropped := 0 }).qdep
  else s

/-- A slot put into the ring or the first-fault region. -/
def State.putSlot (s : State) (ff : Bool) (i : Nat) (x : MoSlot) : State :=
  if ff then s.setMor { s.mor with ff := Tab.set MoSlot.blank s.mor.ff i x }
  else s.setMor { s.mor with ring := Tab.set MoSlot.blank s.mor.ring (i % ringSlots) x }

/-- The first-fault slots of a copy that failed are used up; where the region then lacks room, nothing more of the copy at the head
of the queue is written (R474, R476). -/
def State.skipFf (s : State) (n : Nat) : State :=
  let used := Nat.min (s.fget Reg.MO_STAT_FFCNT + n) 4096
  let s1 := s.fset Reg.MO_STAT_FFCNT used
  if used + (s.mor.queue.filter (·.ff)).length ≤ 4096 then s1
  else (s1.setMor { s1.mor with queue := s1.mor.queue.drop n }).ffFull

/-- MORAINE_SLOT_WRITE (R474, R476, R477): the slot at the head of the queue, continuations before their head. Where it fails
read-back it is left with K = 0, the record's slots are skipped, and the record is written again. -/
def runMoraineSlotWrite (ok : Bool) (s : State) : State :=
  if !s.fbit Reg.MO_STAT_READY then s
  else match s.mor.queue with
    | [] => s.tellLoss
    | q :: rest =>
      let base := if s.mor.done = [] ∧ ¬ q.ff then s.mor.next else s.mor.base
      let seq := base + q.idx
      let ffBase := s.fget Reg.MO_STAT_FFCNT
      let at_ := if q.ff then ffBase + q.idx else seq
      let slot (k : Bool) : MoSlot := { words := q.words.map sealWord, tag := moTag seq (decide (q.idx ≠ 0)) k }
      if !ok then
        let s0 := s.putSlot q.ff at_ (slot false)
        let s1 := s0.setMor { s0.mor with
          queue := s.mor.done ++ s.mor.queue, done := [], base := base, next := if q.ff then s.mor.next else base + q.total }
        let s2 := if q.ff then s1.skipFf q.total else s1
        ((s2.flag Reg.MO_EVT_MERR Reg.MO_EVT_MERR_MORE).raise 118).qdep.moShow
      else
        let s1 := s.putSlot q.ff at_ (slot true)
        let last := decide (q.idx = 0)
        let s2 := s1.setMor { s1.mor with
          queue := rest, done := if last then [] else s1.mor.done ++ [q], base := base,
          next := if last && !q.ff then base + q.total else s1.mor.next }
        let s3 := if last && q.ff then s2.fset Reg.MO_STAT_FFCNT (ffBase + q.total) else s2
        s3.qdep.tellLoss.moShow

/-- The highest SEQ of a committed slot of the ring, plus one. -/
def scanNext : Tab MoSlot → Nat
  | [] => 0
  | (_, x) :: t => if tagDone x.tag then Nat.max (tagSeq x.tag + 1) (scanNext t) else scanNext t

/-- MORAINE_SCAN_COMPLETE (R474). -/
def runMoraineScanComplete (s : State) : State :=
  if s.fbit Reg.MO_STAT_READY then s
  else ((s.setMor { s.mor with next := Nat.max s.mor.next (scanNext s.mor.ring) }).fset Reg.MO_STAT_READY 1).moShow

/-- MO_RSEL_LO_STORE (R480). -/
def runMoRselLoStore (req : Requester) (va : Word) (v : Word) (s : State) : State :=
  if !s.fbit Reg.MO_RST_DONE then s
  else
    let s1 := (s.regStore req va Reg.MO_RSEL_LO v).fset Reg.MO_RST_DONE 0
    s1.setMor { s1.mor with reading := true }

/-- A store to MO_RSEL_HI leaves the register unchanged while a read is in progress (R480). -/
def State.moRselHiStore (s : State) (req : Requester) (va : Word) (v : Word) : State :=
  if s.fbit Reg.MO_RST_DONE then s.regStore req va Reg.MO_RSEL_HI v else s

/-- The slot that MO_RSEL selects, none where the ring holds no such SEQ. -/
def State.selectedSlot (s : State) (ff : Bool) (sel : Nat) : Option MoSlot :=
  if ff then some (s.moFf (sel % 4096))
  else
    let x := s.moRing (sel % ringSlots)
    if x ≠ MoSlot.blank ∧ tagSeq x.tag = sel then some x else none

/-- The outcome of reading a slot (R480): its status and its words. -/
def MoSlot.read (x : MoSlot) : Nat × List Word :=
  let rs := (List.range 4).map fun i => readSealed (x.words.getD i 0)
  let ws := rs.map fun r => (r.word).getD 0
  if !tagDone x.tag then (2, ws)
  else if !tagGood x.tag then (3, ws)
  else if rs.any fun r => (r.word).isNone then (4, ws)
  else (0, ws)

/-- MORAINE_READ_DONE (R480). -/
def runMoraineReadDone (s : State) : State :=
  if !s.mor.reading then s
  else
    let ff := s.fbit Reg.MO_RSEL_HI_FF
    let sel := if ff then (s.rget Reg.MO_RSEL_LO).toNat else s.fget Reg.MO_RSEL_HI_SEQ * 2 ^ 36 + (s.rget Reg.MO_RSEL_LO).toNat
    let s0 := (s.setMor { s.mor with reading := false }).fset Reg.MO_RST_DONE 1
    match (if s.fbit Reg.MO_STAT_READY then s.selectedSlot ff sel else none) with
    | none => s0.fset Reg.MO_RST_STATUS 1
    | some x =>
      let r := x.read
      let s1 := (List.range 4).foldl (fun t i => t.rset (Reg.MO_RW i) (r.2.getD i 0)) (s0.fset Reg.MO_RST_STATUS r.1)
      (s1.fset Reg.MO_RTAG_HI_T (x.tag.toNat / 2 ^ 36)).fset Reg.MO_RTAG_LO_T (x.tag.toNat % 2 ^ 36)

end Sys2Proof.Machine
end

