-- ==== Sys2Proof/Machine/Session.lean ====
section
/-! DEFINITION. The sessions of the dictionary as registers show them, and their end (R466 to R468, R472, R475, R482). -/

namespace Sys2Proof.Machine

def State.setDict (s : State) (d : Dict) : State := { s with dict := d }

/-- Session `n`, where one is challenged or open. -/
def State.sess (s : State) (n : Nat) : Option Session := Tab.get none s.dict.sess n

def State.setSess (s : State) (n : Nat) (x : Option Session) : State :=
  s.setDict { s.dict with sess := Tab.set none s.dict.sess n x }

def State.sessState (s : State) (n : Nat) : Nat := s.fget (Reg.DX_SESS_STATE n)
def State.sessRole (s : State) (n : Nat) : Nat := s.fget (Reg.DX_SESS_ROLE n)
def State.sessPart (s : State) (n : Nat) : Nat := s.fget (Reg.DX_SESS_PART n)
def State.sessCred (s : State) (n : Nat) : Nat := s.fget (Reg.DX_SESS_CRED n)
def State.sessTr (s : State) (n : Nat) : Nat := s.fget (Reg.DX_SESS_TR n)

/-- DATA of a SESSION record (R475). -/
def State.sessData (s : State) (n : Nat) : Word :=
  BitVec.ofNat 36 (s.sessRole n + s.sessPart n * 4 + s.sessCred n * 64 + s.sessTr n * 4096)

/-- Sessions that are challenged or open. -/
def State.openSessions (s : State) : List Nat := (List.range 16).filter fun n => decide (s.sessState n ≠ 0)

/-- DX_STAT.NSESS follows the sessions (R483). -/
def State.nsess (s : State) : State :=
  s.fset Reg.DX_STAT_NSESS ((List.range 16).filter fun n => decide (s.sessState n = 2)).length

/-- The SID is freed. -/
def State.freeSid (s : State) (n : Nat) : State := ((s.setSess n none).rset (Reg.DX_SESS n) 0).nsess

/-- A session ends (R468, R472): its stage list goes with it, a SESSION record with `code` is made, source 113 is raised where
it was open. -/
def State.endSession (s : State) (n code : Nat) : State :=
  if s.sessState n = 0 then s
  else if s.sessState n = 1 then s.freeSid n
  else ((s.record tySession code (s.sessPart n) n (s.sessData n)).freeSid n).raise 113

/-- Every session that satisfies `p` ends. -/
def State.endSessions (s : State) (p : Nat → Option Session → Bool) (code : Nat) : State :=
  s.openSessions.foldl (fun t n => if p n (t.sess n) then t.endSession n code else t) s

end Sys2Proof.Machine
end

