-- ==== Sys2Proof/Machine/Pcie.lean ====
section
/-! DEFINITION. The PCIe endpoint (spec/16_pcie_endpoint.md): configuration space, inbound requests, windows, interrupts,
mailboxes, the outbound queue and resets. The places of bits that R484 takes from the PCI Express Base standard are PRESUMED
(assumption 40). -/

namespace Sys2Proof.Machine

def State.setPx (s : State) (p : Pcie) : State := { s with pcie := p }

/-- A software source named by a register of partition `p` is raised under the ownership rule of R85; 0 names none. -/
def State.raiseOwned (s : State) (p src : Nat) : State :=
  if src = 0 then s
  else if 512 ≤ src ∧ s.srcOwner src = p then s.raise src
  else s.flag (Reg.SC_PSTAT_BADRAISE p) (Reg.SC_PSTAT_BADRAISE_MORE p)

/-- The partition of a function (R485). -/
def State.pxPart (s : State) (f : Nat) : Nat := if f = 0 then 0 else s.fget (Reg.PX_FCTL_PART f)

/-- Whether partition `p` exists (R463). -/
def State.partExists (s : State) (p : Nat) : Bool := s.dict.parts.getLsbD p

/-- Vectors of a function's MSI-X table (R484). -/
def pxVectors (f : Nat) : Nat := if f = 0 then 64 else 8

/-! ## Interrupt requests (R497, R502) -/

/-- A vector is requested: its pending bit, or its MORE bit, is set, and its message takes its place in the queue. -/
def State.requestVector (s : State) (f n : Nat) : State :=
  let size := if f = 0 ∧ s.fget (Reg.PX_FCTL_IMODE 0) = 2 then 32 else pxVectors f
  let v := n % size
  let s1 := s.flag (Reg.PX_FPEND_PEND f (v / 16)) (Reg.PX_FPEND_PEND_MORE f (v / 16)) (v % 16)
  s1.setPx { s1.pcie with queue := s1.pcie.queue ++ [.vector f v] }

/-- A flag of PX_EVT is set, with what R502 adds to it. -/
def State.pxEvent (s : State) (f more : Field) : State :=
  let s1 := (s.flag f more).raiseOwned 0 (s.fget Reg.PX_CFG_ESRC)
  if s1.fbit Reg.PX_CFG_ERRVEN then s1.requestVector 0 (s1.fget Reg.PX_CFG_ERRVEC) else s1

/-- PX_EVT.CFGREF (R492). -/
def State.pxRefused (s : State) : State := s.pxEvent Reg.PX_EVT_CFGREF Reg.PX_EVT_CFGREF_MORE

/-- What leaves the queue without waiting: reads and writes ahead of the first vector (R495), and at most `n` reads (R484). -/
def ahead : Nat → List PxTlp → List PxTlp × List PxTlp
  | _, [] => ([], [])
  | _, .vector f v :: t => ([], .vector f v :: t)
  | 0, .read g i a k :: t => ([], .read g i a k :: t)
  | n + 1, .read g i a k :: t => (.read g i a k :: (ahead n t).1, (ahead n t).2)
  | n, x :: t => (x :: (ahead n t).1, (ahead n t).2)

/-- Whether a slot's outbound read still waits in the endpoint's queue (R495). -/
def State.readQueued (s : State) (i : Nat) : Bool :=
  s.pcie.queue.any fun x => match x with
    | .read _ j _ _ => decide (j = i)
    | _ => false

/-- Non-posted requests on the link (R484). -/
def State.readsOut (s : State) : Nat :=
  (s.core.slots.filter fun (i, x) => (x.outLoad.map (·.out)) = some true && !s.readQueued i).length

/-- Nothing has gone onto the link yet in what the endpoint does now. -/
def State.linkIdle (s : State) : State := s.setPx { s.pcie with sent := [] }

/-- Reads and writes at the front of the queue go onto the link, as long as no more than 32 requests wait for completions (R484). -/
def State.pumpPx (s : State) : State :=
  let a := ahead (32 - s.readsOut) s.pcie.queue
  s.setPx { s.pcie with queue := a.2, sent := s.pcie.sent ++ a.1 }

/-- Whether pending bit `n` of a function is 1. -/
def State.vecPending (s : State) (f n : Nat) : Bool :=
  bitAt (s.rget (Reg.PX_FPEND f (n / 16))) (n % 16)

def State.anyPending (s : State) (f : Nat) : Bool :=
  (List.range 4).any fun k => decide (s.fget (Reg.PX_FPEND_PEND f k) ≠ 0)

/-! ## Configuration space (R486 to R488) -/

/-- A DWORD of configuration space: the bits that are fixed, those that software writes, those it clears by writing 1, and what
the writable ones hold by default. -/
structure CfgSpec where
  fixed : Nat
  rw : Nat
  w1c : Nat
  dflt : Nat
  deriving DecidableEq, Repr

def cfgRo (n : Nat) : CfgSpec := { fixed := n, rw := 0, w1c := 0, dflt := 0 }
def cfgRw (fixed rw : Nat) (dflt : Nat := 0) : CfgSpec := { fixed := fixed, rw := rw, w1c := 0, dflt := dflt }
def cfgW1c (w1c : Nat) (fixed : Nat := 0) (rw : Nat := 0) (dflt : Nat := 0) : CfgSpec :=
  { fixed := fixed, rw := rw, w1c := w1c, dflt := dflt }

/-- A value held between two bounds. -/
def clampNat (lo hi n : Nat) : Nat := Nat.min hi (Nat.max lo n)

/-- log2 of the PF's BAR2 and of a VF's (R503). -/
def State.barLog (s : State) (f : Nat) : Nat :=
  if f = 0 then clampNat 20 36 (s.fget Reg.PX_CTL_BARSZ) else clampNat 16 32 (s.fget Reg.PX_CTL_VBARSZ)

/-- The writable bits of the low and high DWORD of a 64-bit BAR of 2^n octets. -/
def barMask (n : Nat) (high : Bool) : Nat :=
  if high then (2 ^ 32 - 1) / 2 ^ (n - 32) * 2 ^ (n - 32) else (2 ^ 32 - 1) / 2 ^ (Nat.min n 32) * 2 ^ (Nat.min n 32)

/-- The partition capability (R488) from its octet 08h on, as DWORDs. -/
def State.partCap (s : State) (f i : Nat) : Nat :=
  let p := s.pxPart f
  if i = 2 then
    p + 16 * b2n (s.partExists p) + 32 * b2n (s.locked p) + 64 * (s.fget Reg.RK_PSTAT_PROF % 2) +
      128 * b2n (s.fbit Reg.RK_PSTAT_HUNG) + 0x24 * 2 ^ 8 + 8 * 2 ^ 16
  else if i = 3 then 0x1000
  else if i = 4 then 0x5C0
  else if 5 ≤ i ∧ i < 8 then
    let id := (s.rget Reg.RK_DEVID_HI).toNat * 2 ^ 36 + (s.rget Reg.RK_DEVID_LO).toNat
    id / 2 ^ (32 * (i - 5)) % 2 ^ 32
  else if 8 ≤ i ∧ i < 16 then
    let w := s.rget (Reg.PX_IWA f (i - 8))
    bits w 30 1 + 2 * bits w 22 1 + 4 * bits w 23 1 + 8 * bits w 24 1 + 16 * bits w 16 6 + 2 ^ 16 * bits w 0 16
  else 0

/-- Configuration space of the PF. -/
def State.pfSpec (s : State) (dw : Nat) : CfgSpec :=
  match dw with
  | 0 => cfgRo 0x36401F2B
  | 1 => cfgW1c 0xF9000000 (0x00100000 + 0x00080000 * b2n s.pcie.inta) 0x00000546
  | 2 => cfgRo 0x0B400001
  | 3 => cfgRw 0 0xFF
  | 4 => cfgRw 0x4 0xFFFFE000
  | 5 => cfgRw 0 0xFFFFFFFF
  | 6 => cfgRw 0xC (barMask (s.barLog 0) false)
  | 7 => cfgRw 0 (barMask (s.barLog 0) true)
  | 11 => cfgRo (s.fget Reg.PX_ID_SSVID + 2 ^ 16 * s.fget Reg.PX_ID_SSID)
  | 13 => cfgRo 0x40
  | 15 => cfgRw 0x0100 0xFF
  | 16 => cfgRo 0x00035001
  | 17 => cfgRw 0x8 0x3
  | 20 => cfgRw 0x018A7005 0x00710000
  | 21 => cfgRw 0 0xFFFFFFFC
  | 22 => cfgRw 0 0xFFFFFFFF
  | 23 => cfgRw 0 0xFFFF
  | 24 => cfgRw 0 0xFFFFFFFF
  | 25 => cfgRo (s.fget (Reg.PX_FPEND_PEND 0 0) + 2 ^ 16 * s.fget (Reg.PX_FPEND_PEND 0 1))
  | 28 => cfgRo 0x0002B010
  | 29 => cfgRo 0x10008021
  | 30 => cfgW1c 0x000F0000 0 0x7FFF 0x2810
  | 31 => cfgRo 0x84
  | 32 => cfgRw (s.fget Reg.PX_STAT_SPEED * 2 ^ 16 + s.fget Reg.PX_STAT_WIDTH * 2 ^ 20) 0xFF8
  | 37 => cfgRo 0x10000
  | 38 => cfgRw 0 0xFFFF
  | 39 => cfgRo 0x1E
  | 40 => cfgRw 0 0xFFFF 4
  | 44 => cfgRw 0x003F0011 0xC0000000
  | 45 => cfgRo 0x1800
  | 46 => cfgRo 0x1C00
  | 64 => cfgRo 0x14810001
  | 65 => cfgW1c 0xFFFFFFFF
  | 66 => cfgRw 0 0xFFFFFFFF
  | 67 => cfgRw 0 0xFFFFFFFF 0x00462030
  | 68 => cfgW1c 0xFFFFFFFF
  | 69 => cfgRw 0 0xFFFFFFFF 0x2000
  | 70 => cfgRw 0xA0 0x140
  | 82 => cfgRo 0x1501000E
  | 84 => cfgRo 0x19010010
  | 86 => cfgRw 0 0x19
  | 87 => cfgRo 0x00100010
  | 88 => cfgRw 0 0xFFFF
  | 89 => cfgRo 0x00010001
  | 90 => cfgRo 0x36410000
  | 91 => cfgRo 1
  | 92 => cfgRw 0 0xFFFFFFFF 1
  | 93 => cfgRw 0x4 0xFFFFE000
  | 94 => cfgRw 0 0xFFFFFFFF
  | 95 => cfgRw 0xC (barMask (s.barLog 1) false)
  | 96 => cfgRw 0 (barMask (s.barLog 1) true)
  | 100 => cfgRo 0x0001000B
  | 101 => cfgRo 0x04010001
  | dw => if 102 ≤ dw ∧ dw < 116 then cfgRo (s.partCap 0 (dw - 100)) else cfgRo 0

/-- Configuration space of a VF. -/
def State.vfSpec (s : State) (f dw : Nat) : CfgSpec :=
  match dw with
  | 0 => cfgRo 0xFFFFFFFF
  | 1 => cfgRw 0x00100000 0x4
  | 2 => cfgRo 0x0B400001
  | 11 => cfgRo (s.fget Reg.PX_ID_SSVID + 2 ^ 16 * s.fget Reg.PX_ID_SSID)
  | 13 => cfgRo 0x70
  | 28 => cfgRo 0x0002B010
  | 29 => cfgRo 0x10008021
  | 37 => cfgRo 0x10000
  | 44 => cfgRw 0x00070011 0xC0000000
  | 45 => cfgRo 0x1800
  | 46 => cfgRo 0x1C00
  | 64 => cfgRo 0x1081000E
  | 66 => cfgRo 0x0001000B
  | 67 => cfgRo 0x04010001
  | dw => if 68 ≤ dw ∧ dw < 82 then cfgRo (s.partCap f (dw - 66)) else cfgRo 0

def State.cfgSpec (s : State) (f dw : Nat) : CfgSpec := if f = 0 then s.pfSpec dw else s.vfSpec f dw

/-- What the writable bits of a DWORD hold. -/
def State.cfgRaw (s : State) (f dw : Nat) : BitVec 32 :=
  Tab.get (BitVec.ofNat 32 (s.cfgSpec f dw).dflt) s.pcie.cfg (1024 * f + dw)

def State.setCfgRaw (s : State) (f dw : Nat) (v : BitVec 32) : State :=
  s.setPx { s.pcie with cfg := Tab.set (BitVec.ofNat 32 (s.cfgSpec f dw).dflt) s.pcie.cfg (1024 * f + dw) v }

/-- What a configuration read of a DWORD returns. -/
def State.cfgRead (s : State) (f dw : Nat) : BitVec 32 :=
  let c := s.cfgSpec f dw
  BitVec.ofNat 32 c.fixed ||| (s.cfgRaw f dw &&& BitVec.ofNat 32 (c.rw ||| c.w1c))

/-- Bus Master Enable, Memory Space Enable, Interrupt Disable and the MSI and MSI-X Enables of a function. -/
def State.pxBme (s : State) (f : Nat) : Bool := (s.cfgRaw f 1).getLsbD 2
def State.pxMse (s : State) (f : Nat) : Bool := if f = 0 then (s.cfgRaw 0 1).getLsbD 1 else (s.cfgRaw 0 86).getLsbD 3
def State.pxMode (s : State) (f : Nat) : Nat :=
  if (s.cfgRaw f 44).getLsbD 31 then 3
  else if f = 0 ∧ (s.cfgRaw 0 20).getLsbD 16 then 2
  else if f = 0 ∧ ¬ (s.cfgRaw 0 1).getLsbD 10 then 1
  else 0

/-- The VFs enabled (PX_STAT.NUMVF). -/
def State.pxVfs (s : State) : Nat :=
  if (s.cfgRaw 0 86).getLsbD 0 then Nat.min 16 ((s.cfgRaw 0 88).toNat % 2 ^ 16) else 0

/-- Whether function `f` is present on the link. -/
def State.pxPresent (s : State) (f : Nat) : Bool := decide (f ≤ s.pxVfs)

/-- PX_FCTL and PX_STAT.NUMVF follow configuration space. -/
def State.pxShow (s : State) : State :=
  let s1 := (List.range 17).foldl (fun t f =>
    ((t.fset (Reg.PX_FCTL_BME f) (b2n (t.pxBme f))).fset (Reg.PX_FCTL_MSE f) (b2n (t.pxMse f))).fset
      (Reg.PX_FCTL_IMODE f) (t.pxMode f)) s
  s1.fset Reg.PX_STAT_NUMVF s1.pxVfs

/-- An octet of a DWORD. -/
def dwordOctet (v : BitVec 32) (i : Nat) : BitVec 8 := v.extractLsb' (8 * i) 8

/-- A DWORD from octets, the least significant first. -/
def octetsDword (l : List (BitVec 8)) : BitVec 32 := (l.reverse).foldl (fun a o => a * 256 + o.setWidth 32) 0

/-! ## Resets of functions (R501) -/

/-- The configuration of function `f` takes its defaults: configuration space, its MSI-X table, and the fields of its page that
no † marks; a running mailbox request completes and its response is discarded. -/
def State.pxDefaults (s : State) (f : Nat) : State :=
  let busy := s.fbit (Reg.PX_FMBST_BUSY f)
  let s1 := s.setPx { s.pcie with
    cfg := Tab.keep (fun k => decide (k / 1024 ≠ f)) s.pcie.cfg
    msix := Tab.keep (fun k => decide (k / 256 ≠ f)) s.pcie.msix
    inta := if f = 0 then false else s.pcie.inta
    queue := s.pcie.queue.filter fun x => match x with
      | .vector g _ => decide (g ≠ f)
      | _ => true
    discard := if busy then Tab.set false s.pcie.discard f true else s.pcie.discard }
  let s2 := [Reg.PX_FPEND f 0, Reg.PX_FPEND f 1, Reg.PX_FPEND f 2, Reg.PX_FPEND f 3, Reg.PX_FHDB f, Reg.PX_FSRC f,
    Reg.PX_FMBST f].foldl (fun t a => t.rset a (regReset a)) s1
  s2.fset (Reg.PX_FMBST_BUSY f) (b2n busy)

/-- The lowest function of partition `p`, through which its outbound requests go (R485, R496). -/
def State.pxFunction (s : State) (p : Nat) : Option Nat :=
  if p = 0 then some 0 else (List.range 17).find? fun f => decide (f ≠ 0) && s.pxPresent f && decide (s.pxPart f = p)

/-- Outbound loads in flight of the contexts whose requester is `f`, or of all, get the error of R500. -/
def State.failLoads (s : State) (f : Option Nat) : State :=
  let mine (i : Nat) : Bool := match f with
    | none => true
    | some g => decide (s.pxFunction (s.slotPart i) = some g)
  let out := (s.core.slots.filter fun (i, x) => (match x.outLoad with
    | some l => l.out
    | none => false) && mine i).map (·.1)
  let q := s.pcie.queue.filter fun x => match x with
    | .read _ i _ _ => !out.contains i
    | _ => true
  s.setPx { s.pcie with failed := s.pcie.failed ++ out, queue := q }

/-- Sessions opened through function `f`, or through PCIe, end (R501). -/
def State.endPxSessions (s : State) (f : Option Nat) : State :=
  s.endSessions (fun _ x => match x with
    | some y => match y.tr with
      | some (.pcie g) => match f with
        | none => true
        | some h => decide (g.val = h)
      | _ => false
    | none => false) 6

/-- A function-level reset (R501). -/
def State.flrOf (s : State) (f : Nat) : State :=
  (((s.failLoads (some f)).pxDefaults f).endPxSessions (some f)).pxShow.pxEvent Reg.PX_EVT_FLR Reg.PX_EVT_FLR_MORE

/-- Every function's configuration takes its defaults (R501). -/
def State.pxAllDefaults (s : State) : State :=
  ((List.range 17).foldl State.pxDefaults ((s.failLoads none))).pxShow.endPxSessions none

/-- The link is down: PX_STAT and, where it was up, PX_EVT.LINK. -/
def State.pxLinkDown (s : State) : State :=
  let up := decide (s.fget Reg.PX_STAT_LINK ≠ 0)
  let s1 := ((s.fset Reg.PX_STAT_LINK 0).fset Reg.PX_STAT_SPEED 0).fset Reg.PX_STAT_WIDTH 0
  if up then s1.pxAllDefaults.pxEvent Reg.PX_EVT_LINK Reg.PX_EVT_LINK_MORE else s1.pxAllDefaults

/-- HOT_RESET (R501): PERST_N low (0) and link down (2) take the link down; a hot reset (1) retrains it. -/
def runHotReset (how : Fin 3) (s : State) : State :=
  if how = 1 then
    ((s.fset Reg.PX_STAT_LINK 1).pxAllDefaults).pxEvent Reg.PX_EVT_HOTRST Reg.PX_EVT_HOTRST_MORE
  else if how = 0 then ((s.fset Reg.PX_STAT_PERST 1).pxLinkDown).pxEvent Reg.PX_EVT_HOTRST Reg.PX_EVT_HOTRST_MORE
  else s.pxLinkDown

/-- FLR (R501). -/
def runFlr (f : Fin 17) (s : State) : State := s.flrOf f.val

/-- PCIE_LINK_UP (R484): the link trains to at most PX_CTL.MAXSPD. -/
def runPcieLinkUp (speed : Fin 5) (lanes : Fin 9) (s : State) : State :=
  if s.domState 81 ≠ 1 then s
  else
    let sp := Nat.min speed.val (clampNat 1 4 (s.fget Reg.PX_CTL_MAXSPD))
    let s1 := (((s.fset Reg.PX_STAT_LINK 2).fset Reg.PX_STAT_SPEED sp).fset Reg.PX_STAT_WIDTH lanes.val).fset Reg.PX_STAT_PERST 0
    s1.pxEvent Reg.PX_EVT_LINK Reg.PX_EVT_LINK_MORE

/-! ## Errors (R499) -/

/-- AER logs an uncorrectable error (bit of the status register) or a correctable one. -/
def State.aer (s : State) (uncorrectable : Bool) (bit : Nat) : State :=
  let dw := if uncorrectable then 65 else 68
  let s1 := s.setCfgRaw 0 dw (s.cfgRaw 0 dw ||| BitVec.ofNat 32 (2 ^ bit))
  if uncorrectable then s1.fadd Reg.PX_CNTA_UE 1 else s1.fadd Reg.PX_CNTA_CE 1

/-- A request refused or discarded (R499). -/
def State.pxUr (s : State) : State :=
  (s.fadd Reg.PX_CNTB_URIN 1).pxEvent Reg.PX_EVT_UR Reg.PX_EVT_UR_MORE

/-- A memory request that function `f` does not serve gets UR (R485, R499, R501). -/
def State.pxUnserved (s : State) (f : Nat) (bar : Bar) : Option (State × Bool) :=
  if !s.pxPresent f || !s.pxMse f || decide (bar = .none) || decide ((s.cfgRaw f 17).toNat % 4 = 3) ||
      !s.partExists (s.pxPart f) || s.pcie.held then some ((s.aer true 20).pxUr, true)
  else none

/-- What R499 does with a request that is not served, none where it is: the state after it and whether it is answered UR. -/
def State.pxRefuse (s : State) (f : Nat) (form : InForm) (bar : Bar) : Option (State × Bool) :=
  match form with
  | .malformed => some ((s.aer true 18).pxUr, false)
  | .ecrc =>
    if (s.cfgRaw 0 70).getLsbD 8 then some ((s.aer true 19).pxUr, false) else s.pxUnserved f bar
  | .poisoned =>
    let t := s.setCfgRaw 0 65 (s.cfgRaw 0 65 ||| BitVec.ofNat 32 (2 ^ 12))
    some ((t.aer false 13).pxUr, false)
  | .unsupported => some ((s.aer true 20).pxUr, true)
  | .mem => s.pxUnserved f bar

def State.complete (s : State) (status : Nat) (ep : Bool) (octets : List (BitVec 8)) : State :=
  s.setPx { s.pcie with cpl := some { status := status, ep := ep, octets := octets } }

/-! ## Windows (R490 to R493) -/

/-- The window of function `f` that covers BAR2 octet `off`, with its octet within the window. -/
def State.windowAt (s : State) (f off : Nat) : Option (Nat × Nat) :=
  ((List.range 8).find? fun w =>
    let b := s.fget (Reg.PX_IWA_OFF f w) * 2 ^ 16
    s.fbit (Reg.PX_IWA_V f w) && decide (b ≤ off ∧ off < b + 2 ^ s.fget (Reg.PX_IWA_LOG2 f w))).map
    fun w => (w, off - s.fget (Reg.PX_IWA_OFF f w) * 2 ^ 16)

/-- Words of a window (R490, R491). -/
def State.windowWords (s : State) (f w : Nat) : Nat :=
  let n := s.fget (Reg.PX_IWA_LOG2 f w)
  if s.fbit (Reg.PX_IWA_VIEW f w) then 2 ^ (n + 1) / 9 else 2 ^ n / 8

/-- Whether an access begins past the octets of a window's last whole word (R491, R499). An access that begins before them and runs past
them reads 0 there; one that begins past them is refused (DEDUCED, log 8). -/
def State.pastWindow (s : State) (f w o : Nat) : Bool :=
  s.fbit (Reg.PX_IWA_VIEW f w) && decide ((36 * s.windowWords f w + 7) / 8 ≤ o)

/-- The word address of word `i` of a window (R492). -/
def State.windowWord (s : State) (f w i : Nat) : PWord := 16 * s.fget (Reg.PX_IWB_TARGET f w) + i

/-- Whether the host may reach word `i` of a window (R493). -/
def State.hostMay (s : State) (f w i : Nat) (write : Bool) : Bool :=
  let pa := 4 * s.windowWord f w i
  (if write then s.fbit (Reg.PX_IWA_W f w) else s.fbit (Reg.PX_IWA_R f w)) && decide (pa < paDramEnd) &&
    s.reachable (engWho (s.pxPart f)) pa (if write then 2 else 1)

/-- The words of a window, with their bits in the view (R490, R491): the first bit of word `i`, and the words that octets
`off` to `off + len − 1` touch. -/
def viewWords (packed : Bool) (off len : Nat) : List Nat :=
  if len = 0 then []
  else if packed then (List.range ((8 * (off + len) - 1) / 36 + 1 - 8 * off / 36)).map (8 * off / 36 + ·)
  else (List.range ((off + len - 1) / 8 + 1 - off / 8)).map (off / 8 + ·)

/-- Octet `o` of a window whose words are `word`. -/
def viewOctet (packed : Bool) (word : Nat → Word) (o : Nat) : BitVec 8 :=
  if packed then
    let b := 8 * o
    let two := (word (b / 36)).toNat + 2 ^ 36 * (word (b / 36 + 1)).toNat
    BitVec.ofNat 8 (two / 2 ^ (b % 36))
  else BitVec.ofNat 8 ((word (o / 8)).toNat / 2 ^ (8 * (o % 8)))

/-- Reads the words of a host's read, in order: their values, and whether one met poison, loss or an error; none while memory does not
answer. -/
def State.hostWords (f w : Nat) : List Nat → State → Option (State × List (Nat × Word) × Bool)
  | [], s => some (s, [], false)
  | i :: t, s =>
    if s.windowWords f w ≤ i then (State.hostWords f w t s).map fun r => (r.1, (i, 0) :: r.2.1, r.2.2)
    else match s.engRead 13 none (s.windowWord f w i) with
      | (_, .wait) => none
      | (u, .ok v) => (State.hostWords f w t u).map fun r => (r.1, (i, v) :: r.2.1, r.2.2)
      | (u, _) => (State.hostWords f w t u).map fun r => (r.1, (i, 0) :: r.2.1, true)

/-- The value of word `i` in a list of read words. -/
def wordIn (l : List (Nat × Word)) (i : Nat) : Word := ((l.find? fun x => decide (x.1 = i)).map (·.2)).getD 0

/-- A read of BAR2 (R490 to R494, R499); it is still to be made where memory does not answer. -/
def State.apertureRead (s : State) (f off len : Nat) : State :=
  match s.windowAt f off with
  | none => ((s.aer true 20).pxUr).complete 1 false []
  | some (w, o) =>
    let packed := s.fbit (Reg.PX_IWA_VIEW f w)
    let ws := viewWords packed o len
    if 2 ^ s.fget (Reg.PX_IWA_LOG2 f w) < o + len ∨ s.pastWindow f w o ∨ ws.any (fun i => decide (i < s.windowWords f w) && !s.hostMay f w i false) then
      ((s.aer true 20).pxUr).complete 1 false []
    else match State.hostWords f w ws s with
      | none => s
      | some r =>
      let octets := (List.range len).map fun k => viewOctet packed (wordIn r.2.1) (o + k)
      if r.2.2 then (r.1.pxEvent Reg.PX_EVT_POISON Reg.PX_EVT_POISON_MORE).complete 0 true octets
      else r.1.complete 0 false octets

/-! ## BAR0 (R489) -/

def State.msixRaw (s : State) (f i : Nat) : BitVec 32 :=
  Tab.get (if i % 4 = 3 then 1 else 0) s.pcie.msix (256 * f + i)

/-- Whether vector `n` is masked under MSI-X: Function Mask or its entry's mask. -/
def State.msixMasked (s : State) (f n : Nat) : Bool :=
  (s.cfgRaw f 44).getLsbD 30 || (s.msixRaw f (4 * n + 3)).getLsbD 0

/-- An octet of BAR0 as a host reads it. -/
def State.bar0Octet (s : State) (f o : Nat) : BitVec 8 :=
  if o < 0x100 then viewOctet false (fun j => (s.regRead (Reg.PX_FCTL f + j)).2) o
  else if 0x1000 ≤ o ∧ o < 0x15C0 then Tab.get 0 s.pcie.mbuf (2048 * f + (o - 0x1000))
  else if 0x1800 ≤ o ∧ o < 0x1800 + 16 * pxVectors f then dwordOctet (s.msixRaw f ((o - 0x1800) / 4)) (o % 4)
  else if 0x1C00 ≤ o ∧ o < 0x1C08 then
    BitVec.ofNat 8 ((List.range 8).foldl (fun a b =>
      let n := 8 * (o - 0x1C00) + b
      a + 2 ^ b * b2n (decide (n < pxVectors f) && s.vecPending f n && s.msixMasked f n)) 0)
  else 0

/-- A mailbox request of the host (R498). -/
def State.hostMailbox (s : State) (f len : Nat) : State :=
  if s.fbit (Reg.PX_FMBST_BUSY f) ∨ s.pcie.held then s
  else if len = 0 ∨ 1472 < len then
    (s.fset (Reg.PX_FMBST_RLEN f) 0).flag (Reg.PX_FMBST_DONE f) (Reg.PX_FMBST_DONE_MORE f)
  else s.fset (Reg.PX_FMBST_BUSY f) 1

/-- Deassert_INTA when the last pending bit of the PF clears (R497). -/
def State.intaDrop (s : State) : State :=
  if s.pcie.inta ∧ ¬ s.anyPending 0 then s.setPx { s.pcie with inta := false, sent := s.pcie.sent ++ [.inta false] } else s

/-- A host store of a word of the PX_ page (R489): PX_FPEND by W1C, PX_FHDB and PX_FMBDB. -/
def State.hostPage (s : State) (f j : Nat) (v : Word) : State :=
  if 2 ≤ j ∧ j < 6 then
    let a := Reg.PX_FPEND f (j - 2)
    (s.linkIdle.rset a (s.rget a &&& ~~~v)).intaDrop
  else if j = 6 then ((s.rset (Reg.PX_FHDB f) v).raiseOwned (s.pxPart f) (s.fget (Reg.PX_FSRC_SRC f)))
  else if j = 8 then s.hostMailbox f (bits v 0 11)
  else s

/-- The word that a write's octets hold at octet 8j of a window of the expanded view, where they enable all of it (R490). -/
def expandedWord (octets : List (Option (BitVec 8))) (at_ : Nat) (start : Nat) : Option Word :=
  let five := (List.range 5).map fun i => if start ≤ at_ + i then (octets.getD (at_ + i - start) none) else none
  if five.all Option.isSome then
    some (BitVec.ofNat 36 (five.mapIdx (fun i o => ((o.getD 0).toNat % (if i = 4 then 16 else 256)) * 2 ^ (8 * i)) |>.foldl (· + ·) 0))
  else none

/-- A word of a window that a write sets in the packed view: every octet that carries a bit of it enabled (R491). -/
def packedWord (octets : List (Option (BitVec 8))) (i : Nat) (start : Nat) : Option Word :=
  let first := 36 * i / 8
  let last := (36 * i + 35) / 8
  let os := (List.range (last + 1 - first)).map fun k =>
    if start ≤ first + k then (octets.getD (first + k - start) none) else none
  if os.all Option.isSome then
    let n := os.mapIdx (fun k o => (o.getD 0).toNat * 2 ^ (8 * k)) |>.foldl (· + ·) 0
    some (BitVec.ofNat 36 (n / 2 ^ (36 * i - 8 * first)))
  else none

/-- Whether a write enables an octet that carries a bit of word `i`. -/
def touches (packed : Bool) (octets : List (Option (BitVec 8))) (i start : Nat) : Bool :=
  let first := if packed then 36 * i / 8 else 8 * i
  let last := if packed then (36 * i + 35) / 8 else 8 * i + 4
  (List.range (last + 1 - first)).any fun k =>
    decide (start ≤ first + k) && (octets.getD (first + k - start) none).isSome

/-- Words set by a write, of those in `ws`, and the words it covers only in part. -/
def writtenWords (packed : Bool) (octets : List (Option (BitVec 8))) (start : Nat) (ws : List Nat) :
    List (Nat × Word) × List Nat :=
  let got (i : Nat) : Option Word := if packed then packedWord octets i start else expandedWord octets (8 * i) start
  (ws.filterMap fun i => (got i).map fun v => (i, v),
   ws.filter fun i => touches packed octets i start && (got i).isNone)

/-- Words not written because they were covered in part (R491, R499). -/
def State.partWrites (s : State) (n : Nat) : State :=
  if n = 0 then s else (s.fadd Reg.PX_CNTB_PART n).pxEvent Reg.PX_EVT_PARTW Reg.PX_EVT_PARTW_MORE

/-- A write of BAR2 (R490 to R494, R499). -/
def State.apertureWrite (s : State) (f off : Nat) (octets : List (Option (BitVec 8))) : State :=
  match s.windowAt f off with
  | none => (s.aer true 20).pxUr
  | some (w, o) =>
    if 2 ^ s.fget (Reg.PX_IWA_LOG2 f w) < o + octets.length ∨ s.pastWindow f w o then (s.aer true 20).pxUr
    else
      let packed := s.fbit (Reg.PX_IWA_VIEW f w)
      let ws := (viewWords packed o octets.length).filter fun i => decide (i < s.windowWords f w)
      let r := writtenWords packed octets o ws
      let ok := r.1.filter fun x => s.hostMay f w x.1 true
      let s1 := s.engStore 13 (hintOf (s.fget (Reg.PX_IWA_TCL f w)) (s.fbit (Reg.PX_IWA_TCLV f w)))
        (ok.map fun x => (s.windowWord f w x.1, x.2))
      let s2 := s1.partWrites r.2.length
      if ok.length < r.1.length then (s2.aer true 20).pxUr else s2

/-- An octet of BAR0 written by the host outside its PX_ page: the mailbox buffer while BUSY is 0, and the MSI-X table. -/
def State.bar0Store (f : Nat) (s : State) (x : Nat × BitVec 8) : State :=
  let o := x.1
  if 0x1000 ≤ o ∧ o < 0x15C0 then
    if s.fbit (Reg.PX_FMBST_BUSY f) ∨ s.pcie.held then s
    else s.setPx { s.pcie with mbuf := Tab.set 0 s.pcie.mbuf (2048 * f + (o - 0x1000)) x.2 }
  else if 0x1800 ≤ o ∧ o < 0x1800 + 16 * pxVectors f then
    let i := (o - 0x1800) / 4
    let old := s.msixRaw f i
    let b := 8 * (o % 4)
    let new := (old &&& ~~~ BitVec.ofNat 32 (255 * 2 ^ b)) ||| BitVec.ofNat 32 (x.2.toNat * 2 ^ b)
    s.setPx { s.pcie with msix := Tab.set (if i % 4 = 3 then 1 else 0) s.pcie.msix (256 * f + i) new }
  else s

/-- A write of BAR0 (R489, R490). -/
def State.bar0Write (s : State) (f off : Nat) (octets : List (Option (BitVec 8))) : State :=
  let page := (viewWords false off octets.length).filter fun j => decide (j < 32)
  let r := writtenWords false octets off page
  let s1 := (octets.mapIdx fun i o => (off + i, o)).foldl (fun t x => match x.2 with
    | some b => State.bar0Store f t (x.1, b)
    | none => t) s
  (r.1.foldl (fun t x => t.hostPage f x.1 x.2) s1).partWrites r.2.length

/-- An inbound request takes effect once the writes before it are visible to every agent (R494); until then, and while the domain of
the endpoint is not ON, the state stands. -/
def State.inbound (s : State) (f : State → State) : State := if s.domState 81 ≠ 1 ∨ s.writesWait 13 then s else f s

/-- INBOUND_READ (R489 to R494, R499). -/
def runInboundRead (f : Fin 17) (form : InForm) (bar : Bar) (off : BitVec 40) (len : Fin 4097) (s : State) : State :=
  s.inbound fun s => match s.pxRefuse f.val form bar with
  | some (t, true) => t.complete 1 false []
  | some (t, false) => t
  | none =>
    match bar with
    | .bar2 => s.apertureRead f.val (off.toNat % 2 ^ s.barLog f.val) len.val
    | _ => s.complete 0 false ((List.range len.val).map fun k => s.bar0Octet f.val (off.toNat % 0x2000 + k))

/-- INBOUND_WRITE (R489 to R494, R498, R499). -/
def runInboundWrite (f : Fin 17) (form : InForm) (bar : Bar) (off : BitVec 40) (octets : List (Option (BitVec 8))) (s : State) :
    State :=
  s.inbound fun s => match s.pxRefuse f.val form bar with
  | some (t, _) => t
  | none =>
    match bar with
    | .bar2 => s.apertureWrite f.val (off.toNat % 2 ^ s.barLog f.val) octets
    | _ => s.bar0Write f.val (off.toNat % 0x2000) octets

/-! ## Configuration requests -/

/-- VFs that a configuration write removes get an FLR (R501). -/
def State.dropVfs (s : State) (before : Nat) : State :=
  (List.range 17).foldl (fun t f => if t.pxVfs < f ∧ f ≤ before then t.flrOf f else t) s

/-- CONFIGURATION_REQUEST (R486 to R488, R499, R501). -/
def runConfigurationRequest (f : Fin 17) (dw : Fin 1024) (write : Option (BitVec 32 × BitVec 4)) (s : State) : State :=
  if !s.fbit Reg.PX_CTL_EN then s.complete 2 false []
  else if !s.pxPresent f.val then s.complete 1 false []
  else
    match write with
    | none => s.complete 0 false ((List.range 4).map (dwordOctet (s.cfgRead f.val dw.val)))
    | some (v, be) =>
      let c := s.cfgSpec f.val dw.val
      let en := BitVec.ofNat 32 ((List.range 4).foldl (fun a i => a + (if be.getLsbD i then 255 * 2 ^ (8 * i) else 0)) 0)
      let old := s.cfgRaw f.val dw.val
      let rw := BitVec.ofNat 32 c.rw &&& en
      let new := ((old &&& ~~~rw) ||| (v &&& rw)) &&& ~~~(v &&& BitVec.ofNat 32 c.w1c &&& en)
      let vfs := s.pxVfs
      let s1 := (s.setCfgRaw f.val dw.val new).dropVfs vfs
      let s2 := if dw.val = 30 ∧ v.getLsbD 15 ∧ be.getLsbD 1 then s1.flrOf f.val else s1
      s2.pxShow.complete 0 false []

/-! ## Interrupt messages and stores -/

/-- PX_FIRQ_STORE (R495, R497). -/
def runPxFirqStore (f : Fin 17) (v : Word) (s : State) : State := (s.linkIdle.requestVector f.val (bits v 0 6)).pumpPx

/-- What a vector is sent as, in the mode of its function, where it may be sent (R497). -/
def State.vectorMessage (s : State) (f n : Nat) : Option PxTlp :=
  if !s.pxBme f || decide (s.fget Reg.PX_STAT_LINK ≠ 2) || !s.vecPending f n then none
  else match s.pxMode f with
    | 3 =>
      if s.msixMasked f n then none
      else some (.message f ((s.msixRaw f (4 * n + 1)) ++ (s.msixRaw f (4 * n))) (s.msixRaw f (4 * n + 2)))
    | 2 =>
      if (s.cfgRaw 0 24).getLsbD n then none
      else
        let m := Nat.min 5 ((s.cfgRaw 0 20).toNat / 2 ^ 20 % 8)
        let data := (s.cfgRaw 0 23).toNat % 2 ^ 16
        some (.message f ((s.cfgRaw 0 22) ++ (s.cfgRaw 0 21)) (BitVec.ofNat 32 (data / 2 ^ m * 2 ^ m + n % 2 ^ m)))
    | 1 => if s.pcie.inta then none else some (.inta true)
    | _ => none

/-- A vector is sent where it may be: under MSI and MSI-X its pending bit clears. -/
def State.sendVector (s : State) (f n : Nat) : State :=
  match s.vectorMessage f n with
  | none => s
  | some (.inta b) => s.setPx { s.pcie with inta := b, sent := s.pcie.sent ++ [.inta b] }
  | some m =>
    let a := Reg.PX_FPEND f (n / 16)
    let s1 := s.rset a (setBits (s.rget a) (n % 16) 1 0)
    (s1.setPx { s1.pcie with sent := s1.pcie.sent ++ [m] }).intaDrop

/-- The first vector of the endpoint that is pending and may be sent. -/
def State.readyVector (s : State) : Option (Nat × Nat) :=
  ((List.range 17).flatMap fun f => (List.range (pxVectors f)).map fun n => (f, n)).find? fun x => (s.vectorMessage x.1 x.2).isSome

/-- INTERRUPT_MESSAGE_SEND (R495, R497): the vector at the front of the queue, else one that has become sendable since. -/
def runInterruptMessageSend (s : State) : State :=
  let t := s.linkIdle.pumpPx
  match t.pcie.queue with
  | .vector f n :: rest => ((t.setPx { t.pcie with queue := rest }).sendVector f n).pumpPx
  | _ =>
    match t.readyVector with
    | some (f, n) => t.sendVector f n
    | none => t

/-- Whether window `w` of function `f` may be set in force as `v` and the stored target say (R492). -/
def State.windowSound (s : State) (f w : Nat) (v : Word) : Bool :=
  let lg := bits v 16 6
  let off := bits v 0 16 * 2 ^ 16
  decide (16 ≤ lg ∧ lg ≤ 36) && decide (off % 2 ^ lg = 0) && decide (off + 2 ^ lg ≤ 2 ^ s.barLog f) &&
    (List.range 8).all fun x => decide (x = w) || !s.fbit (Reg.PX_IWA_V f x) ||
      (let o := s.fget (Reg.PX_IWA_OFF f x) * 2 ^ 16
       decide (off + 2 ^ lg ≤ o ∨ o + 2 ^ s.fget (Reg.PX_IWA_LOG2 f x) ≤ off))

/-- PX_IWA_STORE (R492). -/
def runPxIwaStore (req : Requester) (va : Word) (f : Fin 17) (w : Fin 8) (v : Word) (s : State) : State :=
  let a := Reg.PX_IWA f.val w.val
  if (s.storeGuard req.level a).isSome then s.regStore req va a v
  else if s.fbit (Reg.PX_IWA_V f.val w.val) || (bitAt v 30 && !s.windowSound f.val w.val v) then s.pxRefused
  else s.regStore req va a v

/-- A store to PX_IWB, refused while the window is in force (R492). -/
def State.pxIwbStore (s : State) (req : Requester) (va : Word) (f w : Nat) (v : Word) : State :=
  let a := Reg.PX_IWB f w
  if (s.storeGuard req.level a).isSome then s.regStore req va a v
  else if s.fbit (Reg.PX_IWA_V f w) then s.pxRefused
  else s.regStore req va a v

/-- The bounds of outbound window `k` as offsets in the outbound range (R496). -/
def owBounds (w : Word) : Nat × Nat := (bits w 0 14 * 2 ^ 22, bits w 0 14 * 2 ^ 22 + 2 ^ bits w 14 6)

/-- A store to PX_OWAk, PX_OWBk or PX_OWCk (`j` 0 to 2), refused as R492 refuses a store to an inbound window (R496): LOG2 outside
22 to 34, a base that is no multiple of the size, a window that leaves the outbound range, or one that overlaps another. -/
def State.pxOwStore (s : State) (req : Requester) (va : Word) (k j : Nat) (v : Word) : State :=
  let a := Reg.PX_OWA k + j
  let b := owBounds v
  let sound := decide (22 ≤ bits v 14 6 ∧ bits v 14 6 ≤ 34) && decide (b.1 % 2 ^ bits v 14 6 = 0) &&
    decide (b.2 ≤ paOutEnd - paDramEnd) &&
    (List.range 8).all fun x => decide (x = k) || !s.fbit (Reg.PX_OWA_V x) ||
      decide (b.2 ≤ (owBounds (s.rget (Reg.PX_OWA x))).1 ∨ (owBounds (s.rget (Reg.PX_OWA x))).2 ≤ b.1)
  if (s.storeGuard req.level a).isSome then s.regStore req va a v
  else if s.fbit (Reg.PX_OWA_V k) || (decide (j = 0) && bitAt v 21 && !sound) then s.pxRefused
  else s.regStore req va a v

/-- A store to PX_CTL (R501): BARSZ, VBARSZ and MAXSPD do not change while EN is 1. -/
def State.pxCtlStore (s : State) (req : Requester) (va : Word) (v : Word) : State :=
  if (s.storeGuard req.level Reg.PX_CTL).isSome then s.regStore req va Reg.PX_CTL v
  else if s.fbit Reg.PX_CTL_EN ∧ bits v 1 13 ≠ bits (s.rget Reg.PX_CTL) 1 13 then s.pxRefused
  else s.regStore req va Reg.PX_CTL v

/-! ## Outbound accesses (R496, R500) -/

/-- The outbound window that covers a physical address, and the offset within it. -/
def State.outWindow (s : State) (pa : Nat) : Option (Nat × Nat) :=
  let off := pa - paDramEnd
  ((List.range 8).find? fun k =>
    let b := owBounds (s.rget (Reg.PX_OWA k))
    s.fbit (Reg.PX_OWA_V k) && decide (b.1 ≤ off ∧ off < b.2)).map fun k => (k, off - (owBounds (s.rget (Reg.PX_OWA k))).1)

/-- The host address of an offset in window `k`, and the octets of a word there. -/
def State.hostAddr (s : State) (k d : Nat) : Nat × Nat :=
  let h := s.fget (Reg.PX_OWB_HADDR k) * 2 ^ 32 + s.fget (Reg.PX_OWC_HADDR k) * 2 ^ 22
  let n := if s.fbit (Reg.PX_OWA_VIEW k) then 4 else 8
  (h + d / 4 * n, n)

/-- Whether a function may send a request (R500). -/
def State.pxCanSend (s : State) (f : Option Nat) : Bool :=
  match f with
  | none => false
  | some g => s.pxBme g && decide (s.fget Reg.PX_STAT_LINK = 2)

/-- An outbound word store of partition `p`: it is sent, or none where it cannot be (R500: sub-cause 0). -/
def State.outStore (s : State) (p pa : Nat) (v : Word) : Option State :=
  match s.outWindow pa with
  | none => none
  | some (k, d) =>
    if !s.pxCanSend (s.pxFunction p) then none
    else
      let a := s.hostAddr k d
      let octets := (List.range a.2).map fun i => BitVec.ofNat 8 (v.toNat / 2 ^ (8 * i))
      some (s.setPx { s.pcie with sent := [], queue := s.pcie.queue ++ [.write ((s.pxFunction p).getD 0) a.1 octets] }).pumpPx

/-- An outbound word load of a slot is sent, or none where it gets an error at once. -/
def State.outLoadSend (s : State) (i p pa : Nat) : Option State :=
  match s.outWindow pa with
  | none => none
  | some (k, d) =>
    if !s.pxCanSend (s.pxFunction p) then none
    else
      let a := s.hostAddr k d
      some (s.setPx { s.pcie with sent := [], queue := s.pcie.queue ++ [.read ((s.pxFunction p).getD 0) i a.1 a.2] }).pumpPx

end Sys2Proof.Machine
end

