-- ==== Sys2Proof/Machine/Trace.lean ====
section
/-! DEFINITION. Trace (spec/18_trace_debug.md, R528 to R539): packets, the cluster units, the router and its rings. -/

namespace Sys2Proof.Machine

def State.setTrc (s : State) (t : Trc) : State := { s with trc := t }

/-! ## Packets (R533) -/

/-- The header word of a packet. -/
def pktHead (type core slot ctx aux : Nat) : Word :=
  BitVec.ofNat 36 (type % 32 * 2 ^ 31 + core % 64 * 2 ^ 25 + slot % 8 * 2 ^ 22 + ctx % 4096 * 2 ^ 10 + aux % 1024)

def tpStart : Nat := 1
def tpBranch : Nat := 2
def tpNtrun : Nat := 3
def tpTrap : Nat := 4
def tpEret : Nat := 5
def tpValue : Nat := 6
def tpEnd : Nat := 7
def tpSync : Nat := 8
def tpGap : Nat := 9
def tpSleep : Nat := 10
def tpRestart : Nat := 11
def tpHold : Nat := 12
def tpOverflow : Nat := 13

/-- The queue of a cluster's trace unit. -/
def State.trQueue (s : State) (cl : Nat) : List TrPkt := Tab.get [] s.trc.queues cl

def State.setTrQueue (s : State) (cl : Nat) (q : List TrPkt) : State :=
  s.setTrc { s.trc with queues := Tab.set [] s.trc.queues cl q }

/-- The words queued in a cluster's unit. -/
def queueWords (q : List TrPkt) : Nat := (q.map fun x => x.words.length).foldl (· + ·) 0

/-- A packet of a core joins its cluster's queue, after a GAP where one is owed, or is dropped and counted (R528). -/
def State.trPut (s : State) (core : Nat) (words : List Word) : State :=
  let cl := core / 4
  let q := s.trQueue cl
  let owed := Tab.get false s.trc.gap core
  let gap : List TrPkt := if owed then [{ core := core, words := [pktHead tpGap core 0 0 2] }] else []
  if 256 < queueWords q + queueWords gap + words.length then
    let s1 := s.fadd (Reg.TR_CSTAT_DROP core) 1
    s1.setTrc { s1.trc with gap := Tab.set false s1.trc.gap core true }
  else
    let s1 := s.setTrQueue cl (q ++ gap ++ [{ core := core, words := words }])
    s1.setTrc { s1.trc with gap := Tab.set false s1.trc.gap core false }

/-- Room has returned in a cluster's queue: each of its cores that owes a GAP writes it (R528). -/
def State.trRoom (s : State) (cl : Nat) : State :=
  (List.range 4).foldl (fun t j =>
    let core := 4 * cl + j
    if Tab.get false t.trc.gap core && decide (queueWords (t.trQueue cl) < 256) then
      let u := t.setTrQueue cl (t.trQueue cl ++ [{ core := core, words := [pktHead tpGap core 0 0 2] }])
      u.setTrc { u.trc with gap := Tab.set false u.trc.gap core false }
    else t) s

/-- The SYNC packet of a core (R533). -/
def State.trSync (s : State) (core : Nat) : State :=
  (s.trPut core [pktHead tpSync core 0 0 0, s.stamp.1, s.stamp.2, BitVec.ofNat 36 s.cyc]).setTrc
    { (s.trPut core [pktHead tpSync core 0 0 0, s.stamp.1, s.stamp.2, BitVec.ofNat 36 s.cyc]).trc with
      since := Tab.set none s.trc.since core (some 0) }

/-- Packets of a core between two SYNCs. -/
def State.syncPeriod (s : State) : Nat := 2 ^ Nat.max 8 (s.fget Reg.TR_CTL_SYNCP)

/-- A packet of a core's unit, with the SYNC that comes before the first and after every 2^SYNCP (R533). -/
def State.trPacket (s : State) (core : Nat) (words : List Word) : State :=
  let s1 := if (Tab.get none s.trc.since core).isNone then s.trSync core else s
  let s2 := s1.trPut core words
  let n := (Tab.get none s2.trc.since core).getD 0 + 1
  let s3 := s2.setTrc { s2.trc with since := Tab.set none s2.trc.since core (some n) }
  if s3.syncPeriod ≤ n then s3.trSync core else s3

/-! ## What a slot traces (R528 to R532) -/

/-- The context that a slot holds. -/
def State.trCtx (s : State) (i : Nat) : Nat := (s.slot i).ctx.getD 0

/-- TRON of a slot. -/
def State.tron (s : State) (i : Nat) : Bool := bitAt (s.rget (Reg.TR_CSTAT (i / 8))) (18 + i % 8)

def State.setTron (s : State) (i : Nat) (b : Bool) : State :=
  s.rset (Reg.TR_CSTAT (i / 8)) (setBits (s.rget (Reg.TR_CSTAT (i / 8))) (18 + i % 8) 1 (b2n b))

/-- A packet of a slot; not-taken branches are counted anew from it. -/
def State.trSlot (s : State) (i type aux : Nat) (rest : List Word) : State :=
  let s1 := s.trPacket (i / 8) (pktHead type (i / 8) (i % 8) (s.trCtx i) aux :: rest)
  s1.setTrc { s1.trc with nots := Tab.set 0 s1.trc.nots i 0 }

/-- Whether the secure boundary keeps the slot from making packets (R531). -/
def State.trHidden (s : State) (i : Nat) : Bool :=
  !s.fbit Reg.RK_DBG_STRC && (s.secureCtx i || decide (s.level i = 3))

/-- Whether packets are made at a level (R529). -/
def State.trLevel (s : State) (i lvl : Nat) : Bool := bitAt (s.rget (Reg.TR_CCFG (i / 8))) (1 + lvl)

/-- A packet of a slot at level `lvl`, under TRON, the level filter and the secure boundary: a GAP in place of the first that is
suppressed, and START once a normal-world context runs again (R529, R531). `pc` is where it runs. -/
def State.trMake (s : State) (i lvl type aux : Nat) (pc : Word) (rest : List Word) : State :=
  if !s.tron i || !s.fbit (Reg.TR_CCFG_EN (i / 8)) then s
  else if s.trHidden i then
    if Tab.get false s.trc.told i || !s.trLevel i lvl then s
    else
      let s1 := s.trSlot i tpGap 1 []
      s1.setTrc { s1.trc with told := Tab.set false s1.trc.told i true }
  else if !s.trLevel i lvl then s
  else
    let s1 :=
      if Tab.get false s.trc.told i then
        let t := s.setTrc { s.trc with told := Tab.set false s.trc.told i false }
        if type = tpStart then t else t.trSlot i tpStart lvl [pc]
      else s
    s1.trSlot i type aux rest

/-- Whether a context filter matches: none, or the slot's context. -/
def State.trCtxOk (s : State) (i : Nat) (w : Word) : Bool := !bitAt w 14 || decide (bits w 2 12 = s.trCtx i)

/-- Whether comparator `j` with function `f` acts on an instruction at `pc` (R529). -/
def State.trCompare (s : State) (i f : Nat) (pc : Word) (j : Nat) : Bool :=
  let n := i / 8
  let c := s.rget (Reg.TR_ACC n j)
  decide (bits c 0 2 = f) && s.trCtxOk i c && decide ((s.rget (Reg.TR_ACA n j)).toNat ≤ pc.toNat) &&
    decide (pc.toNat ≤ (s.rget (Reg.TR_ACB n j)).toNat)

/-- The first data filter that matches an access (R530). -/
def State.trFilter (s : State) (i : Nat) (a : TrAcc) : Option Nat :=
  let n := i / 8
  (List.range 4).find? fun k =>
    let c := s.rget (Reg.TR_DFC n k)
    s.trCtxOk i c && bitAt c (if a.write then 1 else 0) && decide ((s.rget (Reg.TR_DFA n k)).toNat ≤ a.va.toNat) &&
      decide (a.va.toNat ≤ (s.rget (Reg.TR_DFB n k)).toNat)

/-- The VALUE packet of an access (R530). -/
def State.trValue (i : Nat) (r : Retire) (s : State) (a : TrAcc) : State :=
  match s.trFilter i a with
  | none => s
  | some k => s.trMake i r.level tpValue (k + 4 * b2n a.write + 8 * a.size) r.pc [a.va, a.value]

/-- The TR stage of an instruction (R528 to R533): start comparators, its packets, stop comparators. -/
def State.traceRetire (s : State) (i : Nat) (r : Retire) : State :=
  if !s.fbit (Reg.TR_CCFG_EN (i / 8)) then s
  else
    let s1 :=
      if !s.tron i && (List.range 8).any (s.trCompare i 1 r.pc) then
        (s.setTron i true).trMake i r.level tpStart r.level r.pc [r.pc]
      else s
    let nots := Tab.get 0 s1.trc.nots i
    let s2 :=
      if !s1.tron i then s1
      else if r.kind = 1 then s1.trMake i r.level tpBranch nots r.pc [r.target]
      else if r.kind = 2 then
        let t := s1.setTrc { s1.trc with nots := Tab.set 0 s1.trc.nots i (Nat.min 1023 (nots + 1)) }
        if 1023 ≤ nots + 1 then t.trMake i r.level tpNtrun 1023 r.pc [] else t
      else if r.kind = 3 then s1.trMake i (s1.level i) tpEret (s1.level i) r.target [r.target]
      else s1
    let s3 := r.accs.foldl (State.trValue i r) s2
    if s3.tron i && (List.range 8).any (s3.trCompare i 2 r.pc) then
      (s3.trMake i r.level tpEnd 2 r.pc []).setTron i false
    else s3

/-- The instruction that stands in a slot's TR stage is reported. -/
def State.flushRetire (s : State) (i : Nat) : State :=
  match (s.slot i).retire with
  | none => s
  | some r => (s.traceRetire i r).setSlot i { (s.traceRetire i r).slot i with retire := none }

/-- A run ends: END with its cause (R533). -/
def State.traceEnd (s : State) (i aux : Nat) : State :=
  let t := s.flushRetire i
  (t.trMake i (t.level i) tpEnd aux (t.img i iwPc) []).setTron i false

/-- A stage-in into a slot (R529). -/
def State.traceStage (s : State) (i : Nat) : State :=
  let n := i / 8
  let starts := (List.range 8).any fun j => decide (s.fget (Reg.TR_ACC_FUNC n j) = 1)
  let on := s.fbit (Reg.TR_CCFG_EN n) && !starts
  let s1 := (s.setTron i on).setTrc { s.trc with nots := Tab.set 0 s.trc.nots i 0 }
  let s2 := s1.setTron i on
  if on then s2.trMake i (s2.level i) tpStart (s2.level i) (s2.img i iwPc) [s2.img i iwPc] else s2

/-- HOLD of a pair in HOLD (R532). -/
def State.traceHold (s : State) (k : Nat) : State :=
  if s.fbit (Reg.TR_CCFG_EN (2 * k)) then s.trPacket (2 * k) [pktHead tpHold (2 * k) 0 0 k] else s

/-- A store to TR_CCFGn: EN becoming 1 asks for SYNC before the next packet (R533). -/
def State.trCcfgStore (s : State) (req : Requester) (va : Word) (n : Nat) (v : Word) : State :=
  let t := s.regStore req va (Reg.TR_CCFG n) v
  if !s.fbit (Reg.TR_CCFG_EN n) && t.fbit (Reg.TR_CCFG_EN n) then
    t.setTrc { t.trc with since := Tab.set none t.trc.since n none }
  else t

/-! ## The router (R534 to R536) -/

/-- Words of partition `p`'s ring (R535). -/
def State.ringWords (s : State) (p : Nat) : Nat := 2 ^ (Nat.min 14 (s.fget (Reg.TR_RCTL_SIZE p)) + 10)

/-- Where the router writes next in the ring of partition `p`: past the packets whose words are not yet visible. -/
def State.ringEnd (s : State) (p : Nat) : Nat :=
  (s.fget (Reg.TR_RWP_WP p) + ((s.trc.vis.filter fun x => decide (x.1 = p)).map (·.2)).sum) % s.ringWords p

/-- WP moves past a packet of `n` words, and the watermark is raised where it is crossed (R535). -/
def State.ringShow (s : State) (x : Nat × Nat) : State :=
  let p := x.1
  let wp := s.fget (Reg.TR_RWP_WP p) % s.ringWords p
  let t := s.fset (Reg.TR_RWP_WP p) ((wp + x.2) % s.ringWords p)
  let m := 2 ^ (s.fget (Reg.TR_RCTL_WMK p) + 6)
  if wp / m ≠ (wp + x.2) / m then t.raiseOwned p (s.fget (Reg.TR_RCTL_ESRC p)) else t

/-- WP moves past the packets whose words are visible (R535). -/
def State.showRings (s : State) : State :=
  if s.trc.vis = [] ∨ s.writesWait 14 then s
  else s.trc.vis.foldl State.ringShow (s.setTrc { s.trc with vis := [] })

/-- Words of a packet written into the ring (R535, R536). -/
def State.ringPut (s : State) (p : Nat) (ws : List Word) : State :=
  let base := 16 * s.fget (Reg.TR_RBASE_BASE p)
  match s.engWrite 14 (some (engWho p)) none (ws.mapIdx fun i v => (base + (s.ringEnd p + i) % s.ringWords p, v)) with
  | (t, .ok _) => (t.setTrc { t.trc with vis := t.trc.vis ++ [(p, ws.length)] }).showRings
  | (t, _) => (t.fset (Reg.TR_RCTL_EN p) 0).flag (Reg.TR_RSTAT_WIN p) (Reg.TR_RSTAT_WIN_MORE p)

/-- A packet reaches the ring of partition `p` (R534, R535). -/
def State.ringPacket (s : State) (p : Nat) (ws : List Word) : State :=
  if !s.fbit (Reg.TR_RCTL_EN p) then s.fadd (Reg.TR_RDROP_N p) 1
  else if s.fbit (Reg.TR_RCTL_MODE p) then s.ringPut p ws
  else
    let size := s.ringWords p
    let room := size - 1 - (s.ringEnd p + size - s.fget (Reg.TR_RRP_RP p) % size) % size
    let lost := Tab.get 0 s.trc.ovf p
    let need := ws.length + (if lost = 0 then 0 else 1)
    if room < need then
      let s1 := (s.fadd (Reg.TR_RDROP_N p) 1).flag (Reg.TR_RSTAT_FULL p) (Reg.TR_RSTAT_FULL_MORE p)
      s1.setTrc { s1.trc with ovf := Tab.set 0 s1.trc.ovf p (lost + 1) }
    else if lost = 0 then s.ringPut p ws
    else
      let s1 := s.ringPut p [pktHead tpOverflow 0o77 0 0 (Nat.min lost 1023)]
      (s1.setTrc { s1.trc with ovf := Tab.set 0 s1.trc.ovf p 0 }).ringPut p ws

/-- The router takes the oldest packet of a cluster (R534); a packet of a core that no partition owns goes nowhere. -/
def State.takeFrom (s : State) (cl : Nat) : State :=
  match s.trQueue cl with
  | [] => s
  | x :: rest =>
    let s1 := (s.setTrQueue cl rest).trRoom cl
    let p := s.pairOwner (x.core / 2)
    if p < 16 then s1.ringPacket p x.words else s1

/-- Whether the router takes packets (R534). -/
def State.routing (s : State) : Bool := s.fbit Reg.TR_CTL_EN && decide (s.domState 84 = 1) && !s.dead 14

/-- ROUTER_TAKE (R534): from the next cluster in rotation that has one. -/
def runRouterTake (s : State) : State :=
  if !s.routing then s
  else
    match (List.range 12).find? fun k => decide (s.trQueue ((s.trc.turn + k) % 12) ≠ []) with
    | none => s
    | some k =>
      let cl := (s.trc.turn + k) % 12
      (s.setTrc { s.trc with turn := (cl + 1) % 12 }).takeFrom cl

/-- Everything a cluster's unit holds passes to the router (R537), or is dropped and counted where the router takes nothing (R528, R534). -/
def State.flushCluster (s : State) (cl : Nat) : State :=
  if s.routing then (s.trQueue cl).foldl (fun t _ => t.takeFrom cl) s
  else (s.trQueue cl).foldl (fun t x => t.fadd (Reg.TR_CSTAT_DROP x.core) 1) (s.setTrQueue cl [])

/-- A unit has told SLEEP. -/
def State.asleep (s : State) (n : Nat) : State := s.setTrc { s.trc with slept := n :: s.trc.slept.filter (· ≠ n) }

/-- Before a cluster is gated: one SLEEP for each core, then the whole queue (R537). -/
def State.clusterSleep (s : State) (cl : Nat) : State :=
  (((List.range 4).foldl (fun t c =>
    t.trPacket (4 * cl + c) [pktHead tpSleep (4 * cl + c) 0 0 0, t.stamp.1, t.stamp.2]) s).flushCluster cl).asleep cl

/-- RESTART and SYNC of a core (R537, R539). -/
def State.coreRestart (s : State) (core : Nat) : State :=
  (s.trPut core [pktHead tpRestart core 0 0 0, s.stamp.1, s.stamp.2]).trSync core

/-- What a unit does that told SLEEP, once its domain is ON again (R537, R538). -/
def State.wakeUnit (s : State) (n : Nat) (f : State → State) : State :=
  if s.trc.slept.contains n then f (s.setTrc { s.trc with slept := s.trc.slept.filter (· ≠ n) }) else s

/-- A cluster is ON again (R537). -/
def State.clusterWake (s : State) (cl : Nat) : State :=
  s.wakeUnit cl fun s => (List.range 4).foldl (fun t c => t.coreRestart (4 * cl + c)) s

/-- A packet of the router into every ring that is enabled (R538). -/
def State.routerPacket (s : State) (type : Nat) : State :=
  (List.range 16).foldl (fun t p =>
    if t.fbit (Reg.TR_RCTL_EN p) then t.ringPacket p [pktHead type 0o77 0 0 1, t.stamp.1, t.stamp.2] else t) s

/-- Before the router is gated (R538). -/
def State.routerSleep (s : State) : State := (s.routerPacket tpSleep).asleep 12

/-- The router is ON again (R538). -/
def State.routerWake (s : State) : State := s.wakeUnit 12 fun s => s.routerPacket tpRestart

/-- The router is lost: the packets it held go with it, and a SLEEP or RESTART with its domain (R538). -/
def State.routerLost (s : State) : State := s.setTrc { s.trc with vis := [], slept := s.trc.slept.filter (· ≠ 12) }

/-- A warm reset discards the packets in every queue and in the router (R539). -/
def State.traceDiscard (s : State) : State :=
  s.setTrc { s.trc with queues := [], gap := [], nots := [], told := [], vis := [] }

/-- After a warm reset's release (R539). -/
def State.traceRestart (s : State) : State :=
  (List.range 48).foldl State.coreRestart s

end Sys2Proof.Machine
end

