-- ==== Sys2Proof/Machine/Power.lean ====
section
/-! DEFINITION. The power manager (spec/17_power_reset_service.md): what holds the part, cold reset, power requests, domain loss,
rails, sensors, power fail, clock monitors. -/

namespace Sys2Proof.Machine

def State.setPow (s : State) (p : Pow) : State := { s with pow := p }
def State.setTap (s : State) (t : Tap) : State := { s with tap := t }
def State.setBoot (s : State) (b : Boot) : State := { s with boot := b }

/-- Whether the part is out of power-on reset, and no power fail has been detected (R510, R513, R552). -/
def State.running (s : State) : Bool := decide (s.pow.hold = .none) && !s.pow.testen

/-- What a command does while the part runs; it does nothing while the part is held in reset or stopped by a power fail. -/
def State.live (s : State) (f : State → State) : State := if s.running then f s else s

/-- The blocks that Rook releases, by the step of R522 that releases them: what is never held but with the whole part (the island, the power
manager, the Moraine, the test access port), Rook's services, the switch, the angle unit, the memory system, the scheduler, the cores, the
process-data engine, the endpoint and trace; `pairs` is the hold and the self-test of a pair. -/
inductive Block where
  | island | service | net | angle | memory | sched | pairs | cores | engine | pcie | trace
  deriving DecidableEq, Repr

/-- Whether Rook has released a block (R14, R518, R522). A warm reset does not reset the switch, the angle unit, the memory system's
contents and the endpoint's link (R45, R296, R343, R376, R501), and a pair's hold runs on to its verdict (R313); the memory system answers within step 2, which brings its channels up. -/
def State.released (s : State) (b : Block) : Bool :=
  let n := s.boot.done
  match b with
  | .island => true
  | .service => !s.boot.rom
  | .net | .angle => s.pow.warm || decide (1 ≤ n)
  | .memory => s.pow.warm || decide (2 ≤ n) || (decide (n = 1) && decide (s.domState 60 = 1))
  | .sched => decide (3 ≤ n)
  | .cores => decide (4 ≤ n)
  | .pairs => s.pow.warm || decide (4 ≤ n)
  | .pcie => s.pow.warm || decide (5 ≤ n)
  | .engine | .trace => decide (5 ≤ n)

/-- The block that holds the register at word address `a`. -/
def regBlock (a : PWord) : Block :=
  if a < Reg.RK_PSTAT then .sched
  else if a < Reg.AN_TB_CFG then .island
  else if a < Reg.CP_SVBASE 0 0 then .angle
  else if a < Reg.CH_CFG then .cores
  else if a < Reg.LS_EVT then .memory
  else if a < Reg.MC_MAP then .cores
  else if a < Reg.NP_CFG then .memory
  else if a < Reg.PD_CTL then .net
  else if a < Reg.DX_CFG then .engine
  else if a < Reg.MO_STAT then .service
  else if a < Reg.PX_CTL then .island
  else if a < Reg.PM_REQ then .pcie
  else if a < Reg.TR_CTL then .island
  else if a < Reg.DB_TGT then .trace
  else if a < Reg.SC_CFG then .cores
  else if a < Reg.RK_CFG then .sched
  else .island

/-! ## Cold reset (R516, R517) -/

/-- Fuses blown in RK_FUSE17 and RK_FUSE18 (RK_PSTAT.RBK). -/
def State.rbk (s : State) : Nat :=
  ((List.range 32).filter fun i => bitAt (s.rget (Reg.RK_FUSE 17)) i).length +
    ((List.range 32).filter fun i => bitAt (s.rget (Reg.RK_FUSE 18)) i).length

/-- The lifecycle (R439). -/
def State.fuseLc (s : State) : Nat := bits (s.rget (Reg.RK_FUSE 16)) 2 2

/-- The registers that a cold reset keeps: fuses and the device identifier. -/
def keptCold (a : PWord) : Bool :=
  decide (Reg.RK_FUSE 0 ≤ a ∧ a ≤ Reg.RK_FUSE 20) || decide (a = Reg.RK_DEVID_HI ∨ a = Reg.RK_DEVID_LO)

/-- A cold or watchdog reset (R516, R517): every field takes its reset value, REF25 that of the strap as sampled (R552); the Moraine, fuses,
boot flash, configuration store and keys are kept, and the secure core starts in the ROM. -/
def State.coldReset (s : State) (cause : Nat) (hold : PowHold := .none) : State :=
  let lc := s.fuseLc
  let t : State :=
    { State.reset with
      regs := Tab.keep keptCold s.regs
      mor := { s.mor with reading := false, powerFail := false, pfDropped := 0 }
      rook := { Rook.reset with keys := if lc = 3 then [] else s.rook.keys }
      dict := { Dict.reset with
        creds := s.dict.creds.map fun (n, c) => (n, c.map fun x => { x with fails := [], locked := false })
        area := s.dict.area, area2 := s.dict.area2, gen := s.dict.gen, gen2 := s.dict.gen2 }
      boot := { s.boot with rom := true, refused := false, done := 0, hand := none }
      tap := { s.tap with allowed := false, fails := 0, cmd := none, stepSlot := none, selfTest := [] }
      pow := { Pow.reset with hold := hold, testen := s.pow.testen }
      freeCtr := s.freeCtr
      pending := s.pending }
  let t1 := (t.fset Reg.PM_RSTC_CAUSE cause).fset Reg.RK_PSTAT_LC lc
  let t2 := ((t1.fset Reg.RK_PSTAT_RBK s.rbk).fset Reg.MO_STAT_FFCNT (s.fget Reg.MO_STAT_FFCNT)).fset Reg.MO_STAT_FFFULL
    (s.fget Reg.MO_STAT_FFFULL)
  let t3 := (List.range 16).foldl (fun u i => u.fset (Reg.PM_TSEN_TEMP i) (s.fget (Reg.PM_TSEN_TEMP i))) t2
  let t4 := t3.fset Reg.AN_TB_CFG_REF25 (s.fget Reg.AN_TB_CFG_REF25)
  ((List.range 12).foldl (fun u r => u.fset (Reg.PM_RAIL_VAL r) (s.fget (Reg.PM_RAIL_VAL r))) t4).qdep

/-- RESET_N_LOW (R516, R565). -/
def runResetNLow (s : State) : State := if s.pow.hold = .failed then s else s.coldReset 2 .por

/-- POWER_ON_RESET_RELEASE (R510, R514, R552): REFSEL is sampled; after a power fail the part makes a cold reset with cause 1. -/
def runPowerOnResetRelease (refsel : Bool) (s : State) : State :=
  if s.running ∨ s.pow.hold = .thermal then s
  else
    let t := if s.mor.powerFail then s.coldReset 1 else s
    (t.setPow { t.pow with hold := .none, testen := false }).fset Reg.AN_TB_CFG_REF25 (b2n refsel)

/-- TESTEN_HIGH (R552). -/
def runTestenHigh (s : State) : State :=
  let t := s.coldReset 1 .por
  t.setPow { t.pow with testen := true }

/-- PM_RST_COLD (R516, R519): OP 2, from M. -/
def runPmRstCold (req : Requester) (va : Word) (s : State) : State :=
  s.guarded req va Reg.PM_RST fun s => s.coldReset 3

/-! ## Power requests (R505 to R507) -/

/-- Whether domain `d` is held by Rook (R440). -/
def State.domHeld (s : State) (d : Nat) : Bool := bitAt (s.rget (Reg.RK_HELD (d / 36))) (d % 36)

/-- The rails that feed a domain, beside those that a power fail watches (R504, R509). -/
def railsOf (d : Nat) : List Nat :=
  if d < 68 then [4] else if d < 74 then [5, 6] else if d < 78 then [7, 8] else if d < 80 then [10]
  else if d = 81 then [4, 9] else [4]

/-- Whether a rail that feeds the domain is out of limits (R510). -/
def State.starved (s : State) (d : Nat) : Bool := (railsOf d).any fun r => Tab.get false s.pow.railOut r

/-- Lock regions of cluster `cl` that are not OFF (R296). -/
def State.clusterLocked (s : State) (cl : Nat) : Bool :=
  (List.range 4).any fun r => decide (s.fget (Reg.CH_L2C_STATE cl r) ≠ 0)

/-- The condition of R507 for OFF and CLKOFF of domain `d`; the switch's are those of R366. -/
def State.mayGate (s : State) (d op : Nat) : Bool :=
  if d < 48 then false
  else if d < 60 then
    let c := d - 48
    [2 * c, 2 * c + 1].all (fun k => decide (s.pairState k = lsOff ∨ s.pairState k = lsFenced)) && !s.clusterLocked c
  else if d < 68 then
    (List.range 6).all (fun c => decide (s.chState c = chSelfref ∨ s.chState c = chOff)) &&
      s.mem.dirs.all fun (_, e) => decide (e.st = .dn ∨ e.st = .absent)
  else if d < 74 then
    let st := s.chState (d - 68)
    if op = 2 then decide (st = chSelfref) else !decide (st = chActive ∨ st = chZeroing)
  else if d < 80 then
    let x := d - 74
    !s.fbit (Reg.NP_PCFG_EN x) && (decide (4 ≤ x) || !s.fbit (Reg.NP_BYP_EN (x / 2)))
  else if d = 80 then
    (List.range 6).all (fun x => !s.fbit (Reg.NP_PCFG_EN x)) && !s.fbit (Reg.NP_BYP_EN 0) && !s.fbit (Reg.NP_BYP_EN 1)
  else if d = 81 then !s.fbit Reg.PX_CTL_EN
  else if d = 82 then !s.fbit Reg.PD_CTL_EN
  else if 85 ≤ d then
    s.entryList.all fun (c, e) => decide (c / 2048 ≠ d - 85 ∨ e.state = stFree)
  else true

/-- The state that a request takes a domain to, where R505 allows it: from its state, by OP 1 ON, 2 CLKOFF, 3 OFF. -/
def powerTarget (st op : Nat) : Option Nat :=
  match op, st with
  | 1, 0 => some 1
  | 1, 2 => some 1
  | 2, 1 => some 2
  | 3, 1 => some 0
  | 3, 2 => some 0
  | 3, 3 => some 0
  | _, _ => none

/-- The status of a power request that can be judged (R505 to R507, R440); BUSY until the last block of a reset is released (R518, R519). -/
def State.judgePower (s : State) (req : Requester) (op d : Nat) : Nat :=
  if op = 0 ∨ 86 < d then stsBadArg
  else if s.boot.done < 6 then stsBusy
  else if s.domHeld d ∧ ¬ req.secure ∧ req.level ≠ .m then 9
  else if d < 48 then stsConflict
  else match powerTarget (s.domState d) op with
    | none => stsConflict
    | some _ =>
      if op = 1 ∧ s.starved d then stsConflict
      else if 2 ≤ op ∧ s.domState d ≠ 3 ∧ ¬ s.mayGate d op then stsConflict
      else stsOk

/-- The preparation of a block that is about to be gated by OP `op` (R537, R538): a cluster's trace unit, whose clock runs, and the router
before OFF. -/
def State.prepareGate (s : State) (d op : Nat) : State :=
  if 48 ≤ d ∧ d < 60 then (if s.domState d = 1 then s.clusterSleep (d - 48) else s)
  else if d = 84 ∧ op = 3 then s.routerSleep
  else s

/-- PM_RES after a request that ends at once. -/
def State.pmResult (s : State) (status : Nat) : State := (s.fset Reg.PM_RES_STATUS status).fset Reg.PM_RES_DONE 1

/-- A power request (R506): refused with its status, or under way until DOMAIN_TRANSITION_COMPLETE; LOST goes to OFF at once. -/
def State.powerRequest (s : State) (req : Requester) (op d : Nat) : State :=
  if !s.fbit Reg.PM_RES_DONE then
    (s.flag Reg.PM_RES_BUSYHIT Reg.PM_RES_BUSYHIT_MORE).refusal stsBusy req.part.val req.ctx.val blkPM op d
  else
    let st := s.judgePower req op d
    if st ≠ stsOk then
      (s.refusal st req.part.val req.ctx.val blkPM op d).pmResult st
    else if s.domState d = 3 then
      let s1 := if 68 ≤ d ∧ d < 74 then s.fset (Reg.MC_CHSTAT_STATE (d - 68)) chOff else s
      ((s1.setDom d 0).pmResult 0).raise 94
    else
      let s1 := if op = 1 then s else s.prepareGate d op
      (s1.fset Reg.PM_RES_DONE 0).setPow { s1.pow with trans := some (d, (powerTarget (s.domState d) op).getD 1) }

/-- PM_ON, PM_CLKOFF, PM_OFF (R505 to R507). -/
def runPmOn (req : Requester) (d : BitVec 7) (s : State) : State := s.powerRequest req 1 d.toNat
def runPmClkoff (req : Requester) (d : BitVec 7) (s : State) : State := s.powerRequest req 2 d.toNat
def runPmOff (req : Requester) (d : BitVec 7) (s : State) : State := s.powerRequest req 3 d.toNat

/-- A store to PM_REQ (R506). -/
def State.pmReqStore (s : State) (req : Requester) (v : Word) : State := s.powerRequest req (bits v 7 2) (bits v 0 7)

/-- The lines a cluster holds are written back and dropped (R296). -/
def State.emptyCluster (s : State) (a : Nat) : State :=
  let held := (s.mem.agents.filter fun (k, x) => decide (k / 2 ^ 32 = a) && x.st.holds).map fun (k, _) => k % 2 ^ 32
  (held.foldl (fun t l => (t.giveLine a l).settle l) s).wipeAgent a

/-- The domain of agent `a` is powered up: its caches are empty (R293). -/
def State.cleanAgent (s : State) (a : Nat) : State :=
  let t := s.wipeAgent a
  { t with mem := { t.mem with unclean := t.mem.unclean.filter (· ≠ a) } }

/-- A channel's domain is powered or gated (R326, R342). -/
def State.channelPower (s : State) (c : Nat) (on : Bool) : State :=
  let x := s.chan c
  if on then
    if s.chState c ≠ chOff then s
    else (s.setChan c { x with warmSref := false }).fset (Reg.MC_CHSTAT_STATE c) (if x.warmSref then chSelfref else chInit)
  else
    let kept := decide (s.chState c = chSelfref)
    let t := s.setChan c { x with warmSref := kept, rq := [], issued := [], wq := [], phy := if kept then x.phy else [],
                                  initOk := if kept then x.initOk else [], measuring := [] }
    (t.fset (Reg.MC_CHSTAT_STATE c) chOff).endMcCommand c

/-- What a domain's block does when the domain reaches `st` from OFF, or reaches OFF. -/
def State.domArrives (s : State) (d was st : Nat) : State :=
  if 48 ≤ d ∧ d < 60 then
    if was = 0 then (s.cleanAgent (d - 48)).clusterWake (d - 48)
    else if st = 0 then s.emptyCluster (d - 48)
    else if st = 1 then s.clusterWake (d - 48)
    else s
  else if 68 ≤ d ∧ d < 74 then
    if was = 0 then s.channelPower (d - 68) true else if st = 0 then s.channelPower (d - 68) false else s
  else if 74 ≤ d ∧ d < 80 then
    if st = 1 then s else runLinkDown ⟨(d - 74) % 6, Nat.mod_lt _ (by decide)⟩ false s
  else if d = 81 ∨ d = 82 then (if was = 0 then s.cleanAgent (94 - d) else s)
  else if d = 84 then if was = 0 then (s.cleanAgent 14).routerWake else s
  else if d = 85 ∨ d = 86 then
    s.fset (if d = 85 then Reg.FN_STAT_H0UP else Reg.FN_STAT_H1UP) (b2n (decide (st = 1)))
  else s

/-- A domain reaches a state. -/
def State.moveDom (s : State) (d st : Nat) : State :=
  if s.domState d = st then s else (s.setDom d st).domArrives d (s.domState d) st

/-- DOMAIN_TRANSITION_COMPLETE (R505, R506). -/
def runDomainTransitionComplete (s : State) : State :=
  match s.pow.trans with
  | none => s
  | some (d, st) =>
    let t := (s.setPow { s.pow with trans := none }).moveDom d st
    (t.pmResult 0).raise 94

/-! ## Domain loss (R508) -/

/-- The words that a core's L1D alone holds are lost with the core (DESIGN CHOICE: R306 says so of a lockstep pair). -/
def State.loseL1 (s : State) (c : Nat) : State :=
  let lines := (s.mem.l1.filter fun (k, _) => decide (k / 512 = c ∧ k % 512 < 256)).flatMap fun (_, x) =>
    (x.ways.filter fun w => decide (w.st = .m)).map (·.line)
  let t := lines.foldl (fun t l =>
    let x := t.agentLine (c / 4) l
    t.setAgentLine (c / 4) l { x with words := x.words.map fun w => lostWord (dataOf w) }) s
  { t with mem := { t.mem with l1 := Tab.keep (fun k => decide (k / 512 ≠ c)) t.mem.l1 } }

/-- The loss of a core of a pair that is not in lockstep: its contexts stop, and the pair goes to HALF or FENCED. -/
def State.coreLost (s : State) (c : Nat) : State :=
  let k := c / 2
  if s.pairState k = lsLockstep then s.mismatch k 11 0
  else if s.pairState k = lsSplit ∨ s.pairState k = lsHalf then
    let other := if c % 2 = 0 then c + 1 else c - 1
    let alone := s.fbit (Reg.LS_CFG_SURVG k) && decide (s.domState other = 1) && decide (s.pairState k = lsSplit)
    let gone := if alone then coreSlots c else pairSlots k
    let s1 := gone.foldl (State.holdSlot k) (s.loseL1 c)
    let s2 := (s1.fset (Reg.LS_STAT_FAILM k) (b2n (decide (c % 2 = 0) || !alone))).fset (Reg.LS_STAT_FAILC k)
      (b2n (decide (c % 2 = 1) || !alone))
    let s3 := ((s2.flag Reg.LS_EVT_FENCE Reg.LS_EVT_FENCE_MORE).raise 50).fencePair k (decide (c % 2 = 0) || !alone)
      (decide (c % 2 = 1) || !alone)
    s3.setDom c 3
  else s

/-- The loss of a cluster: its agent is dead, both pairs FENCED without a self-test, class-D work to spares (R291, R309, R310). -/
def State.clusterLost (s : State) (cl : Nat) : State :=
  [2 * cl, 2 * cl + 1].foldl (fun t k =>
    if t.pairState k = lsOff ∨ t.pairState k = lsFenced then t
    else
      let pins := t.pins (2 * k)
      let u := (pairSlots k).foldl (State.holdSlot k) t
      let v := (u.fset (Reg.LS_STAT_FAILM k) 1).fset (Reg.LS_STAT_FAILC k) 1
      v.afterFence k pins true true) ((s.declareDead cl).wipeAgent cl)

/-- The loss of a Firn half (R74): a transfer of its contexts ends, and the slot it was for is free. -/
def State.firnLost (s : State) (h : Nat) : State :=
  let s0 := s.fset (if h = 0 then Reg.FN_STAT_H0UP else Reg.FN_STAT_H1UP) 0
  let hit := (s0.entryList.filter fun (c, e) => decide (c / 2048 = h ∧ e.state ≠ stFree)).map (·.1)
  hit.foldl (fun t c =>
    let p := (t.partOf c).getD 0
    let g := (t.entry c).classG
    let t0 := t.dropContext c
    let t1 := match t0.slotOf c with
      | some i => (t0.vacateSlot i).stageReserved i
      | none => if (t0.slot (t0.entry c).slot).resv = some c then
          t0.setSlot (t0.entry c).slot { t0.slot (t0.entry c).slot with resv := none } else t0
    let t2 := (t1.setCommit c []).toUnavail c 2
    (t2.raise ((if g then 32 else 16) + p)).record tySched 6 p c 0) s0

/-- The loss of an LLC slice (R296). -/
def State.loseSlice (s : State) (x : Nat) : State :=
  let s1 := { s with mem := { s.mem with lostSlices := x :: s.mem.lostSlices.filter (· ≠ x) } }
  (s1.flag Reg.CH_EVT_SLICELOSS Reg.CH_EVT_SLICELOSS_MORE).record tyMemory 5 0 (12 + x) 0

/-- HEALTHY of both pairs, and with it the drives, where the ring's domains are not all ON (R364, R365). -/
def State.bypassOff (s : State) (k : Nat) : State := (s.fset (Reg.NP_BYP_HEALTHY k) 0).fset (Reg.NP_BYP_HOLD k) 0

/-- The links of ports go down (R376). -/
def State.linksDown (s : State) (xs : List (Fin 6)) : State := xs.foldl (fun t x => runLinkDown x false t) s

/-- How the block fares whose domain is lost (R508). -/
def State.lostBlock (s : State) (d : Nat) : State :=
  if d < 48 then s.coreLost d
  else if d < 60 then s.clusterLost (d - 48)
  else if d < 68 then s.loseSlice (d - 60)
  else if d < 74 then s.chanLost (d - 68)
  else if h : d - 74 < 6 then
    let t := s.linksDown [⟨d - 74, h⟩]
    if d < 78 then t.bypassOff ((d - 74) / 2) else t
  else if d = 80 then ((s.linksDown [0, 1, 2, 3, 4, 5]).bypassOff 0).bypassOff 1
  else if d = 81 then
    let t := (s.declareDead 13).pxLinkDown
    t.setPx { t.pcie with held := true }
  else if d = 82 then (s.declareDead 12).outputsOff
  else if d = 84 then (s.declareDead 14).routerLost
  else if d = 85 then s.firnLost 0
  else if d = 86 then s.firnLost 1
  else s

/-- DOMAIN_LOST (R508): an unpowered domain has no supply to lose. -/
def runDomainLost (d : Fin 87) (s : State) : State :=
  if s.domState d.val = 0 ∨ s.domState d.val = 3 then s
  else
    let s1 := ((s.setDom d.val 3).flag Reg.PM_EVT_DLOST Reg.PM_EVT_DLOST_MORE).raise 93
    (s1.record tyPower 2 0 (64 + d.val) 0).lostBlock d.val

/-! ## Rails and sensors (R511, R512) -/

/-- Whether a measured rail lies within its limits. -/
def State.railWithin (s : State) (r mv : Nat) : Bool :=
  decide (s.fget (Reg.PM_RAIL_LO r) ≤ mv ∧ mv ≤ s.fget (Reg.PM_RAIL_HI r))

/-- RAIL_EXCURSION (R511): not for VDD_AON and VDD_CORE. -/
def runRailExcursion (r : Fin 12) (mv : BitVec 12) (s : State) : State :=
  let t := s.fset (Reg.PM_RAIL_VAL r.val) mv.toNat
  if r.val = 0 ∨ r.val = 3 ∨ Tab.get false s.pow.railOut r.val ∨ t.railWithin r.val mv.toNat then t
  else
    let t1 := t.setPow { t.pow with railOut := Tab.set false t.pow.railOut r.val true }
    ((t1.flag Reg.PM_EVT_RAIL Reg.PM_EVT_RAIL_MORE).raise 88).record tyPower 2 0 r.val (BitVec.ofNat 36 mv.toNat)

/-- RAIL_BACK (R511). -/
def runRailBack (r : Fin 12) (mv : BitVec 12) (s : State) : State :=
  let t := s.fset (Reg.PM_RAIL_VAL r.val) mv.toNat
  if ¬ Tab.get false s.pow.railOut r.val ∨ ¬ t.railWithin r.val mv.toNat then t
  else
    let t1 := t.setPow { t.pow with railOut := Tab.set false t.pow.railOut r.val false }
    ((t1.flag Reg.PM_EVT_RBACK Reg.PM_EVT_RBACK_MORE).raise 89).record tyPower 4 0 r.val (BitVec.ofNat 36 mv.toNat)

/-- The signed temperature of a sensor word, in quarters of 1 °C. -/
def tempOf (n : Nat) : Int := sint n 12

/-- A reading against HI and HYST (R512). -/
def State.judgeTemp (s : State) (i : Nat) (t : Int) : State :=
  let hi := tempOf (s.fget (Reg.PM_TLIM_HI i))
  let raised := Tab.get false s.pow.tempHi i
  let data := BitVec.ofNat 36 (clampInt t 12)
  if hi < t ∧ ¬ raised then
    let s1 := s.setPow { s.pow with tempHi := Tab.set false s.pow.tempHi i true }
    ((s1.flag Reg.PM_EVT_TEMP Reg.PM_EVT_TEMP_MORE).raise 90).record tyPower 3 0 (16 + i) data
  else if raised ∧ t < hi - s.fget (Reg.PM_TLIM_HYST i) then
    let s1 := s.setPow { s.pow with tempHi := Tab.set false s.pow.tempHi i false }
    ((s1.flag Reg.PM_EVT_TBACK Reg.PM_EVT_TBACK_MORE).raise 91).record tyPower 4 0 (16 + i) data
  else s

/-- Whether every sensor reads below 115 °C. -/
def State.cool (s : State) : Bool := (List.range 16).all fun i => decide (tempOf (s.fget (Reg.PM_TSEN_TEMP i)) < 460)

/-- SENSOR_READ (R512): at 125 °C or more a thermal-shutdown cold reset, held until every sensor reads below 115 °C. -/
def runSensorRead (sensor : Fin 16) (temp : BitVec 12) (s : State) : State :=
  let i := sensor.val
  let t := temp.toInt
  let s1 := s.fset (Reg.PM_TSEN_TEMP i) temp.toNat
  let s2 := if tempOf (s1.fget (Reg.PM_TSEN_MAX i)) < t then s1.fset (Reg.PM_TSEN_MAX i) temp.toNat else s1
  if s.pow.hold = .thermal then
    if s2.cool then s2.setPow { s2.pow with hold := .none } else s2
  else if ¬ s.running then s2
  else if 500 ≤ t then
    let told := decide (tempOf (s.fget (Reg.PM_TLIM_HI i)) < t) && !Tab.get false s.pow.tempHi i
    let s3 := s2.judgeTemp i t
    let s4 := if told then s3 else s3.record tyPower 3 0 (16 + i) (BitVec.ofNat 36 temp.toNat)
    s4.coldReset 5 .thermal
  else s2.judgeTemp i t

/-! ## Power fail (R513) -/

/-- Every issue gate is held. -/
def State.shutGates (s : State) : State :=
  (s.core.slots.map (·.1)).foldl (fun t i => t.setSlot i { t.slot i with gate := false }) s

/-- POWER_FAIL (R513, R557, R564, R565): by PFAIL_N while PFEN is 1, or VDD_AON or VDD_CORE below its limit. -/
def runPowerFail (rail : Option (Fin 12)) (s : State) : State :=
  let counts := match rail with
    | none => s.fbit Reg.PM_PFCFG_PFEN
    | some r => decide (r.val = 0 ∨ r.val = 3)
  if s.pow.hold = .failed ∨ counts = false then s
  else
    let subj := match rail with
      | none => 0o7777
      | some r => r.val
    let data := match rail with
      | none => 0
      | some r => BitVec.ofNat 36 (s.fget (Reg.PM_RAIL_VAL r.val))
    let s1 := s.setMor { s.mor with powerFail := true }
    let s2 := s1.record tyPower 1 0 subj data
    let s3 := ({ s2 with sch := { s2.sch with commit := [] } } : State).shutGates
    let s4 := (((s3.outputsOff).bypassOff 0).bypassOff 1)
    s4.setPow { s4.pow with hold := .failed }

/-- HOLD_UP_END (R479, R513): what the writer has not written is lost. -/
def runHoldUpEnd (s : State) : State :=
  if s.pow.hold ≠ .failed then s
  else
    let t := (s.setMor { s.mor with queue := [], done := [] }).qdep
    t.setPow { t.pow with hold := .por }

/-! ## Clock monitors (R33, R515) -/

/-- A monitor's bit of PM_CLK. -/
def clockBit : Clock → Nat
  | .core => 0
  | .dram => 1
  | .ser x => 2 + x.val
  | .pciref => 6
  | .ref => 7

/-- A clock that is lost (R44, R515). -/
def State.clockLost (s : State) (c : Clock) : State :=
  let told (t : State) : State := (t.flag Reg.PM_EVT_CLK Reg.PM_EVT_CLK_MORE).raise 92
  match c with
  | .core => (s.record tyPower 2 0 0o7777 0).coldReset 4
  | .dram => told ((List.range 6).foldl (fun t c => if t.chState c = chOff ∨ t.chState c = chLost then t else t.chanLost c) s)
  | .ser x => (told (runLinkDown ⟨x.val, Nat.lt_of_lt_of_le x.isLt (by decide)⟩ false s)).bypassOff (x.val / 2)
  | .pciref => told s.pxLinkDown
  | .ref => told s.oscillatorLost

/-- CLOCK_MONITOR_WINDOW (R33, R515): lost beyond 25 % of nominal or without lock; back after four good windows in a row. -/
def runClockMonitorWindow (c : Clock) (count nominal : Nat) (unlocked : Bool) (s : State) : State :=
  let off := if count ≤ nominal then nominal - count else count - nominal
  let bad := unlocked || decide (nominal < 4 * off)
  let up := bitAt (s.rget Reg.PM_CLK) (clockBit c)
  let show_ (t : State) (b : Bool) : State := t.rset Reg.PM_CLK (setBits (t.rget Reg.PM_CLK) (clockBit c) 1 (b2n b))
  if bad then
    let t := (show_ s false).setPow { s.pow with good := Tab.set 0 s.pow.good (clockBit c) 0 }
    if up then t.clockLost c else t
  else
    let n := Tab.get 0 s.pow.good (clockBit c) + 1
    let t := s.setPow { s.pow with good := Tab.set 0 s.pow.good (clockBit c) (Nat.min n 4) }
    if 4 ≤ n then show_ t true else t

/-- PLL_RELOCK (R515): the PLL's bit shows lock. -/
def runPllRelock (c : Clock) (s : State) : State :=
  match c with
  | .pciref => s
  | .ref => s
  | _ => s.rset Reg.PM_CLK (setBits (s.rget Reg.PM_CLK) (clockBit c) 1 1)

end Sys2Proof.Machine
end

