-- ==== Sys2Proof/Machine/Device.lean ====
section
/-! DEFINITION. Word stores and loads that reach a device region: the registers of every block, the Firn aperture, the output
aperture and the PCIe outbound space (R4 to R12, R238, R239, R422, R423, R543), with the effects their rules give them. -/

namespace Sys2Proof.Machine

/-- The index at which `a` is a register of an array that starts at `base`. -/
def arrIndex (a base stride count : Nat) : Option Nat :=
  if base ≤ a ∧ (a - base) % stride = 0 ∧ (a - base) / stride < count then some ((a - base) / stride) else none

/-! ## Stores with effects of their own -/

/-- Whether an enabled entry or resample set of partition `p` names its local reference `i` (R572). -/
def State.viewNamed (s : State) (p i : Nat) : Bool :=
  (s.entryList.any fun (c, e) =>
    s.inRange p c && !e.classG && e.en &&
      (decide (e.ttype = 1 ∧ e.ref = i) || decide (e.ttype = 3 ∧ e.src = i))) ||
  (s.pd.rs.any fun (k, x) => decide (x.state ≠ 0) && decide (s.subPart x.sub = p) &&
      decide ((({ ws := s.peekEntry 1 k } : RsCfg)).ref = i))

/-- Whether a store to AN_VIEWp changes PHYSi or clears Vi of a reference in use (R572). -/
def State.viewBreaks (s : State) (p : Nat) (new : Word) : Bool :=
  let old := s.rget (Reg.AN_VIEW p)
  (List.range 8).any fun i =>
    bitAt old (4 * i + 3) && decide (bits old (4 * i) 4 ≠ bits new (4 * i) 4) && s.viewNamed p i

/-- AN_VIEW_STORE (R65, R572). -/
def runAnViewStore (req : Requester) (va : Word) (p : Fin 16) (v : Word) (s : State) : State :=
  let a := Reg.AN_VIEW p.val
  if s.viewBreaks p.val (s.storedWord req.level a v 0) then s.refuseStore req va blkAN (a - Reg.AN_TB_CFG) 6
  else s.regStore req va a v

/-- A store to a CP_IRQ word (R229): EN written to 1 on a software source of another partition sets BADSRC. -/
def State.cpIrqStore (s : State) (req : Requester) (va : Word) (p l : Nat) (v : Word) : State :=
  let a := Reg.CP_IRQ p l
  let t := s.regStore req va a v
  let src := bits (t.rget a) 0 10
  if (s.storeGuard req.level a).isNone && bitAt (t.rget a) 25 && decide (512 ≤ src ∧ t.srcOwner src ≠ p) then
    t.flag (Reg.CP_ISTAT_BADSRC p) (Reg.CP_ISTAT_BADSRC_MORE p)
  else t

/-- RK_PCLR_STORE (R442): the entries of the named world go from the named cores. -/
def runRkPclrStore (req : Requester) (va : Word) (v : Word) (s : State) : State :=
  s.guarded req va Reg.RK_PCLR fun s =>
    let core := bits v 1 6
    let world := bitAt v 0
    let cores := if core = 63 then List.range 48 else if core < 48 then [core] else []
    cores.foldl (fun t c => t.clearPred c fun e => e.secure == world) s

/-- RK_WDKICK_STORE (R444): by the secure core, WDPER = 0 acting as 1; from a core it gets an error response. -/
def runRkWdkickStore (req : Option Requester) (va : Word) (_v : Word) (s : State) : State :=
  match req with
  | some r => s.storeError r va 0
  | none => s.fset Reg.RK_WDSTAT_LEFT (Nat.max 1 (s.fget Reg.RK_CFG_WDPER))

/-- DX_MDB_STORE (R464): starts a request of the partition's mailbox; no effect while BUSY is 1. -/
def runDxMdbStore (_req : Requester) (p : Fin 16) (_v : Word) (s : State) : State :=
  if s.fbit (Reg.DX_MST_BUSY p.val) then s else s.fset (Reg.DX_MST_BUSY p.val) 1

/-- The REFUSAL record of a debug command on behalf of partition `part` (R13, R475); R453 numbers no DB_ block, so the block is a
free value. -/
def State.dbRefusal (s : State) (status part op : Nat) : State :=
  s.freeNext.refusal status part 0o7777 (Config.freeWord s.freeCtr).toNat op (s.rget Reg.DB_TGT).toNat

/-- A store to DB_CMD (R545): BUSY while DONE is 0, BAD_ARG for an OP that is no command, else the command waits to be carried
out. -/
def State.dbCmdStore (s : State) (op : Nat) : State :=
  if !s.fbit Reg.DB_RES_DONE then (s.flag Reg.DB_RES_BUSYHIT Reg.DB_RES_BUSYHIT_MORE).dbRefusal stsBusy 0 op
  else if op = 0 ∨ 9 < op then (s.fset Reg.DB_RES_STATUS stsBadArg).dbRefusal stsBadArg 0 op
  else (s.fset Reg.DB_RES_DONE 0).setTap { s.tap with cmd := some op }

/-- What the hardware does in this cycle with the entry of a command's context takes effect before the command (R87, R571): a due point, a
stage decision, a release, and the end of a run at its budget. -/
def State.hardwareFirst (p : Fin 16) (ctx : BitVec 12) (s : State) : State :=
  if 16 * s.fget (Reg.SC_PRANGE_COUNT p.val) ≤ ctx.toNat then s
  else
    let c := Fin.ofNat 4096 (16 * s.fget (Reg.SC_PRANGE_BASE p.val) + ctx.toNat)
    let s1 := runTimeDuePoint c (runAngleDuePoint c s)
    let s2 := runDueCycle c (runStageDecision c s1)
    match s2.slotOf c.val with
    | some i =>
      let f := runRunBudgetExpiry (Fin.ofNat 384 i)
      if (f s2).slotOf c.val = none then f (s2.traceEnd i 4) else s2
    | none => s2

/-- A store to SC_CMD of partition `p` (R87, R108). -/
def State.scCmdStore (s0 : State) (p : Nat) (v : Word) : State :=
  let q := Fin.ofNat 16 p
  let ctx := BitVec.ofNat 12 (bits v 4 12)
  let arg := BitVec.ofNat 20 (bits v 16 20)
  let s := s0.hardwareFirst q ctx
  match bits v 0 4 with
  | 1 => runAlloc q ctx arg s
  | 2 => runFree q ctx arg s
  | 3 => runEnable q ctx arg s
  | 4 => runDisable q ctx arg s
  | 5 => runRun q ctx arg s
  | 6 => runStop q ctx arg s
  | 7 => runSetclass q ctx arg s
  | 8 => runReset q ctx arg s
  | op => s.scCommand p op ctx.toNat arg.toNat fun _ => (s, stsBadArg)

/-- A store to the SC_ block. -/
def State.scStore (s : State) (req : Requester) (va : Word) (a : PWord) (v : Word) (hw : Word) : State :=
  if Reg.SC_CMD 0 ≤ a ∧ a < Reg.SC_CMD 16 then
    let p := (a - Reg.SC_CMD 0) / 16
    match (a - Reg.SC_CMD 0) % 16 with
    | 0 => s.scCmdStore p v
    | 6 => runScEvraiseStore (Fin.ofNat 16 p) (BitVec.ofNat 10 (bits v 0 10)) s
    | _ => s.regStore req va a v hw
  else if Reg.SC_OPAGE_F 0 ≤ a ∧ a < Reg.SC_OPAGE_F 256 then
    runScOpageStore req va (Fin.ofNat 256 ((a - Reg.SC_OPAGE_F 0) / 2)) (decide ((a - Reg.SC_OPAGE_F 0) % 2 = 1)) v s
  else if a = Reg.SC_CFG then s.afterScCfg (s.regStore req va a v hw)
  else if Reg.SC_PRANGE 0 ≤ a ∧ a < Reg.SC_PRANGE 16 then runScPrangeStore req va (Fin.ofNat 16 (a - Reg.SC_PRANGE 0)) v s
  else s.regStore req va a v hw

/-- A store to the AN_ block. -/
def State.anStore (s : State) (req : Requester) (va : Word) (a : PWord) (v : Word) (hw : Word) : State :=
  if a = Reg.AN_TB_CFG then runAnTbCfgStore req va v s
  else if a = Reg.AN_SET_LO then runAnSetLoStore req va v s
  else if a = Reg.AN_SNAP then runAnSnapStore s
  else if a = Reg.AN_UTC then (if s.fget Reg.AN_UTC_USRC = 0 then s.regStore req va a v hw else s)
  else if a = Reg.AN_TB_HOLD then (s.regStore req va a v hw).refreshQual
  else if Reg.AN_VIEW 0 ≤ a ∧ a < Reg.AN_VIEW 16 then runAnViewStore req va (Fin.ofNat 16 (a - Reg.AN_VIEW 0)) v s
  else match arrIndex a (Reg.AN_REF_CFG 0) 16 8 with
    | some n => runAnRefCfgStore req va (Fin.ofNat 8 n) v s
    | none => s.regStore req va a v hw

/-- A store to the TL_ block. -/
def State.tlStore (s : State) (req : Requester) (va : Word) (a : PWord) (v : Word) (hw : Word) : State :=
  if a < Reg.TL_WB 16 0 then
    let p := Fin.ofNat 16 ((a - Reg.TL_WB 0 0) / 64)
    let k := Fin.ofNat 32 ((a - Reg.TL_WB 0 0) % 64 / 2)
    if (a - Reg.TL_WB 0 0) % 2 = 0 then runTlWbStore req va p k v s else runTlWlStore req va p k v s
  else match arrIndex a (Reg.TL_PCMD 0) 16 48 with
    | some n =>
      let c := Fin.ofNat 48 n
      match bits v 0 2 with
      | 1 => runPin c s
      | 2 => runUnpin c s
      | 3 => runUnpinAll c s
      | _ => s.tlBadOp n
    | none => s.regStore req va a v hw

/-- A store to the CH_ block. -/
def State.chStore (s : State) (req : Requester) (va : Word) (a : PWord) (v : Word) (hw : Word) : State :=
  if a = Reg.CH_DCMD then
    let x := Fin.ofNat 16 (bits v 0 4)
    s.guarded req va a fun s =>
      match bits v 4 2 with
      | 1 => runDeclareDead x s
      | 2 => runDeclareLive x s
      | op => (s.refusal stsBadArg 0 0o7777 blkCH op x.val).chResult stsBadArg
  else if a = Reg.CH_LKCMD then
    let t := BitVec.ofNat 6 (bits v 2 6)
    s.guarded req va a fun s =>
      match bits v 0 2 with
      | 1 => runLoad t s
      | 2 => runUnlock t s
      | op => (s.refusal stsBadArg 0 0o7777 blkCH op t.toNat).chResult stsBadArg
  else if Reg.CH_L2B 0 0 ≤ a ∧ a < Reg.CH_L2B 12 0 then runChRegionStore req va ((a - Reg.CH_L2B 0 0) / 2) a v s
  else if Reg.CH_LLB 0 ≤ a ∧ a < Reg.CH_LLB 8 then runChRegionStore req va (48 + (a - Reg.CH_LLB 0) / 2) a v s
  else s.regStore req va a v hw

/-- A store to LS_CMDk (R299). -/
def State.lsCmdStore (s : State) (req : Requester) (va : Word) (k : Nat) (v : Word) : State :=
  let q := Fin.ofNat 24 k
  s.guarded req va (Reg.LS_CMD k) fun s =>
    match bits v 0 3 with
    | 1 => runLsLockstep q s
    | 2 => runLsSplit q s
    | 3 => runLsOff q s
    | 4 => runRetest q s
    | 5 => runInject q s
    | op => (s.refusal stsBadArg (s.pairPart k) 0o7777 blkLS op k).lsResult k stsBadArg

/-- A store to the MC_ block. -/
def State.mcStore (s : State) (req : Requester) (va : Word) (a : PWord) (v : Word) (hw : Word) : State :=
  if a = Reg.MC_CMD then
    let ch := BitVec.ofNat 3 (bits v 4 3)
    let r := bitAt v 7
    s.guarded req va a fun s =>
      match bits v 0 4 with
      | 1 => runInit ch r s
      | 2 => runZero ch r s
      | 3 => runSre ch r s
      | 4 => runSrx ch r s
      | 5 => runMeasure ch r s
      | 6 => runMigrate ch r s
      | op => s.mcCommand op ch r fun _ _ => (s, stsBadArg)
  else if a = Reg.MC_MAP then runMcMapStore req va v s
  else match arrIndex a (Reg.MC_CHCFG 0) 64 6 with
    | some c => runMcChcfgStore req va c v s
    | none =>
      let c := (a - Reg.MC_CHCFG 0) / 64
      let j := (a - Reg.MC_CHCFG 0) % 64
      if Reg.MC_CHCFG 0 ≤ a ∧ 32 ≤ j ∧ j < 56 then
        runMcDlyStore req va (Fin.ofNat 6 c) (Fin.ofNat 2 ((j - 32) / 12)) (Fin.ofNat 12 ((j - 32) % 12)) v s
      else s.regStore req va a v hw

/-- A store to the NP_ block. -/
def State.npStore (s : State) (req : Requester) (va : Word) (a : PWord) (v : Word) (hw : Word) : State :=
  if a = Reg.NP_CFG then runNpCfgStore req va v s
  else if a = Reg.NP_PTPCFG then runNpPtpcfgStore req va v s
  else match arrIndex a (Reg.NP_PCFG 0) 16 6, arrIndex a (Reg.NP_HTXK 0) 16 16 with
    | some x, _ => runNpPcfgStore req va (Fin.ofNat 6 x) v s
    | _, some p => runNpHtxkStore (Fin.ofNat 16 p) s
    | _, _ => s.regStore req va a v hw

/-- A store to the PD_ block. -/
def State.pdStore (s : State) (req : Requester) (va : Word) (a : PWord) (v : Word) (hw : Word) : State :=
  if a = Reg.PD_CMD then
    let tbl := BitVec.ofNat 3 (bits v 3 3)
    let i := BitVec.ofNat 12 (bits v 6 12)
    s.guarded req va a fun s =>
      match bits v 0 3 with
      | 1 => runPdEnable tbl i s
      | 2 => runPdDisable tbl i s
      | op => s.pdCommand op tbl.toNat i.toNat
  else if Reg.PD_GPB 0 ≤ a then runOutputBindStore req va a v s
  else if Reg.PD_DICFG 0 ≤ a ∧ a < Reg.PD_DICFG 16 then (s.regStore req va a v hw).inputOff (a - Reg.PD_DICFG 0)
  else if Reg.PD_DOCFG 0 ≤ a ∧ a < Reg.PD_DOCFG 8 then (s.regStore req va a v hw).driveOutputs
  else s.regStore req va a v hw

/-- A store to the PX_ block. -/
def State.pxStore (s : State) (req : Requester) (va : Word) (a : PWord) (v : Word) (hw : Word) : State :=
  if a = Reg.PX_CTL then s.pxCtlStore req va v
  else if Reg.PX_OWA 0 ≤ a ∧ a < Reg.PX_OWA 8 then
    (if (a - Reg.PX_OWA 0) % 4 < 3 then s.pxOwStore req va ((a - Reg.PX_OWA 0) / 4) ((a - Reg.PX_OWA 0) % 4) v
     else s.regStore req va a v hw)
  else if Reg.PX_FCTL 0 ≤ a ∧ a < Reg.PX_FCTL 17 then
    let f := (a - Reg.PX_FCTL 0) / 32
    let j := (a - Reg.PX_FCTL 0) % 32
    if j = 1 then runPxFirqStore (Fin.ofNat 17 f) v s
    else if 2 ≤ j ∧ j < 6 then (s.regStore req va a v hw).intaDrop
    else if 16 ≤ j ∧ j % 2 = 0 then runPxIwaStore req va (Fin.ofNat 17 f) (Fin.ofNat 8 ((j - 16) / 2)) v s
    else if 16 ≤ j then s.pxIwbStore req va f ((j - 16) / 2) v
    else s.regStore req va a v hw
  else s.regStore req va a v hw

/-- A store to the PM_ block; a reset that it asks for is carried out once the store is done (R516). -/
def State.pmStore (s : State) (req : Requester) (va : Word) (a : PWord) (v : Word) (hw : Word) : State :=
  if a = Reg.PM_REQ then s.pmReqStore req v
  else if a = Reg.PM_RST then
    s.guarded req va a fun s => s.setPow { s.pow with rstReq := bits v 0 2 % 3 }
  else s.regStore req va a v hw

/-- A store to the DB_ block; DB_DCMD is reached only under DIAG (R548). -/
def State.dbStore (s : State) (req : Requester) (va : Word) (a : PWord) (v : Word) (hw : Word) : State :=
  if a = Reg.DB_CMD then s.dbCmdStore (bits v 0 4)
  else if a = Reg.DB_DCMD then s
  else s.regStore req va a v hw

/-- The lifecycle by which the debug rules judge: with DBGLOCK blown they hold as at LC 2 (R439, R441). -/
def State.debugLc (s : State) : Nat := if bitAt (s.rget (Reg.RK_FUSE 16)) 6 then 2 else s.fget Reg.RK_PSTAT_LC

/-- Whether the access gate of R542 is closed. -/
def State.gateShut (s : State) : Bool :=
  decide (s.debugLc ≠ 0) && !s.fbit Reg.RK_DBG_NDBG && !s.fbit Reg.RK_DBG_SDBG

/-- Every halted core resumes (R546). -/
def State.unhaltAll (s : State) : State := (List.range 48).foldl (fun t c => if t.halted c then t.unhalt c else t) s

/-- A store to RK_DBG: SDBG can become 1 only while LC ≤ 1 and DBGLOCK = 0 (R441); where the store closes the access gate, halted
cores resume at once (R546). -/
def State.rkDbgStore (s : State) (req : Requester) (va : Word) (v hw : Word) : State :=
  let v1 := if s.debugLc ≤ 1 ∨ s.fbit Reg.RK_DBG_SDBG then v else setBits v 1 1 0
  let t := s.regStore req va Reg.RK_DBG v1 hw
  if !s.gateShut && t.gateShut then t.unhaltAll else t

/-- A word store to a device register that exists, by the block that holds it. -/
def State.registerStore (s : State) (req : Requester) (va : Word) (a : PWord) (v : Word) (hw : Word := 0) : State :=
  if a < Reg.RK_PSTAT then s.regStore req va a v hw
  else if a ≤ Reg.RK_VER then s.storeError req va 0
  else if a < Reg.CP_SVBASE 0 0 then s.anStore req va a v hw
  else if a < Reg.TL_WB 0 0 then
    match irqOf a with
    | some (p, l) => s.cpIrqStore req va p l v
    | none => s.regStore req va a v hw
  else if a < Reg.CH_CFG then s.tlStore req va a v hw
  else if a < Reg.LS_EVT then s.chStore req va a v hw
  else if a < Reg.MC_MAP then
    match arrIndex a (Reg.LS_CMD 0) 8 24 with
    | some k => s.lsCmdStore req va k v
    | none => s.regStore req va a v hw
  else if a < Reg.NP_CFG then s.mcStore req va a v hw
  else if a < Reg.PD_CTL then s.npStore req va a v hw
  else if a < Reg.DX_CFG then s.pdStore req va a v hw
  else if a < Reg.MO_STAT then
    match arrIndex a (Reg.DX_MDB 0) 16 16 with
    | some p => runDxMdbStore req (Fin.ofNat 16 p) v s
    | none => s.regStore req va a v hw
  else if a < Reg.PX_CTL then
    if a = Reg.MO_RSEL_LO then runMoRselLoStore req va v s
    else if a = Reg.MO_RSEL_HI then s.moRselHiStore req va v
    else s.regStore req va a v hw
  else if a < Reg.PM_REQ then s.pxStore req va a v hw
  else if a < Reg.TR_CTL then s.pmStore req va a v hw
  else if a < Reg.DB_TGT then
    match arrIndex a (Reg.TR_CCFG 0) 64 48 with
    | some n => s.trCcfgStore req va n v
    | none => s.regStore req va a v hw
  else if a < Reg.SC_CFG then s.dbStore req va a v hw
  else if a < Reg.RK_CFG then s.scStore req va a v hw
  else if a = Reg.RK_DBG then s.rkDbgStore req va v hw
  else if a = Reg.RK_PCLR then runRkPclrStore req va v s
  else if a = Reg.RK_WDKICK then runRkWdkickStore (some req) va v s
  else s.regStore req va a v hw

/-! ## The regions (R238, R406, R422) -/

/-- The base of the entry words of the scheduler (R113). -/
def paEntries : Nat := 4 * (Reg.SC_CFG + 32768)

/-- The partition, entry and word that a physical address of the entry words names. -/
def entryWordAt (pa : Nat) : Option (Nat × Nat × Nat) :=
  let o := (pa - paEntries) / 4
  if paEntries ≤ pa ∧ o < 16 * 32768 then some (o / 32768, o % 32768 / 8, o % 8) else none

/-- The output aperture (R406). -/
def paOutputs : Nat := 0o3777010000000

/-- Whether a word offset of the output aperture is a target. -/
def isTarget (off : Nat) : Bool :=
  decide (off < 8 ∨ (4096 ≤ off ∧ off < 8192) ∨ (262144 ≤ off ∧ off < 524288))

/-- The word offset in the output aperture of a physical address. -/
def outputAt (pa : Nat) : Option Nat :=
  if paOutputs ≤ pa ∧ (pa - paOutputs) / 4 < 524288 then some ((pa - paOutputs) / 4) else none

/-- The register that binds the target at an aperture offset (R407). -/
def bindOf (off : Nat) : PWord :=
  if off < 8 then Reg.PD_DOB off else if off < 8192 then Reg.PD_SPB ((off - 4096) / 64) else Reg.PD_GPB ((off - 262144) / 512)

/-- Whether a target is bound to context `c`. -/
def State.boundTo (s : State) (off c : Nat) : Bool :=
  let w := s.rget (bindOf off)
  bitAt w 12 && decide (bits w 0 12 = c)

/-- Whether the secure SRAM range of partition `p` holds an address (R427). -/
def State.sramRange (s : State) (p pa : Nat) : Bool :=
  s.fbit (Reg.RK_SSL_V p) && decide (s.fget (Reg.RK_SSB_BASE p) ≤ pa / 64 ∧ pa / 64 ≤ s.fget (Reg.RK_SSL_LIMIT p))

/-- Whether the island answers an access with an error response (R422): any but from M, or by a partition's secure world in its
range. -/
def State.islandBars (s : State) (lvl : Level) (secure : Bool) (p pa : Nat) : Bool :=
  decide (paIsland ≤ pa) && !decide (lvl = .m) && !(secure && isSram pa && s.sramRange p pa)

/-- Whether an address of the register range is one of the DB_ block's. -/
def inDb (a : PWord) : Bool := decide (Reg.DB_TGT ≤ a ∧ a ≤ Reg.DB_DCMD)

/-- A word store to a device region on behalf of `req`, at physical address `pa` and virtual address `va`. -/
def State.deviceStore (s : State) (req : Requester) (va : Word) (pa : Nat) (v : Word) (hw : Word := 0) : State :=
  let a := pa / 4
  if pa < paOutEnd then
    match s.outStore req.part.val pa v with
    | some t => t
    | none => s.storeError req va 0
  else if paFirn ≤ pa ∧ pa < paFirn + 2 ^ 22 then
    runFirnApertureAccess req va (Fin.ofNat 4096 ((pa - paFirn) / 1024)) (Fin.ofNat 256 (a % 256)) (some v) s
  else if s.islandBars req.level req.secure req.part.val pa || (inDb a && decide (req.level ≠ .m)) then s.storeError req va 0
  else match entryWordAt pa, outputAt pa with
    | some (p, i, j), _ => runEntryWordStore req va (Fin.ofNat 16 p) (Fin.ofNat 4096 i) (Fin.ofNat 8 j) v s
    | _, some off =>
      if ¬ isTarget off then s.storeError req va 0
      else if ¬ s.boundTo off req.ctx.val then s.storeError req va 5
      else s.apertureStore off v
    | _, _ => if (regAt a).isSome then s.registerStore req va a v hw else s.storeError req va 0

/-! ## Loads -/

/-- A view page's word (R65): of the physical reference that the view maps, else 0 (OFF). -/
def State.viewPage (s : State) (p i k : Nat) : Word :=
  match s.viewRef p i with
  | none => 0
  | some n =>
    if k = 0 then (s.ref n).acc.extractLsb' 36 36
    else if k = 1 then s.rget (Reg.AN_REF_STAT n) else s.rget (Reg.AN_REF_FREQ n)

/-- The word that a load reads (R265, R314): the page of a checker in LOCKSTEP reads as the main core's, but for its TL_PRES. -/
def State.pageWord (s : State) (a : PWord) : PWord :=
  let checker (n : Nat) : Bool := decide (n % 2 = 1 ∧ n < 48 ∧ s.pairState (n / 2) = lsLockstep)
  let tl := a - Reg.TL_PVA 0
  let tr := a - Reg.TR_CCFG 0
  if Reg.TL_PVA 0 ≤ a ∧ checker (tl / 16) ∧ tl % 16 ≠ 3 then a - 16
  else if Reg.TR_CCFG 0 ≤ a ∧ checker (tr / 64) then a - 64
  else a

/-- A word load of a device register that exists: the state after it and the value. -/
def State.registerLoad (s : State) (b : PWord) (hw : Word := 0) : State × Word :=
  let a := s.pageWord b
  if a = Reg.AN_TIME_HI then
    let t := runTimeHiRead none s
    (t, t.rdata)
  else if Reg.AN_VP_ANG 0 0 ≤ a ∧ a < Reg.AN_VP_ANG 16 0 then
    let p := (a - Reg.AN_VP_ANG 0 0) / 32
    let j := (a - Reg.AN_VP_ANG 0 0) % 32
    if j < 24 then (s, s.viewPage p (j % 8) (j / 8))
    else if j = 24 then
      let t := runTimeHiRead (some (Fin.ofNat 16 p)) s
      (t, t.rdata)
    else s.regRead a hw
  else match arrIndex a (Reg.AN_REF_ANG 0) 16 8 with
    | some n => (s, (s.ref n).acc.extractLsb' 36 36)
    | none =>
      if a = Reg.SC_STAT then (s, s.scStat)
      else if a = Reg.NP_FBSTAT then
        let r := s.regRead a hw
        (r.1.fset Reg.NP_FBSTAT_MINFREE (r.1.fget Reg.NP_FBSTAT_FREE), r.2)
      else s.regRead a hw

/-- A field that a load from U does not return: an SH field (R9's text) reads as a free value. -/
def freeField (is : List Nat) (free : Word) (acc : Word) (f : FieldSpec) : Word :=
  if f.guard.isSh is then setBits acc f.lo f.width (bits free f.lo f.width) else acc

/-- What a load from a level returns of a register's value: its SH fields are not readable from U. -/
def State.hideShared (s : State) (lvl : Level) (a : PWord) (v : Word) : State × Word :=
  match regAt a with
  | none => (s, v)
  | some (r, is) =>
    if decide (lvl = .u) && r.fields.any (fun f => f.guard.isSh is) then
      (s.freeNext, r.fields.foldl (freeField is (Config.freeWord s.freeCtr)) v)
    else (s, v)

/-- A word load from a device region but the PCIe outbound space, uncached (R267): the value, or none for an error response (R239, R423,
R543). -/
def State.deviceLoad (s : State) (req : Requester) (pa : Nat) (hw : Word := 0) : State × Option Word :=
  let a := pa / 4
  if paFirn ≤ pa ∧ pa < paFirn + 2 ^ 22 then
    let t := runFirnApertureAccess req 0 (Fin.ofNat 4096 ((pa - paFirn) / 1024)) (Fin.ofNat 256 (a % 256)) none s
    (t, if t.rerr then none else some t.rdata)
  else if s.islandBars req.level req.secure req.part.val pa || (inDb a && decide (req.level ≠ .m)) then (s, none)
  else if Reg.RK_PSTAT ≤ a ∧ a ≤ Reg.RK_VER ∧ req.level = .u then (s, none)
  else match entryWordAt pa, outputAt pa with
    | some (p, i, j), _ =>
      let c := 16 * s.fget (Reg.SC_PRANGE_BASE p) + i
      if s.inRange p c then
        let r := (s.entry c).read j
        (s.setEntry c r.1, some r.2)
      else (s, some 0)
    | _, some off => (s, if isTarget off then some (Tab.get 0 s.sch.outVal off) else none)
    | _, _ =>
      if (regAt a).isSome then
        let r := s.registerLoad a hw
        let q := r.1.hideShared req.level a r.2
        (q.1, some q.2)
      else (s, none)

/-- REGISTER_WRITE (R4 to R12): a word store to a device register by its word address. -/
def runRegisterWrite (req : Requester) (a : PWord) (v hw : Word) (s : State) : State :=
  if paRegs ≤ 4 * a ∧ 4 * a < 2 ^ 38 then s.deviceStore req (addrWord a) (4 * a) v hw else s

/-- RC_READ (R6, R7): a word load of a device register; what it returns stands in `rdata`, an error response in `rerr`. -/
def runRcRead (req : Requester) (a : PWord) (hw : Word) (s : State) : State :=
  if paRegs ≤ 4 * a ∧ 4 * a < 2 ^ 38 then
    match s.deviceLoad req (4 * a) hw with
    | (t, some v) => { t with rdata := v, rerr := false }
    | (t, none) => { t with rerr := true }
  else s

end Sys2Proof.Machine
end

