-- ==== Sys2Proof/Machine/Release.lean ====
section
/-! DEFINITION. The release of a commit buffer after its write-back, and Rook's answer on interlocked entries (R102 to R104, R446). -/

namespace Sys2Proof.Machine

/-- Whether an entry's target is marked interlocked (R104, R106, R407). -/
def State.interlocked (s : State) (e : CommitEntry) : Bool :=
  let t := e.target
  match bits t 33 3 with
  | 1 => s.fbit (Reg.SC_OPAGE_F_INTLK (bits t 10 8))
  | 2 => s.fbit (Reg.PD_DOB_INTLK (bits t 0 3))
  | 3 => s.fbit (Reg.PD_GPB_INTLK (bits t 9 9))
  | 4 => s.fbit (Reg.PD_SPB_INTLK (bits t 6 6))
  | _ => false

/-- Whether an entry is an output-page word. -/
def CommitEntry.page (e : CommitEntry) : Bool := decide (bits e.target 33 3 = 1)

/-- An output-page word reaches memory (R102, R295). -/
def State.releaseWord (s : State) (e : CommitEntry) : State :=
  s.engPut 15 none [(s.fget (Reg.SC_OPAGE_F_FRAME (bits e.target 10 8)) * 1024 + bits e.target 0 10, e.out)]

/-- Entries leave the buffer: page words to memory, the others to the engine, in order; `final` where they end the release (R408). -/
def State.releaseEntries (s : State) (c : Nat) (l : List CommitEntry) (final : Bool) : State :=
  let s1 := (l.filter CommitEntry.page).foldl State.releaseWord s
  s1.setPd { s1.pd with released := s1.pd.released ++ [{ ctx := c, entries := l.filter fun e => !e.page, final := final }] }

/-- Whether a release of context `c` waits for Rook. -/
def State.judging (s : State) (c : Nat) : Bool := s.sch.intlk.any fun x => decide (x.1 = c)

/-- COMMIT_RELEASE (R102, R104): the entries that Rook judges in the full profile wait, the others are released. -/
def runCommitRelease (ctx : Fin 4096) (s : State) : State :=
  let c := ctx.val
  let e := s.entry c
  if e.classG || decide (e.state ≠ stCommit) || !e.agreed || s.judging c then s
  else
    let l := s.commitOf c
    let held := if s.fget Reg.RK_PSTAT_PROF = 1 then l.filter s.interlocked else []
    let free := if s.fget Reg.RK_PSTAT_PROF = 1 then l.filter (fun x => !s.interlocked x) else l
    if held = [] then ((s.releaseEntries c free true).setCommit c []).releaseDone c
    else
      let s1 := s.releaseEntries c free false
      { s1 with sch := { s1.sch with intlk := s1.sch.intlk ++ [(c, held)] } }

/-- Rook releases the interlocked entries of the oldest release that waits, or refuses them as a group (R104). -/
def State.answerInterlock (s : State) (release : Bool) : State :=
  match s.sch.intlk with
  | [] => s
  | (c, l) :: rest =>
    let s1 : State := { s with sch := { s.sch with intlk := rest } }
    let s2 :=
      if release then s1.releaseEntries c l true
      else
        let t := s1.releaseEntries c [] true
        let p := (t.partOf c).getD 0
        (t.flag (Reg.SC_PSTAT_INTLK p) (Reg.SC_PSTAT_INTLK_MORE p)).record tySched 4 p c 0
    (s2.setCommit c []).releaseDone c

/-- INTERLOCK_ANSWER (R104, R446): a secure core that is hung gives none. -/
def runInterlockAnswer (release : Bool) (s : State) : State :=
  if s.fbit Reg.RK_PSTAT_HUNG then s else s.answerInterlock release

/-- INTERLOCK_TIMEOUT (R446): no answer within RK_CFG.ILTO. -/
def runInterlockTimeout (s : State) : State := s.answerInterlock false

end Sys2Proof.Machine
end

