-- ==== Sys2Proof/Machine/Tick.lean ====
section
/-! DEFINITION. One core cycle: what the spec makes move with the clock (R17, R32, R34, R40, R54, R56, R179, R183, R184, R202, R208,
R263, R336, R444, R468), and the cycles that pass until a slot issues (R17, R183). -/

namespace Sys2Proof.Machine

/-! ## The holds of a slot (R183) -/

/-- The aligned group that holds a virtual address (R187). -/
def fetchGroup (va : Word) : Nat := va.toNat / 16

/-- The word at an address as the fetch buffer holds it. -/
def Slot.wordAt (x : Slot) (va : Word) : Option FetchWord :=
  (x.fetch.find? fun g => decide (g.group = fetchGroup va)).map fun g => g.words.getD (va.toNat % 16 / 4) (.err 0)

/-- Whether a monitor call of the context in a slot still waits for its status (R431). -/
def State.calling (s : State) (i : Nat) : Bool := s.rook.waits.any fun w => decide (w.slot = i) && w.live

/-- The gate hold (R183): a closed gate, mismatch hold or debug halt. -/
def State.gateHold (s : State) (i : Nat) : Bool :=
  let x := s.slot i
  !x.gate || x.stopped || decide (x.leaving ≠ .none) || decide (s.pairState (pairOf i) = lsHold) ||
    (s.halted (i / 8) && decide (s.tap.stepSlot ≠ some i))

/-- The data hold (R183): the previous instruction has not passed WB. -/
def State.dataHold (s : State) (i : Nat) : Bool :=
  let x := s.slot i
  decide (s.cyc < x.next) || x.away || x.outLoad.isSome || s.calling i

/-- The event of the first hold that applies to a slot before its instruction is known, 0 for none (R183). -/
def State.holdEvent (s : State) (i : Nat) : Nat :=
  if s.gateHold i then 0o12 else if s.dataHold i then 4 else if ((s.slot i).wordAt (s.img i iwPc)).isNone then 5 else 0

/-! ## The clock -/

/-- The time base adds AN_TB_INC, and HSEC counts seconds in HOLDOVER (R32, R34, R40). -/
def State.tickTime (s : State) : State :=
  let s1 := { s with tb := s.tb + s.fget Reg.AN_TB_INC_INC }
  if s1.tbState ≠ 3 then s1
  else
    let n := s1.ang.hsecSub + 1
    if n < secCycles 1 then { s1 with ang := { s1.ang with hsecSub := n } }
    else (({ s1 with ang := { s1.ang with hsecSub := 0 } }).fadd Reg.AN_TB_STAT_HSEC 1).refreshQual

/-- Reference `n` adds AN_REFn_INC, and HMS counts milliseconds in HOLDOVER and on in FREERUN (R54, R56). -/
def State.tickRef (s : State) (n : Nat) : State :=
  let r := s.ref n
  let r1 := { r with acc := r.acc + BitVec.ofNat 72 (s.fget (Reg.AN_REF_INC_INC n)) }
  if !r.hmsOn then s.setRef n r1
  else
    let k := r.hmsSub + 1
    if k < cyclesPerMs then s.setRef n { r1 with hmsSub := k }
    else (s.setRef n { r1 with hmsSub := 0 }).fadd (Reg.AN_REF_STAT_HMS n) 1

/-- The issue cycle and the port cycle of a slot pass: what neither has used is counted (R183, R184, R208). -/
def State.passPhase (s : State) (i : Nat) : State :=
  let x := s.slot i
  if x.ctx.isNone ∨ i % 8 ≠ s.cyc % 8 then s
  else
    let s1 := if x.judged = s.cyc + 1 then s else s.perf i (s.holdEvent i)
    if x.portAt = s.cyc + 1 then s1 else s1.perf i 0o13

/-- RUNCYC of a slot whose gate is open counts, saturating; that of a class-D run from its first issue on (R96, R208). -/
def State.tickSlot (s : State) (i : Nat) : State :=
  let x := s.slot i
  if x.ctx.isSome && x.gate && !(x.first && !(s.entry (x.ctx.getD 0)).classG) then
    s.setImg i iwRuncyc (BitVec.ofNat 36 (Nat.min ((s.img i iwRuncyc).toNat + 1) (2 ^ 36 - 1)))
  else s

/-- The long operations of a slot whose cycle has come complete (R179). -/
def State.tickOps (s : State) (i : Nat) : State :=
  let x := s.slot i
  if x.long.any fun o => decide (o.due ≤ s.cyc) then
    (x.long.filter fun o => decide (o.due ≤ s.cyc)).foldl (fun t o => t.completeOp i o)
      (s.setSlot i { x with long := x.long.filter fun o => decide (s.cyc < o.due) })
  else s

/-- Counters of a core that select event 1 count a cycle (R202, R203). -/
def State.tickCore (s : State) (core : Nat) : State := s.perf (8 * core) 1

/-- A channel's LFSR moves two DRAM clocks (R336). -/
def State.tickChan (s : State) (c : Nat) : State :=
  let x := s.chan c
  s.setChan c { x with lfsr := lfsrNext (lfsrNext x.lfsr) }

/-- DX_SESS.IDLE of an open session counts seconds (R468). -/
def State.tickSession (s : State) (n : Nat) : State :=
  if s.sessState n = 2 then s.fadd (Reg.DX_SESS_IDLE n) 1 else s

/-- The secure watchdog counts milliseconds down (R444). -/
def State.tickWatchdog (s : State) : State := s.fset Reg.RK_WDSTAT_LEFT (s.fget Reg.RK_WDSTAT_LEFT - 1)

/-- What moves with the clock in the slots and cores. -/
def State.tickCores (s : State) : State :=
  let slots := s.core.slots.map (·.1)
  let s1 := slots.foldl State.passPhase s
  let s2 := slots.foldl State.tickSlot { s1 with cyc := s1.cyc + 1 }
  let s3 := slots.foldl State.tickOps s2
  let s4 := ((s3.core.pmr.map fun (k, _) => k / 16).dedup).foldl State.tickCore s3
  (s4.core.pins.map (·.1)).foldl State.walkPins s4

/-- One core cycle; none passes while the part is held (R510, R513), and the angle unit stands until it is released (R14). -/
def State.tick (s : State) : State :=
  s.live fun s =>
    let s0 := if s.released .angle then (List.range 8).foldl State.tickRef s.tickTime else s
    let s1 := s0.tickCores
    let s2 := (List.range 6).foldl State.tickChan s1
    let s3 := if s2.cyc % cyclesPerMs = 0 then s2.tickWatchdog else s2
    if s3.cyc % secCycles 1 = 0 then (List.range 16).foldl State.tickSession s3 else s3

/-! ## The cycles up to an issue (R17, R183, R184) -/

/-- `n` core cycles pass. -/
def State.pass : Nat → State → State
  | 0, s => s
  | n + 1, s => State.pass n s.tick

/-- The cycles from now to the first cycle of a slot that is `m` or later (R17). -/
def State.slotWait (s : State) (i m : Nat) : Nat :=
  let c := Nat.max s.cyc m
  c - s.cyc + (i % 8 + 8 - c % 8) % 8

/-- Time passes to the first cycle of a slot that is `m` or later. -/
def State.toCycle (s : State) (i m : Nat) : State := State.pass (s.slotWait i m) s

/-- This issue cycle of a slot has been counted. -/
def State.judge (s : State) (i : Nat) : State := s.setSlot i { s.slot i with judged := s.cyc + 1 }

/-- An instruction has yet to issue in this cycle, and to use the port in it. -/
def State.unjudge (s : State) (i : Nat) : State := s.setSlot i { s.slot i with judged := 0, portAt := 0 }

/-- The port cycle of a slot is used. -/
def State.usePort (s : State) (i : Nat) : State := s.setSlot i { s.slot i with portAt := s.cyc + 1 }

/-- This issue cycle of a slot is lost to the hold that event `ev` counts, unless an instruction or a step has used it. -/
def State.hold (s : State) (i ev : Nat) : State :=
  if (s.slot i).judged = s.cyc + 1 then s else (s.perf i ev).judge i

/-- This issue cycle of a slot goes by (R183), and its next one has come. -/
def State.lose (s : State) (i ev : Nat) : State := (s.hold i ev).pass 8

/-- `n` issue cycles go by under one hold. -/
def State.loseN (i ev : Nat) : Nat → State → State
  | 0, s => s
  | n + 1, s => State.loseN i ev n (s.lose i ev)

/-- Issue cycles go by up to the first one that is `m` or later. -/
def State.loseTo (s : State) (i ev m : Nat) : State := State.loseN i ev ((m - s.cyc + 7) / 8) s

/-- Whether the class-D run in a slot has reached its budget (R96). -/
def State.overBudget (s : State) (i : Nat) : Bool :=
  let x := s.slot i
  match x.ctx with
  | none => false
  | some c =>
    let e := s.entry c
    !e.classG && decide (e.state = stRunning) && x.gate && !x.stopped && !x.first && decide (e.budget ≤ (s.img i iwRuncyc).toNat)

/-- The run in a slot ends at its budget (R96). -/
def State.expire (s : State) (i : Nat) : State :=
  let t := s.traceEnd i 4
  t.overrun i (((t.slot i).ctx).getD 0) 1

end Sys2Proof.Machine
end

