-- ==== Sys2Proof/Machine/Operands.lean ====
section
/-! DEFINITION. The registers an instruction names (R114 to R117), its immediates (R125), and the waits for long operations (R180). -/

namespace Sys2Proof.Machine

/-- CWP of the context in a slot (R120). -/
def State.cwp (s : State) (i : Nat) : Nat := bits (s.img i iwWctl) 0 3

/-- DEPTH of the context in a slot (R120). -/
def State.depth (s : State) (i : Nat) : Nat := bits (s.img i iwWctl) 3 3

/-- Trap mode (R117): at E and M, and at S with TW = 1. -/
def State.trapMode (s : State) (i : Nat) : Bool :=
  decide (2 ≤ s.level i) || (decide (s.level i = 1) && bitAt (s.img i iwWctl) 6)

/-- Image word `k` of ring row `r` (R67, R68). -/
def ringWord (r k : Nat) : Nat := 24 + 16 * (r % 8) + k

/-- The storage that register number `r` names (R114, R115, R117). -/
def State.place (s : State) (i : Nat) (r : BitVec 5) : Place :=
  let n := r.toNat
  if n = 0 then .zero
  else if n < 8 then .img (16 + n)
  else if n < 16 then .img (ringWord (s.cwp i + 7) n)
  else if n < 24 then
    if s.trapMode i then .win (s.level i) (n - 16) else .img (ringWord (s.cwp i) (n - 16))
  else .img (ringWord (s.cwp i) (n - 16))

/-- What a place holds. -/
def State.getPlace (s : State) (i : Nat) (p : Place) : Word :=
  match p with
  | .img w => s.img i w
  | .win lvl k => s.win i lvl k
  | .zero => 0
  | .dbData => s.rget Reg.DB_DATA
  | .step => 0

/-- GPR[r] of the context in a slot. -/
def State.reg (s : State) (i : Nat) (r : BitVec 5) : Word := s.getPlace i (s.place i r)

/-- GPR[r] := v; a write to c0 is discarded (R115). -/
def State.setReg (s : State) (i : Nat) (r : BitVec 5) (v : Word) : State := s.putPlace i (s.place i r) v

/-- sext(IMM, 36) of an I-format instruction. -/
def immS (f : IFields) : Word := f.imm.signExtend 36

/-- zext(IMM, 36) of an I-format instruction. -/
def immZ (f : IFields) : Word := f.imm.setWidth 36

/-! ## Encodings (R124) -/

/-- The word of an R-format instruction (R124, R130). -/
def encR (op fn : Nat) (f : RFields) : Word :=
  BitVec.ofNat 36 (op * 2 ^ 30 + f.rd.toNat * 2 ^ 25 + f.ra.toNat * 2 ^ 20 + f.rb.toNat * 2 ^ 15 + fn * 2 ^ 6 + f.x.toNat)

/-- The word of an I-format instruction (R124, R130). -/
def encI (op : Nat) (f : IFields) : Word :=
  BitVec.ofNat 36 (op * 2 ^ 30 + f.rd.toNat * 2 ^ 25 + f.ra.toNat * 2 ^ 20 + f.imm.toNat)

/-- The word of a B-format instruction (R124, R130). -/
def encB (op : Nat) (f : BFields) : Word :=
  BitVec.ofNat 36 (op * 2 ^ 30 + f.ra.toNat * 2 ^ 25 + f.rb.toNat * 2 ^ 20 + b2n f.annul * 2 ^ 19 + b2n f.hint * 2 ^ 18 + f.disp.toNat)

/-- The word of a J-format instruction (R124, R130). -/
def encJ (op : Nat) (f : JFields) : Word := BitVec.ofNat 36 (op * 2 ^ 30 + f.rd.toNat * 2 ^ 25 + f.disp.toNat)

/-- The word of an H-format instruction. -/
def encH (op : Nat) (f : HFields) : Word := BitVec.ofNat 36 (op * 2 ^ 30 + f.rd.toNat * 2 ^ 25 + f.rsv.toNat * 2 ^ 18 + f.imm.toNat)

/-! ## Long operations (R133, R179, R180) -/

/-- Whether an operation in flight writes one of some places; c0 is no destination, and RSAT stands for SPSTAT. -/
def LongOp.hits (o : LongOp) (ps : List Place) : Bool :=
  (o.writes.any fun (p, _) => decide (p ≠ Place.zero) && ps.contains p) || (o.rsat && ps.contains (.img 165))

/-- The last cycle in which an operation in flight that writes one of some places completes, 0 where none does (R180). -/
def dueOf (ps : List Place) (l : List LongOp) : Nat := ((l.filter fun o => o.hits ps).map (·.due)).foldl Nat.max 0

/-- The last cycle in which any operation in flight completes. -/
def dueAll (l : List LongOp) : Nat := (l.map (·.due)).foldl Nat.max 0

/-- Time passes until the operations in flight that write one of some places have completed. -/
def State.await (s : State) (i : Nat) (ps : List Place) : State := s.pass (dueOf ps (s.slot i).long - s.cyc)

/-- Registers of a context as places. -/
def State.places (s : State) (i : Nat) (rs : List (BitVec 5)) : List Place := rs.map (s.place i)

/-- A long operation is issued, and completes its latency later (R179). -/
def State.issueLong (s : State) (i latency : Nat) (o : LongOp) : State :=
  let x := s.slot i
  s.setSlot i { x with long := x.long ++ [{ o with due := s.cyc + latency }] }

/-- LONG_OPERATION_COMPLETE (R179): the cycle of the operation in flight that completes first has come, and it writes its destinations. -/
def runLongOperationComplete (slot : Fin 384) (s : State) : State :=
  let l := (s.slot slot.val).long
  if l = [] then s else s.pass ((l.map (·.due)).foldl Nat.min (dueAll l) - s.cyc)

end Sys2Proof.Machine
end

