-- ==== Sys2Proof/Machine/Flags.lean ====
section
/-! DEFINITION. Status words: STATUS and its fields (R121), SPCTL and SPSTAT with the range rules of R164 and R166. No
instruction of the integer groups sets a flag. -/

namespace Sys2Proof.Machine

/-! ## STATUS (R121) -/

/-- STATUS as it reads: WORLD and PART come from CTXID. -/
def State.status (s : State) (i : Nat) : Word :=
  let id := s.img i iwCtxid
  setBits (setBits (s.img i iwStatus) 2 1 (bits id 29 1)) 3 4 (bits id 24 4)

/-- A field of STATUS replaced. -/
def State.setStatus (s : State) (i lo n v : Nat) : State := s.setImg i iwStatus (setBits (s.img i iwStatus) lo n v)

def State.sbusy (s : State) (i : Nat) : Bool := bitAt (s.img i iwStatus) 7
def State.ie (s : State) (i : Nat) : Bool := bitAt (s.img i iwStatus) 9
def State.pb (s : State) (i : Nat) : Bool := bitAt (s.img i iwStatus) 10
def State.prog (s : State) (i : Nat) : Nat := bits (s.img i iwStatus) 11 13
def State.setProg (s : State) (i n : Nat) : State := s.setStatus i 11 13 n

/-- WCTL with TW replaced (R120). -/
def State.setTw (s : State) (i : Nat) (b : Bool) : State := s.setImg i iwWctl (setBits (s.img i iwWctl) 6 1 (b2n b))

/-! ## Accumulators (R166, R167) -/

def iwAcc (a : Nat) : Nat := 160 + 2 * a
def iwSpctl : Nat := 164
def iwSpstat : Nat := 165

/-- A 72-bit pair of words, the high one first. -/
def pairBits (hi lo : Word) : BitVec 72 := hi ++ lo

/-- ACCa of the context in a slot. -/
def State.acc (s : State) (i a : Nat) : BitVec 72 := pairBits (s.img i (iwAcc a)) (s.img i (iwAcc a + 1))

/-- The places of ACCa. -/
def accPlaces (a : Nat) : List Place := [.img (iwAcc a), .img (iwAcc a + 1)]

/-- The writes that put a value into ACCa. -/
def accWrites (a : Nat) (v : BitVec 72) : List (Place × Word) :=
  [(.img (iwAcc a), v.extractLsb' 36 36), (.img (iwAcc a + 1), v.extractLsb' 0 36)]

/-- Whether a result lies outside the range of an accumulator (R166). -/
def accOver (v : Int) : Bool := decide (v < -(2 ^ 71) ∨ 2 ^ 71 - 1 < v)

/-- A result narrowed to an accumulator: clamped where SATa is 1, else wrapped (R166). -/
def accNarrow (sat : Bool) (v : Int) : BitVec 72 :=
  if sat && accOver v then (if v < 0 then BitVec.intMin 72 else BitVec.intMax 72) else BitVec.ofInt 72 v

/-- A result for ACCa as a long operation: its words and OVa (R166). -/
def State.accResult (s : State) (i a : Nat) (v : Int) : LongOp :=
  { writes := accWrites a (accNarrow (bitAt (s.img i iwSpctl) a) v)
    stat := if accOver v then BitVec.ofNat 36 (2 ^ a) else 0 }

/-- Whether sat36 clamps (R164). -/
def rsat (v : Int) : Bool := decide (v < -(2 ^ 35) ∨ 2 ^ 35 - 1 < v)

/-- SPSTAT, whose RSAT is a destination of the operations that round (R179). -/
def rsatPlace : Place := .img iwSpstat

/-- SPSTAT's RSAT for a rounded result. -/
def rsatStat (v : Int) : Word := if rsat v then 4 else 0

end Sys2Proof.Machine
end

