-- ==== Sys2Proof/Machine/Thread.lean ====
section
/-! DEFINITION. A thread at work: the store buffer (R191 to R193), loads and stores (R135), fetch (R187 to R190), traps (R209 to R225),
boundaries (R233), prediction (R195 to R199), and the issue of one instruction (R124 to R127, R162, R183). -/

namespace Sys2Proof.Machine

/-- The level of a number. -/
def levelOf (n : Nat) : Level := if n = 0 then .u else if n = 1 then .s else if n = 2 then .e else .m

/-- The context in a slot as it reaches a device. -/
def State.requester (s : State) (i : Nat) : Requester :=
  { level := levelOf (s.level i), secure := s.secureCtx i, part := Fin.ofNat 16 (s.slotPart i),
    ctx := Fin.ofNat 4096 ((s.slot i).ctx.getD 0), left := false }

/-! ## Reads -/

/-- A word of the island's SRAM or ROM (R422, R424). -/
def State.sramRead (s : State) (pw : PWord) : MemRes Word :=
  let r := readSealed (Tab.get 0 s.mem.sram pw)
  match r.word with
  | some v => .ok v
  | none => .err r.errSub

/-- Whether a line that a core's L1 lacks stands in a locked way of its L2 (R185). -/
def State.inLockedL2 (s : State) (core line : Nat) : Bool :=
  decide (s.l2RegionState (core / 4) line = rgLocked) && (s.agentSt (core / 4) line).holds

/-- Whether a core's L1 corrects a word, or refills its line, as it delivers it (0o35). -/
def State.mended (s : State) (core : Nat) (fetch : Bool) (pw : PWord) : Bool :=
  let w := s.l1Way core fetch (pw / 16)
  match readSealed (w.words.getD (pw % 16) 0) with
  | .corrected _ _ => decide (w.st ≠ .i)
  | .bad _ => decide (w.st = .s)
  | _ => false

/-- A word of DRAM as a slot reads it through its L1 (R185, R203, R268). -/
def State.cachedRead (s : State) (i pw : Nat) (fetch : Bool) : State × MemRes Word :=
  let core := i / 8
  let line := pw / 16
  let s1 := s.perf i (if fetch then 0o14 else 0o16)
  let s2 := if s.inL1 core fetch line then s1
    else (s1.perf i (if fetch then 0o15 else 0o17)).late i fetch (if s.inLockedL2 core line then some 23 else none)
  let s3 := if s.mended core fetch pw then s2.perf i 0o35 else s2
  s3.coreRead core fetch pw

/-- The aligned word at a physical address as a slot reads it under a leaf's ATTR; through a device leaf nothing is cached (R250). -/
def State.readPhys (s : State) (i pa attr : Nat) (fetch : Bool) : State × MemRes Word :=
  let req := s.requester i
  if isSram pa || isRom pa then
    if s.islandBars req.level req.secure req.part.val pa then (s, .err 3) else (s.late i fetch none, s.sramRead (pa / 4))
  else if isDevice pa then
    match (s.late i fetch none).deviceLoad req pa with
    | (t, some v) => (t, .ok v)
    | (t, none) => (t, .err 3)
  else if 2 ≤ attr then (s.late i fetch none).homeRead (pa / 4)
  else s.cachedRead i (pa / 4) fetch

/-! ## The store buffer (R191 to R193) -/

/-- The words of an entry in its line: place, enabled nonets, value. -/
def StoreEntry.words (e : StoreEntry) : List (Nat × BitVec 4 × Word) :=
  (List.range 4).map fun k => (e.group % 4 * 4 + k, e.en.extractLsb' (4 * k) 4, e.data.extractLsb' (36 * k) 36)

/-- Whether an entry goes to a device region and not to memory. -/
def StoreEntry.device (e : StoreEntry) : Bool := isDevice (16 * e.group) && !isMemory (16 * e.group)

/-- A word of SRAM after a store of some of its nonets; whether it met poison or loss. -/
def State.sramWord (st : State × Bool) (w : PWord × BitVec 4 × Word) : State × Bool :=
  let s := st.1
  let put (v : Word) : State := { s with mem := { s.mem with sram := Tab.set 0 s.mem.sram w.1 (sealWord v) } }
  if w.2.1 = 0 then st
  else if w.2.1 = 15 then (put w.2.2, st.2)
  else match (readSealed (Tab.get 0 s.mem.sram w.1)).word with
    | some old => (put (mergeNonets w.2.1 w.2.2 old), st.2)
    | none => (s, true)

/-- Stores of a drained entry to the SRAM; the ROM takes none (R422). -/
def State.sramStore (s : State) (e : StoreEntry) : State :=
  if isRom (16 * e.group) || s.islandBars e.req.level e.req.secure e.req.part.val (16 * e.group) then s.storeError e.req e.va 0
  else
    let r := (e.words.map fun (k, en, v) => (16 * e.group / 64 * 16 + k, en, v)).foldl State.sramWord (s, false)
    if r.2 then r.1.storeError e.req e.va 1 else r.1

/-- The device words of an entry reach their targets in order. -/
def State.deviceWords (e : StoreEntry) (s : State) : State :=
  (List.range 4).foldl (fun t k =>
    if e.en.extractLsb' (4 * k) 4 = 0 then t
    else t.deviceStore e.req e.va (16 * e.group + 4 * k) (e.data.extractLsb' (36 * k) 36)) s

/-- An entry's words reach memory: by the core's L1D, or at their home through a device leaf (R192, R250). -/
def State.memoryWords (s : State) (i : Nat) (e : StoreEntry) : State × MemRes Unit :=
  if 2 ≤ e.attr then s.homeWrite (e.group / 4) e.words else s.coreWrite (i / 8) (e.group / 4) (decide (e.attr = 1)) e.words

/-- The oldest entry of a slot drains (R192); false where memory does not answer yet. -/
def State.drainOne (s : State) (i : Nat) : State × Bool :=
  match (s.slot i).sb with
  | [] => (s, true)
  | e :: rest =>
    let s0 := (s.setSlot i { s.slot i with sb := rest }).perf i 0o20
    let pa := 16 * e.group
    if e.device then (s0.deviceWords e, true)
    else if isDevice pa then (s0.sramStore e, true)
    else if s.pageBars (some e.req.ctx.val) pa then (s0.storeError e.req e.va 5, true)
    else match s0.memoryWords i e with
      | (t, .ok _) => (t, true)
      | (t, .err sub) => (t.storeError e.req e.va sub, true)
      | (_, .wait) => (s, false)

/-- The slot's next free port cycle has come. -/
def State.toPort (s : State) (i : Nat) : State := s.toCycle i (s.slot i).portAt

/-- Entries of a slot drain while a condition on the buffer holds, one for each port cycle; the issue cycles that go by are lost to hold
`ev` (R183, R193). -/
def State.drainWhile (i ev : Nat) (p : List StoreEntry → Bool) : Nat → State → State × Bool
  | 0, s => (s, true)
  | n + 1, s =>
    if !p (s.slot i).sb then (s, true)
    else
      let t := if (s.slot i).portAt = s.cyc + 1 then s.lose i ev else s
      match t.drainOne i with
      | (u, true) => State.drainWhile i ev p n ((u.usePort i).lose i ev)
      | (u, false) => (u, false)

/-- The entries that a condition asks for drain before an instruction or a trap goes on; false where one waits for memory. -/
def State.drainHold (s : State) (i ev : Nat) (p : List StoreEntry → Bool) : State × Bool :=
  State.drainWhile i ev p (s.slot i).sb.length s

/-- The thread's buffered stores drain. -/
def State.drainAll (s : State) (i ev : Nat) : State × Bool := s.drainHold i ev fun l => !l.isEmpty

/-- The nonet that the youngest entry of a slot's own stores holds at a physical address (R193, R228). -/
def State.buffered (s : State) (i pa : Nat) : Option (BitVec 9) :=
  ((s.slot i).sb.reverse.find? fun e =>
    !e.device && !e.req.left && decide (e.group = pa / 16) && e.en.getLsbD (pa % 16)).map fun e =>
      e.data.extractLsb' (9 * (pa % 16)) 9

/-- Whether an entry of the slot's own stores holds one of `n` nonets. -/
def StoreEntry.overlaps (pa n : Nat) (e : StoreEntry) : Bool :=
  !e.req.left && decide (e.group = pa / 16) && (List.range n).any fun k => e.en.getLsbD (pa % 16 + k)

/-- Nonets as a number, the first the least significant. -/
def nonetsNat : List (BitVec 9) → Nat
  | [] => 0
  | x :: xs => x.toNat + 512 * nonetsNat xs

/-! ## The commit buffer (R99 to R101) -/

/-- The target of a commit buffer that a physical address names for a class-D context, as word 0 of an entry (R99, R101, R251). -/
def State.captureTarget (s : State) (c pa : Nat) : Option Word :=
  if (s.entry c).classG then none
  else match outputAt pa with
    | some off =>
      if !isTarget off || !s.boundTo off c then none
      else if off < 8 then some (BitVec.ofNat 36 (2 * 2 ^ 33 + off))
      else if off < 8192 then some (BitVec.ofNat 36 (4 * 2 ^ 33 + (off - 4096)))
      else some (BitVec.ofNat 36 (3 * 2 ^ 33 + (off - 262144)))
    | none =>
      let page := s.regs.find? fun (a, w) =>
        decide (Reg.SC_OPAGE_F 0 ≤ a ∧ a < Reg.SC_OPAGE_F 256 ∧ (a - Reg.SC_OPAGE_F 0) % 2 = 0) && bitAt w 26 &&
          decide (bits w 0 26 = pa / 4096) && decide (s.fget (Reg.SC_OPAGE_C_CTX ((a - Reg.SC_OPAGE_F 0) / 2)) = c)
      page.map fun (a, _) => BitVec.ofNat 36 (2 ^ 33 + (a - Reg.SC_OPAGE_F 0) / 2 * 2 ^ 10 + pa / 4 % 1024)

/-- The target a slot's context captures at a physical address. -/
def State.targetOf (s : State) (i pa : Nat) : Option Word :=
  match (s.slot i).ctx with
  | some c => s.captureTarget c pa
  | none => none

/-- The value that a slot's context has captured for a target (R100). -/
def State.captured (s : State) (i pa : Nat) : Option Word :=
  match (s.slot i).ctx, s.targetOf i pa with
  | some c, some t => ((s.commitOf c).find? fun e => decide (e.target = t)).map CommitEntry.out
  | _, _ => none

/-- A capture: in place, or a new entry; none where it would be the 33rd (R100, R101). -/
def State.capture (s : State) (c : Nat) (target v : Word) : Option State :=
  let l := s.commitOf c
  if l.any fun e => decide (e.target = target) then
    some (s.setCommit c (l.map fun e => if e.target = target then { e with value := v, err := 0 } else e))
  else if l.length < 32 then some (s.setCommit c (l ++ [{ target := target, value := v }]))
  else none

/-! ## Loads -/

/-- `n` nonets of a word from a nonet offset. -/
def partWord (w : Word) (off n : Nat) : Word := BitVec.ofNat 36 (bits w (9 * off) (9 * n))

/-- Sign extension of `n` nonets. -/
def extendPart (signed : Bool) (n : Nat) (v : Word) : Word :=
  if signed && n < 4 then (if bitAt v (9 * n - 1) then v ||| ~~~(BitVec.ofNat 36 (2 ^ (9 * n) - 1)) else v) else v

/-- After a hold that has taken issue cycles, this one is the instruction's: its port cycle is used, and a class-D run that has reached
its budget meanwhile has ended; false where it has. -/
def State.afterHold (s : State) (i : Nat) : State × Bool :=
  if s.overBudget i then (s.expire i, false) else ((s.judge i).usePort i, true)

/-- A word, or its first nonets from an offset, as a load gets it from below the store buffer. -/
def State.loadPhys (s : State) (i pa attr n : Nat) (va : Word) : State × Out Word :=
  match s.readPhys i (pa / 4 * 4) attr false with
  | (u, .ok v) => (u, .ok (partWord v (pa % 4) n))
  | (u, .err sub) => (u, .trap ⟨0o17, sub, va⟩)
  | (u, .wait) => (u, .wait)

/-- The data of `n` nonets at a translated address: captured, forwarded, or read, after the drain of what overlaps it in part, or, for a
device leaf, of every earlier store (R100, R193, R250). -/
def State.loadData (s : State) (i pa attr n : Nat) (va : Word) : State × Out Word :=
  match s.captured i pa with
  | some v => (s, .ok (partWord v (pa % 4) n))
  | none =>
    let bs := (List.range n).map fun k => s.buffered i (pa + k)
    if attr < 2 && bs.all Option.isSome then
      (s.perf i 0o21, .ok (BitVec.ofNat 36 (nonetsNat (bs.map fun b => b.getD 0))))
    else
      let hold : List StoreEntry → Bool := if attr < 2 then fun l => l.any (StoreEntry.overlaps pa n) else fun l => !l.isEmpty
      if !hold (s.slot i).sb then s.loadPhys i pa attr n va
      else match (if attr < 2 then (s.unjudge i).drainHold i 0o11 hold else s.drainHold i 4 hold) with
        | (t, false) => (t, .wait)
        | (t, true) =>
          match t.afterHold i with
          | (u, true) => u.loadPhys i pa attr n va
          | (u, false) => (u, .wait)

/-- The outbound range of PCIe (R238). -/
def isOutbound (pa : Nat) : Bool := decide (paDramEnd ≤ pa ∧ pa < paOutEnd)

/-- A load whose data have not returned. -/
def State.waitLoad (s : State) (i : Nat) (l : LoadWait) : State := s.setSlot i { s.slot i with outLoad := some l }

/-- A word of the host that a step of an instruction of many accesses reads (R172, R496): the one that has come for it, else the read is
sent and the step waits for its completion. -/
def State.hostRead (s : State) (i pa : Nat) (va : Word) : State × Out Word :=
  let x := s.slot i
  match x.hostData[x.hostUsed]? with
  | some v => (s.setSlot i { x with hostUsed := x.hostUsed + 1 }, .ok v)
  | none =>
    match s.drainAll i 4 with
    | (u, false) => (u, .wait)
    | (u, true) =>
      match u.outLoadSend i (u.slotPart i) pa with
      | some v =>
        (v.waitLoad i { place := .step, va := va, pa := pa, size := 4, signed := false, adv := none, out := true }, .wait)
      | none => (u, .trap ⟨0o17, 3, va⟩)

/-- A load of a step, translated, checked and made (R135, R234). -/
def State.load (s : State) (i n : Nat) (asU : Bool) (va : Word) : State × Out Word :=
  match s.resolve i (s.who i asU) .load n va with
  | (t, .ok (pa, attr)) => if isOutbound pa then t.hostRead i pa va else t.loadData i pa attr n va
  | (t, .trap f) => (t, .trap f)
  | (t, .wait) => (t, .wait)

/-! ## Stores -/

/-- The outcome of a store: done, waiting for the buffer, trapped, or the run has ended for want of a commit entry (R101) or of budget. -/
inductive Stored where
  | ok
  | wait
  | trap (t : Trap)
  | ended
  deriving DecidableEq, Repr

/-- The enables and data of `n` nonets at a physical address in its group. -/
def groupPart (pa n : Nat) (v : Word) : BitVec 16 × BitVec 144 :=
  (BitVec.ofNat 16 ((2 ^ n - 1) * 2 ^ (pa % 16)), BitVec.ofNat 144 (v.toNat % 2 ^ (9 * n) * 2 ^ (9 * (pa % 16))))

/-- The nonet enables widened to bits. -/
def enableMask (en : BitVec 16) : BitVec 144 :=
  (List.range 16).foldl (fun m k => if en.getLsbD k then m ||| BitVec.ofNat 144 (511 * 2 ^ (9 * k)) else m) 0

/-- A store merged into an entry (R191). -/
def StoreEntry.merge (e : StoreEntry) (en : BitVec 16) (data : BitVec 144) : StoreEntry :=
  { e with en := e.en ||| en, data := (e.data &&& ~~~(enableMask en)) ||| data }

/-- A store asks for its line at MA (R192); nothing is asked for an address that is not cached. -/
def State.askLine (s : State) (i pa attr : Nat) : State :=
  if isDevice pa ∨ 2 ≤ attr then s else (s.obtain (i / 32) (pa / 64) true).1

/-- Whether a store merges into an entry: the same group of the same context, in memory and not through a device leaf (R191). -/
def StoreEntry.takes (e new : StoreEntry) : Bool :=
  decide (e.group = new.group) && !e.req.left && !new.device && decide (e.attr < 2 ∧ new.attr < 2)

/-- The entry that a store of `n` nonets makes. -/
def State.storeEntry (s : State) (i pa attr n : Nat) (va v : Word) : StoreEntry :=
  let g := groupPart pa n v
  { group := pa / 16, va := va, en := g.1, data := g.2, attr := attr, req := s.requester i,
    root := bits (s.rootOf i false) 0 32, waits := [], wpend := false }

/-- A store enters the buffer: into the youngest entry, or as a new one once there is room (R191); none where the run has ended. -/
def State.bufferStore (s : State) (i pa attr n : Nat) (va v : Word) : State × Stored :=
  let new := s.storeEntry i pa attr n va v
  let x := s.slot i
  let append (t : State) : State := (t.setSlot i { t.slot i with sb := (t.slot i).sb ++ [new] }).askLine i pa attr
  match x.sb.getLast? with
  | some e =>
    if e.takes new then
      let e1 := { e.merge new.en new.data with attr := Nat.max e.attr attr }
      ((s.setSlot i { x with sb := x.sb.dropLast ++ [e1] }).askLine i pa attr, .ok)
    else if x.sb.length < 4 then (append s, .ok)
    else match (s.unjudge i).drainHold i 0o10 fun l => decide (4 ≤ l.length) with
      | (t, false) => (t, .wait)
      | (t, true) =>
        match t.afterHold i with
        | (u, true) => (append u, .ok)
        | (u, false) => (u, .ended)
  | none => (append s, .ok)

/-- A store of `n` nonets at a translated address (R99, R135, R191); `ended` where the commit buffer is full. -/
def State.storeData (s : State) (i pa attr n : Nat) (va v : Word) : State × Stored :=
  match (s.slot i).ctx, s.targetOf i pa with
  | some c, some t =>
    if n ≠ 4 then (s, .trap ⟨0o4, 0, va⟩)
    else match s.capture c t v with
      | some u => (u.perf i 0o36, .ok)
      | none => ((s.traceEnd i 4).overrun i c 3, .ended)
  | _, _ => s.bufferStore i pa attr n va v

/-- A store translated, checked and made. -/
def State.store (s : State) (i n : Nat) (asU : Bool) (va v : Word) : State × Stored :=
  match s.resolve i (s.who i asU) .store n va with
  | (t, .ok (pa, attr)) => t.storeData i pa attr n va v
  | (t, .trap f) => (t, .trap f)
  | (t, .wait) => (t, .wait)

/-! ## Fetch (R187 to R190) -/

/-- The four words of a group, each checked as it comes (R190, R272); waits where memory does not answer. -/
def State.groupWords (i pa : Nat) : Nat → Nat → List FetchWord → State → State × Out (List FetchWord)
  | 0, _, ws, s => (s, .ok ws.reverse)
  | n + 1, k, ws, s =>
    let r := if isDevice pa then s.readPhys i (pa + 4 * k) 0 true
      else if k = 0 then s.cachedRead i (pa / 4) true else s.coreRead (i / 8) true (pa / 4 + k)
    match r with
    | (t, .ok v) => State.groupWords i pa n (k + 1) (.word v :: ws) t
    | (t, .err sub) => State.groupWords i pa n (k + 1) (.err (sub + 4) :: ws) t
    | (t, .wait) => (t, .wait)

/-- A group at a physical address is read, once the entries of the slot that overlap it have drained (R194). -/
def State.readGroup (s : State) (i ev pa : Nat) : State × Out (List FetchWord) :=
  match s.drainHold i ev fun l => l.any fun e => decide (e.group = pa / 16) with
  | (u, false) => (u, .wait)
  | (u, true) => State.groupWords i (pa / 16 * 16) 4 0 [] u

/-- A demand fetch of the group of the word at `va`: its faults are a fetch's (R188, R190, R211). It gives the words, and the issue cycles
that the slot waits for them (R185, R188). -/
def State.demandFetch (s : State) (i : Nat) (va : Word) : State × Out (Nat × List FetchWord) :=
  match s.translate i (s.who i) .fetch va with
  | (t, .trap f) => (t, .trap f)
  | (t, .wait) => (t, .wait)
  | (t, .ok (pa, attr)) =>
    match typeFault .fetch 4 pa attr va with
    | some f => (t, .trap f)
    | none =>
      let line := pa / 64
      let n := if !t.inL1 (i / 8) true line && t.inLockedL2 (i / 8) line then 3 else 1
      match t.readGroup i 5 pa with
      | (u, .ok ws) => (u, .ok (n, ws))
      | (u, .trap f) => (u, .trap f)
      | (u, .wait) => (u, .wait)

/-- The fetch buffer once the slot issues from group `g`: the group it left is discarded (R187). -/
def moveTo (g : Nat) (l : List FetchGroup) : List FetchGroup :=
  match l with
  | [] => []
  | x :: xs => if x.group = g then l else xs.filter fun y => decide (y.group = g)

/-- A group returns to the fetch buffer; where that is full it takes the place of the group the slot has left (R187). -/
def State.putGroup (s : State) (i g : Nat) (ws : List FetchWord) : State :=
  let x := s.slot i
  let old := x.fetch.filter fun y => decide (y.group ≠ g)
  s.setSlot i { x with fetch := (if old.length < 2 then old else old.drop 1) ++ [{ group := g, words := ws }] }

/-- The word at PC is good, or meets the data error of its fetch (R190, R211). -/
def FetchWord.toOut (pc : Word) : FetchWord → Out Unit
  | .word _ => .ok ()
  | .err sub => .trap ⟨0o17, sub, pc⟩

/-- The word at PC is in the fetch buffer, by a demand fetch where it was not, whose issue cycles are lost (R183, R187, R188). -/
def State.fetchPc (s : State) (i : Nat) : State × Out Unit :=
  let pc := s.img i iwPc
  let g := fetchGroup pc
  match (s.slot i).wordAt pc with
  | some w => (s.setSlot i { s.slot i with fetch := moveTo g (s.slot i).fetch }, w.toOut pc)
  | none =>
    let s0 := if (s.slot i).portAt = s.cyc + 1 then s.lose i 5 else s
    match s0.demandFetch i pc with
    | (t, .ok (n, ws)) =>
      let u := State.loseN i 5 n ((t.putGroup i g ws).usePort i)
      (u.setSlot i { u.slot i with fetch := moveTo g (u.slot i).fetch }, (ws.getD (pc.toNat % 16 / 4) (.err 0)).toOut pc)
    | (t, .trap f) => (t, .trap f)
    | (t, .wait) => (t.hold i 5, .wait)

/-- FETCH_RETURN (R187, R188): the group of a demand fetch of the word at `va` arrives; a fetch that faults brings none. -/
def runFetchReturn (slot : Fin 384) (va : Word) (s : State) : State :=
  let i := slot.val
  if (s.slot i).ctx.isNone || decide (fetchGroup va ≠ fetchGroup (s.img i iwPc)) ||
      ((s.slot i).wordAt (s.img i iwPc)).isSome then s
  else match s.demandFetch i (s.img i iwPc) with
    | (t, .ok (_, ws)) => t.putGroup i (fetchGroup va) ws
    | (t, _) => t

/-- FIRST_GROUP_FETCHED (R86, R93, R107): the first group of a staged context is in; the fetch of a class-G context that faults
leaves its trap to the first issue. -/
def runFirstGroupFetched (slot : Fin 384) (s : State) : State :=
  let i := slot.val
  match (s.slot i).ctx with
  | none => s
  | some c =>
    if (s.entry c).state ≠ stStaging then s
    else match s.demandFetch i (s.img i iwPc) with
      | (_, .wait) => s
      | (t, .ok (_, ws)) => (t.putGroup i (fetchGroup (s.img i iwPc)) ws).staged i
      | (t, .trap _) => t.staged i

/-! ## Traps (R209 to R225) -/

/-- A CAUSE word (R217). -/
def causeWord (t : Trap) (from_ : Nat) (dslot multi : Bool) : Word :=
  BitVec.ofNat 36 (t.code + t.sub * 2 ^ 6 + from_ * 2 ^ 10 + b2n dslot * 2 ^ 12 + b2n multi * 2 ^ 13)

/-- PC and NPC at a handler; the slot's groups are discarded (R187). -/
def State.vectorTo (s : State) (i : Nat) (v : Word) : State :=
  let s1 := (s.setImg i iwPc v).setImg i iwNpc (v + 4)
  s1.setSlot i { s1.slot i with fetch := [], dslot := false, retire := none }

/-- The handler's first group is fetched in the slot's first issue cycle that the trap has not used (R219). -/
def State.vectorFetch (s : State) (i : Nat) : State × Out Unit :=
  let x := s.slot i
  (s.toCycle i (Nat.max x.judged x.portAt)).fetchPc i

/-- Entry to S (R215). -/
def State.enterS (s : State) (i : Nat) (t : Trap) (multi : Bool) (pc npc : Word) : State :=
  let cause := causeWord t (s.level i) (s.slot i).dslot multi
  let s1 := ((((s.setImg i 5 pc).setImg i 6 npc).setImg i 7 (s.status i)).setImg i 8 cause).setImg i 9 t.faddr
  let st := setBits (setBits (setBits (setBits (s.img i iwStatus) 0 2 1) 7 1 1) 9 1 0) 11 13 0
  let s2 := ((s1.setImg i iwStatus st).setTw i true).loadWin i 1 (List.replicate 8 0)
  let s3 := s2.vectorTo i (s2.sVector i t.code)
  s3.trMake i 1 tpTrap 1 (s3.img i iwPc) [pc, cause]

/-- The save set of E (level 2) or M (level 3) written, LVL and PROG changed (R154, R220). -/
def State.saveTo (s : State) (i lvl : Nat) (t : Trap) (multi : Bool) (pc npc : Word) : State :=
  let cause := causeWord t (s.level i) (s.slot i).dslot multi
  let s1 := ((((s.setSaved i lvl 0 pc).setSaved i lvl 1 npc).setSaved i lvl 2 (s.status i)).setSaved i lvl 3 cause).setSaved i lvl 4 t.faddr
  s1.setImg i iwStatus (setBits (setBits (s.img i iwStatus) 0 2 lvl) 11 13 0)

/-- A fault in E or at M (R222, R223): no write-back, the slot is freed for the context that it is reserved for, the entry goes to
UNAVAIL, and the record names the save set of the level. -/
def State.faultAt (s : State) (i lvl code : Nat) : State :=
  match (s.slot i).ctx with
  | none => s
  | some c =>
    let p := (s.partOf c).getD 0
    let g := (s.entry c).classG
    let s1 := (s.traceEnd i 5).record tyContext code p c (s.saved i lvl 0) (s.contextCont i (s.saved i lvl 3) (s.saved i lvl 4))
    let s2 := if g then ((s1.dropTransfers i).vacateSlot i).stageReserved i else s1.abandon i c
    (s2.toUnavail c 4).raise ((if g then 32 else 16) + p)

/-- Escalation to E (R220, R221). -/
def State.escalate (s : State) (i : Nat) (t : Trap) (multi : Bool) (pc npc : Word) : State :=
  let p := s.slotPart i
  let w := b2n (s.secureCtx i)
  let s1 := s.saveTo i 2 t multi pc npc
  if s1.rget (Reg.CP_ETTB p w) = 0 then s1.faultAt i 2 t.code
  else
    let s2 := s1.loadWin i 2 [s1.rget (Reg.CP_ESP p w), s1.saved i 2 3, s1.saved i 2 4, 0, 0, 0, 0, 0]
    let s3 := s2.vectorTo i (s2.rget (Reg.CP_EVEC p w))
    match s3.vectorFetch i with
    | (u, .trap _) => u.faultAt i 2 t.code
    | (u, _) => u.trMake i 2 tpTrap 2 (u.img i iwPc) [pc, u.saved i 2 3]

/-- Entry to M (R154, R224, R425). -/
def State.enterM (s : State) (i : Nat) (t : Trap) (pc npc : Word) : State :=
  let s1 := s.saveTo i 3 t false pc npc
  let s2 := s1.loadWin i 3 [s1.rget Reg.RK_MSP + BitVec.ofNat 36 (256 * i), s1.saved i 3 3, s1.saved i 3 4, 0, 0, 0, 0, 0]
  let s3 := s2.vectorTo i (s2.rget Reg.RK_MVEC)
  s3.trMake i 3 tpTrap 3 (s3.img i iwPc) [pc, s3.saved i 3 3]

/-- A trap of a context at U or S is routed (R214). -/
def State.routeTrap (s : State) (i : Nat) (t : Trap) (multi : Bool) (pc npc : Word) : State :=
  let s1 := s.perf i 0o31
  if s1.level i = 0 ∨ ¬ s1.sbusy i then s1.enterS i t multi pc npc else s1.escalate i t multi pc npc

/-- A trap entry waits until the store buffer is empty (R218): none where memory does not answer yet, where the run's budget is reached
meanwhile, or where no context is left. -/
def State.emptied (s : State) (i : Nat) : State × Bool :=
  match s.drainAll i 4 with
  | (t, false) => (t, false)
  | (t, true) => if t.overBudget i then (t.expire i, false) else (t, (t.slot i).ctx.isSome)

/-- The asynchronous store error of a slot is taken (R218, R227). -/
def State.asyncTrap (s : State) (i : Nat) : State :=
  match (s.slot i).ase with
  | none => s
  | some a =>
    if 2 ≤ s.level i then
      (s.setSlot i { s.slot i with ase := none }).faultAt i (s.level i) 0o23
    else match s.emptied i with
      | (t, false) => t
      | (t, true) =>
        let b := ((t.slot i).ase).getD a
        let u := t.setSlot i { t.slot i with ase := none }
        u.routeTrap i ⟨0o23, b.sub, u.img i iwAseaddr⟩ b.multi (u.img i iwPc) (u.img i iwNpc)

/-- Entry to a trap once the store buffer is empty; a store error reported meanwhile is taken in its place (R218). -/
def State.afterDrain (s : State) (i : Nat) (k : State → State) : State :=
  match s.emptied i with
  | (t, false) => t
  | (t, true) => if (t.slot i).ase.isSome then t.asyncTrap i else k t

/-- A synchronous trap of the instruction at PC (R214, R216, R218, R223). -/
def State.syncTrap (s : State) (i : Nat) (t : Trap) : State :=
  if 2 ≤ s.level i then s.faultAt i (s.level i) t.code
  else s.afterDrain i fun u => u.routeTrap i t false (u.img i iwPc) (u.img i iwNpc)

/-- An illegal return (R156, R225): no save set changes. -/
def State.illegalReturn (s : State) (i : Nat) : State :=
  let l := s.level i
  let c := (s.slot i).ctx.getD 0
  let p := (s.partOf c).getD 0
  if l = 2 then s.faultAt i 2 0o22
  else s.afterDrain i fun u =>
    let pc := if l = 3 then u.saved i 3 0 else u.img i 5
    let cause := if l = 3 then u.saved i 3 3 else u.img i 8
    let faddr := if l = 3 then u.saved i 3 4 else u.img i 9
    let v := (u.record tyContext 0o22 p c pc (u.contextCont i cause faddr)).perf i 0o31
    if l = 3 then
      let w := v.loadWin i 3 [v.rget Reg.RK_MSP + BitVec.ofNat 36 (256 * i), v.saved i 3 3, v.saved i 3 4, 0, 0, 0, 0, 0]
      w.vectorTo i (w.rget Reg.RK_MVEC)
    else ((v.setStatus i 7 1 1).setTw i true).vectorTo i (v.sVector i 0o22)

/-! ## Boundaries (R230, R232, R233) -/

/-- Whether a class-G context in a slot takes boundary traps of codes 0o24 and 0o25 (R230, R232). -/
def State.interruptible (s : State) (i : Nat) : Bool :=
  decide (s.level i = 0) || (decide (s.level i = 1) && s.ie i && !s.sbusy i)

/-- The line that is delivered to the context in a slot next (R230). -/
def State.lineFor (s : State) (i : Nat) : Option Nat :=
  match (s.slot i).ctx with
  | none => none
  | some c =>
    match s.partOf c with
    | none => none
    | some p =>
      let e := s.entry c
      if !e.classG || decide (e.state ≠ stRunning) || !s.interruptible i ||
          (List.range 4).all (fun k => decide (bits (s.rget (Reg.CP_IPEND p k)) 0 16 = 0)) then none
      else s.firstLine p fun l => s.linePending p l && decide (s.lineTarget p l = c)

/-- The counter whose overflow level is delivered to the context in a slot (R232). -/
def State.counterFor (s : State) (i : Nat) : Option Nat :=
  match (s.slot i).ctx with
  | none => none
  | some c =>
    let ovf := s.pmr (i / 8) 8
    if ovf = 0 || !(s.entry c).classG || !s.interruptible i then none
    else (List.range 8).find? fun j => bitAt ovf j && bitAt (s.pmr (i / 8) j) 21 && bitAt (s.img i iwPerfctl) j

/-- A line interrupt is delivered: PEND clears (R230). -/
def State.deliverLine (s : State) (i l : Nat) : State :=
  s.afterDrain i fun u =>
    let p := (u.partOf ((u.slot i).ctx.getD 0)).getD 0
    let v := u.fset ⟨Reg.CP_IPEND p (l / 16), l % 16, 1⟩ 0
    (v.perf i 0o32).routeTrap i ⟨0o24, 0, BitVec.ofNat 36 l⟩ false (v.img i iwPc) (v.img i iwNpc)

/-- A counter-overflow trap is delivered (R232). -/
def State.deliverCounter (s : State) (i j : Nat) : State :=
  s.afterDrain i fun u => u.routeTrap i ⟨0o25, 0, BitVec.ofNat 36 j⟩ false (u.img i iwPc) (u.img i iwNpc)

/-- A displacement or a STOP takes place; not at E or M (R92, R107, R210). -/
def State.parks (s : State) (i : Nat) : Bool := (s.slot i).parkReq && decide (s.level i < 2)

/-- A boundary event that was a trap has used this issue cycle: its handler's first group is fetched in it (R219). -/
def State.bounded (s : State) (i : Nat) : State :=
  let x := s.slot i
  if x.ctx.isSome && x.gate && !x.stopped && decide (x.fetch = []) then
    match s.vectorFetch i with
    | (t, .ok _) => t
    | _ => s.judge i
  else s.judge i

/-- What takes effect at a boundary in place of the next instruction, if anything does (R212, R233). -/
def State.boundary (s : State) (i : Nat) : Option State :=
  if (s.slot i).ase.isSome then some ((s.asyncTrap i).bounded i)
  else if s.parks i then some ((s.traceEnd i 3).park i)
  else match s.lineFor i with
    | some l => some ((s.deliverLine i l).bounded i)
    | none =>
      match s.counterFor i with
      | some j => some ((s.deliverCounter i j).bounded i)
      | none => none

/-- Whether a slot may issue: it holds a context, its gate is open, and it waits neither for a load nor for a monitor call (R183). -/
def State.mayIssue (s : State) (i : Nat) : Bool :=
  (s.slot i).ctx.isSome && !s.gateHold i && (s.slot i).outLoad.isNone && !s.calling i

/-- The slot's next issue cycle that the data of its last access and what it has issued leave free has come (R17, R183); an instruction
that makes a data access needs the port as well (R184). -/
def State.toIssue (s : State) (i : Nat) (mem : Bool) : State :=
  let x := s.slot i
  s.toCycle i (Nat.max (Nat.max x.next x.judged) (if mem then x.portAt else 0))

/-- ASYNC_STORE_ERROR_TRAP (R227, R233). -/
def runAsyncStoreErrorTrap (slot : Fin 384) (s : State) : State :=
  let i := slot.val
  if s.mayIssue i && (s.slot i).ase.isSome then ((s.toIssue i false).asyncTrap i).bounded i else s

/-- DISPLACEMENT (R92, R233, R533): after a store error. -/
def runDisplacement (slot : Fin 384) (s : State) : State :=
  let i := slot.val
  if s.mayIssue i && (s.slot i).ase.isNone && s.parks i then ((s.toIssue i false).traceEnd i 3).park i else s

/-- INTERRUPT_DELIVERY (R230, R233): after a store error and a displacement. -/
def runInterruptDelivery (slot : Fin 384) (s : State) : State :=
  let i := slot.val
  if !s.mayIssue i || (s.slot i).ase.isSome || s.parks i then s
  else match s.lineFor i with
    | some l => ((s.toIssue i false).deliverLine i l).bounded i
    | none => s

/-- COUNTER_OVERFLOW_TRAP (R232, R233): after every other boundary event. -/
def runCounterOverflowTrap (slot : Fin 384) (s : State) : State :=
  let i := slot.val
  if !s.mayIssue i || (s.slot i).ase.isSome || s.parks i || (s.lineFor i).isSome then s
  else match s.counterFor i with
    | some j => ((s.toIssue i false).deliverCounter i j).bounded i
    | none => s

/-! ## Prediction (R195 to R199) -/

/-- Entries of a predictor table, and the outcomes of the history that index it (R198): table 0 is the base table. -/
def predSize (n : Nat) : Nat := if n = 0 then 2048 else 512
def predDepth (n : Nat) : Nat := if n = 0 then 0 else if n = 1 then 8 else if n = 2 then 24 else 64

/-- The index and tag of a branch in table `n` (R198). -/
def predKey (n : Nat) (pc : Word) (hist : BitVec 64) : Nat × Nat :=
  let h := Config.predHash n pc (BitVec.ofNat 64 (hist.toNat % 2 ^ predDepth n))
  (h.1 % predSize n, h.2)

/-- The entry of a predictor table that matches a branch; the base table has no tags. -/
def State.predEntry (s : State) (i n : Nat) (pc : Word) : Option PredEntry :=
  let x := s.slot i
  let h := predKey n pc x.hist
  (Tab.get [] s.core.pred (i / 8)).find? fun e =>
    decide (e.table = n ∧ e.index = h.1 ∧ (n = 0 ∨ e.tag = h.2) ∧ e.ctx = x.ctx.getD 0) && (e.secure == s.secureCtx i)

/-- The prediction of a branch with hint H: the matching entry of the longest history, else H (R197, R198). -/
def State.predict (s : State) (i : Nat) (classG : Bool) (pc : Word) (h : Bool) : Bool :=
  if !classG then h
  else match [3, 2, 1, 0].findSome? fun n => s.predEntry i n pc with
    | some e => e.taken
    | none => h

/-- A branch retires: its entries take its outcome, and a misprediction allocates one (R198). -/
def State.trainPred (s : State) (i : Nat) (pc : Word) (taken wrong : Bool) : State :=
  let x := s.slot i
  let c := i / 8
  let l := Tab.get [] s.core.pred c
  let mine := [3, 2, 1, 0].findSome? fun n => s.predEntry i n pc
  let l1 := match mine with
    | some e => l.map fun y => if y = e then { e with taken := taken } else y
    | none => l
  let n := match mine with
    | some e => Nat.min 3 (e.table + 1)
    | none => 0
  let h := predKey n pc x.hist
  let new : PredEntry := { table := n, index := h.1, tag := h.2, secure := s.secureCtx i, ctx := x.ctx.getD 0, taken := taken }
  let l2 := if wrong && (mine.isNone || decide (n ≠ (mine.map (·.table)).getD 0)) then
      new :: l1.filter (fun y => decide (¬ (y.table = n ∧ y.index = h.1)))
    else l1
  let s1 := { s with core := { s.core with pred := Tab.set [] s.core.pred c l2 } }
  s1.setSlot i { s1.slot i with hist := (x.hist <<< 1) ||| BitVec.ofNat 64 (b2n taken) }

/-- A redirect: the groups of the wrong path are discarded, those of the transfer and of its delay slot are not (R196). -/
def State.redirect (s : State) (i : Nat) : State :=
  let right (y : FetchGroup) : Bool :=
    decide (y.group = fetchGroup (s.img i iwPc) ∨ y.group = fetchGroup (s.img i iwNpc))
  let s1 := s.perf i 0o24
  let s2 := ((s1.slot i).fetch.filter fun y => !right y).foldl (fun t _ => t.perf i 0o25) s1
  s2.setSlot i { s2.slot i with fetch := (s2.slot i).fetch.filter right }

/-- What a compare-and-branch does to prediction and its counters (R195 to R199): with PB = 1 nothing is predicted, nor read or updated. -/
def State.branchSeen (s : State) (i : Nat) (pc : Word) (hint taken : Bool) : State :=
  let g := (s.entry ((s.slot i).ctx.getD 0)).classG
  let s1 := s.perf i 0o22
  let s2 := if taken then s1.perf i 0o23 else s1
  if s.pb i then s2
  else
    let guess := s.predict i g pc hint
    let s3 := if g then s2.trainPred i pc taken (guess != taken) else s2
    if guess = taken then s3 else s3.redirect i

/-- The return stack (R198): CALL and JREG with RD = n7 push, JREG with RD = c0 and RA = p7 pops. A jump whose target was not predicted
redirects (R196, R199); CALL names its target. -/
def State.jumpSeen (s : State) (i : Nat) (pc : Word) (rd ra : BitVec 5) (call : Bool) (target : Word) : State :=
  let x := s.slot i
  if !(s.entry (x.ctx.getD 0)).classG || s.pb i then (if call then s else s.redirect i)
  else if call || rd = 31 then
    let t := s.setSlot i { x with rstack := ((pc + 8) :: x.rstack).take 8 }
    if call then t else t.redirect i
  else if rd = 0 ∧ ra = 15 then
    let t := s.setSlot i { x with rstack := x.rstack.tail }
    if x.rstack.head? = some target then t else t.redirect i
  else s.redirect i

/-! ## Prefetch (R189, R190, R195) -/

/-- Whether a fetched word is YIELD, SWAPCTX or ERET (R189). -/
def FetchWord.endsPath : FetchWord → Bool
  | .word w => decide (bits w 30 6 = 0o40 ∧ 1 ≤ bits w 6 9 ∧ bits w 6 9 ≤ 3)
  | .err _ => false

/-- Where the predicted path goes after the word at `pc`, whose delay slot or successor is at `npc`: the address after `npc`, none where
it is not predicted; and the return stack (R189, R197, R198). -/
def State.pathAfter (s : State) (i : Nat) (pc npc : Word) (stack : List Word) : FetchWord → Option Word × List Word
  | .err _ => (some (npc + 4), stack)
  | .word w =>
    let op := bits w 30 6
    let g := (s.entry ((s.slot i).ctx.getD 0)).classG
    if 0o26 ≤ op ∧ op ≤ 0o33 then
      if s.pb i then (none, stack)
      else if s.predict i g pc (bitAt w 18) then (some (pc + 4 * (w.extractLsb' 0 18).signExtend 36), stack)
      else (some (npc + 4), stack)
    else if op = 0o34 then
      if s.pb i then (none, stack)
      else (some (pc + 4 * (w.extractLsb' 0 25).signExtend 36), if g then (pc + 8) :: stack else stack)
    else if op = 0o35 then
      if s.pb i || !g then (none, stack)
      else if bits w 25 5 = 31 then (none, (pc + 8) :: stack)
      else if bits w 25 5 = 0 ∧ bits w 20 5 = 15 then (stack.head?, stack.tail)
      else (none, stack)
    else (some (npc + 4), stack)

/-- The first address of the predicted path whose group the fetch buffer does not hold, none where R189 lets nothing be prefetched. -/
def State.pathFrom (s : State) (i : Nat) : Nat → Word → Option Word → List Word → Option Word
  | 0, _, _, _ => none
  | n + 1, pc, npc, stack =>
    match (s.slot i).fetch.find? fun y => decide (y.group = fetchGroup pc) with
    | none => some pc
    | some y =>
      if y.words.any FetchWord.endsPath then none
      else match npc with
        | none => none
        | some q =>
          let r := s.pathAfter i pc q stack (y.words.getD (pc.toNat % 16 / 4) (.err 0))
          State.pathFrom s i n q r.1 r.2

/-- The address that the slot prefetches next (R189). -/
def State.nextFetch (s : State) (i : Nat) : Option Word :=
  let x := s.slot i
  if x.ctx.isNone ∨ 2 ≤ x.fetch.length ∨ x.fetch = [] then none
  else s.pathFrom i 16 (s.img i iwPc) (some (s.img i iwNpc)) x.rstack

/-- The translation of a prefetch, where one is held and passes the checks (R190): it fills the first-level TLB (R195). -/
def State.mayPrefetch (s : State) (i : Nat) (va : Word) : Option (State × Nat) :=
  let w := s.who i
  let c := i / 8
  if ¬ bitAt w.root 35 then none
  else match (s.tlb c).find? (fun e => e.matches w va && !e.ue) with
    | none => none
    | some e =>
      let pa := e.pa va
      if (s.accessFault e w .fetch va pa).isSome || (typeFault .fetch 4 pa e.attr va).isSome then none
      else some ((if e.inI then s else s.perf i 0o27).touchTlb c true e, pa)

/-- The prefetch that is due is made in this port cycle, if one is (R184, R189); while a store overlaps its group, the oldest entry drains
instead (R194). It changes the fetch buffer, caches and first-level TLB alone (R195). -/
def State.prefetchNow (s : State) (i : Nat) : State :=
  match s.nextFetch i with
  | none => s
  | some va =>
    match s.mayPrefetch i va with
    | none => s
    | some (t, pa) =>
      if (t.slot i).sb.any fun e => decide (e.group = pa / 16) then (s.drainOne i).1.usePort i
      else match (t.usePort i).readGroup i 0 pa with
        | (u, .ok ws) => u.putGroup i (fetchGroup va) ws
        | (u, _) => u

/-- PREFETCH (R184, R189, R190, R195) of the group of `va`, where that is the next one on the predicted path. -/
def runPrefetch (slot : Fin 384) (va : Word) (s : State) : State :=
  let i := slot.val
  let t := s.toPort i
  match t.nextFetch i with
  | some a => if fetchGroup a = fetchGroup va && !(t.slot i).stopped then t.prefetchNow i else s
  | none => s

/-- STORE_DRAIN (R184, R192): the oldest entry of a slot drains in its next port cycle that no prefetch uses. -/
def runStoreDrain (slot : Fin 384) (s : State) : State :=
  let i := slot.val
  if (s.slot i).sb = [] then s
  else
    let t := (s.toPort i).prefetchNow i
    if (t.slot i).sb.length < (s.slot i).sb.length then t
    else match (t.toPort i).drainOne i with
      | (u, true) => u.usePort i
      | (u, false) => u

/-! ## Issue -/

/-- What an instruction's operation asks of the thread: the next instruction, a control transfer, a trap, a wait in which it
has not issued, or nothing more (it has moved PC itself, or the context no longer runs). -/
inductive Done where
  | next (s : State)
  | jump (s : State) (taken annul : Bool) (target : Word)
  | trap (s : State) (t : Trap)
  | wait (s : State)
  | left (s : State)

/-- The levels at which an instruction is allowed (R162), and the condition it meets at S. -/
structure Perm where
  u : Bool
  s : Bool
  e : Bool
  m : Bool
  cond : Bool
  deriving DecidableEq, Repr

def Perm.all : Perm := ⟨true, true, true, true, true⟩

/-- Whether an instruction is allowed at a level. -/
def Perm.at_ (p : Perm) (l : Nat) : Bool :=
  if l = 0 then p.u else if l = 1 then p.s && p.cond else if l = 2 then p.e else p.m

/-- Whether an instruction is allowed at some level above (R162). -/
def Perm.above (p : Perm) (l : Nat) : Bool :=
  (decide (l < 1) && p.s) || (decide (l < 2) && p.e) || (decide (l < 3) && p.m)

/-- An instruction as it is issued: its word, whether its reserved fields are as R124 asks, whether it may stand in a delay slot
(R127), where it is allowed; and what holds its issue (R180, R183, R184): the places whose long operations it waits for, whether it waits
for all of them, whether for an empty store buffer, whether it makes a data access as it issues, and whether it is YIELD (R151). -/
structure Insn where
  word : Word
  ok : Bool
  inSlot : Bool
  perm : Perm
  deps : List Place := []
  allOps : Bool := false
  drains : Bool := false
  mem : Bool := false
  yields : Bool := false
  deriving DecidableEq, Repr

/-- PC and NPC move to the next instruction (R126). -/
def State.advance (s : State) (i : Nat) : State :=
  let npc := s.img i iwNpc
  let s1 := (s.setImg i iwPc npc).setImg i iwNpc (npc + 4)
  s1.setSlot i { s1.slot i with dslot := false }

/-- PC and NPC after a control transfer (R126). -/
def State.transfer (s : State) (i : Nat) (taken annul : Bool) (target : Word) : State :=
  let npc := s.img i iwNpc
  if !taken && annul then
    let s1 := ((s.setImg i iwPc (npc + 4)).setImg i iwNpc (npc + 8)).perf i 0o3
    s1.setSlot i { s1.slot i with dslot := false }
  else
    let s1 := (s.setImg i iwPc npc).setImg i iwNpc (if taken then target else npc + 4)
    s1.setSlot i { s1.slot i with dslot := true }

/-- What the TR stage will report of the instruction that is in a slot (R528): its kind and target. -/
def State.setRetire (s : State) (i kind : Nat) (target : Word) : State :=
  let x := s.slot i
  s.setSlot i { x with retire := x.retire.map fun r => { r with kind := kind, target := target } }

/-- An access of the instruction in a slot, as trace sees it (R530). -/
def State.traced (s : State) (i : Nat) (a : TrAcc) : State :=
  let x := s.slot i
  s.setSlot i { x with retire := x.retire.map fun r => { r with accs := r.accs ++ [a] } }

/-- The instruction makes no packet. -/
def State.noRetire (s : State) (i : Nat) : State := s.setSlot i { s.slot i with retire := none }

/-- The code of a nonet count in a VALUE packet. -/
def sizeCode (n : Nat) : Nat := if n = 4 then 2 else n - 1

/-- The words that the host has returned for the step under way are used up. -/
def State.endStep (s : State) (i : Nat) : State := s.setSlot i { s.slot i with hostData := [], hostUsed := 0 }

/-- The end of an instruction that issued at level `lvl` in a world (R203). -/
def Done.finish (i lvl : Nat) (secure : Bool) (d : Done) : State :=
  match d with
  | .next t => ((t.perfAt i lvl secure 2).endStep i).advance i
  | .jump t taken annul target => ((t.perfAt i lvl secure 2).setRetire i (if taken then 1 else 2) target).transfer i taken annul target
  | .trap t f => (((t.perfAt i lvl secure 2).endStep i).noRetire i).syncTrap i f
  | .wait t => (t.noRetire i).setSlot i { t.slot i with retire := none, away := true }
  | .left t => (t.perfAt i lvl secure 2).endStep i

/-- An instruction issues in this cycle (R183, R184, R206): the first issue of a class-D run sets RUNCYC to 0 (R208). -/
def State.startIssue (s : State) (i : Nat) (mem : Bool) : State :=
  let x := s.slot i
  let l := s.level i
  let s1 := if x.first && !(s.entry (x.ctx.getD 0)).classG then s.setImg i iwRuncyc 0 else s
  s1.setSlot i { x with
    first := false, away := false, judged := s.cyc + 1, portAt := if mem then s.cyc + 1 else x.portAt, hostUsed := 0,
    lastPc := s.img i iwPc, lastLvl := l, retire := some { pc := s.img i iwPc, level := l, kind := 0, target := 0, accs := [] } }

/-- An instruction with its word fetched: the checks of R124, R127 and R162, then its operation (R234). -/
def State.perform (s : State) (i : Nat) (n : Insn) (op : State → Done) : State :=
  let l := s.level i
  let w := s.secureCtx i
  let s1 := s.startIssue i n.mem
  if !n.ok || (!n.inSlot && (s.slot i).dslot) then (Done.trap s1 ⟨0o1, 0, n.word⟩).finish i l w
  else if !n.perm.at_ l then (Done.trap s1 ⟨if n.perm.above l then 0o2 else 0o1, 0, n.word⟩).finish i l w
  else (op s1).finish i l w

/-- A debugger's STEP is complete once its slot has issued (R545). -/
def State.stepDone (s : State) (i : Nat) : State :=
  if s.tap.stepSlot = some i then
    ((s.fset Reg.DB_RES_STATUS 0).fset Reg.DB_RES_DONE 1).setTap { s.tap with stepSlot := none }
  else s

/-- Whether the run in a slot ends before an instruction issues (R96); YIELD still issues in the cycle that reaches the budget (R151). -/
def State.tooLate (s : State) (i : Nat) (yields : Bool) : Bool :=
  s.overBudget i &&
    !(yields && decide ((s.img i iwRuncyc).toNat ≤ (s.entry ((s.slot i).ctx.getD 0)).budget))

/-- The holds of an instruction whose word is in the fetch buffer, up to the drain (R180, R183); false where the drain waits for memory. -/
def State.holds (s : State) (i : Nat) (n : Insn) : State × Bool :=
  let l := (s.slot i).long
  let t := s.loseTo i 6 (if n.allOps then dueAll l else dueOf n.deps l)
  if n.drains then t.drainAll i 7 else (t, true)

/-- An instruction without a hold: a boundary event in its place, a fault of its fetch, or the instruction (R233, R234). A step that has
taken words of the host is past its boundary. -/
def State.issueNow (s : State) (i : Nat) (fault : Option Trap) (n : Insn) (op : State → Done) : State :=
  match (if (s.slot i).hostData = [] then s.boundary i else none) with
  | some t => t.stepDone i
  | none =>
    match fault with
    | some f => (((s.startIssue i false).noRetire i).syncTrap i f).stepDone i
    | none => (s.perform i n op).stepDone i

/-- One instruction of the thread in slot `i` is issued (R183, R233): nothing where the slot cannot issue, else in the first issue cycle
without a hold, unless the run's budget ends it before. -/
def State.issue (s : State) (i : Nat) (n : Insn) (op : State → Done) : State :=
  if !s.mayIssue i then s
  else
    let s0 := (s.toIssue i n.mem).flushRetire i
    if s0.tooLate i n.yields then s0.expire i
    else match s0.fetchPc i with
      | (t, .wait) => t
      | (t, .trap f) => if t.tooLate i n.yields then t.expire i else t.issueNow i (some f) n op
      | (t, .ok _) =>
        match t.holds i n with
        | (u, false) => u.hold i 7
        | (u, true) => if u.tooLate i n.yields then u.expire i else u.issueNow i none n op

/-! ## Instructions of many accesses (R148, R172, R174, R177, R235) -/

/-- The slot's next issue cycle in which the data of the last access hold it no longer. -/
def State.nextStep (s : State) (i : Nat) : State := s.loseTo i 4 (Nat.max ((s.slot i).next) (s.cyc + 1))

/-- A step uses its issue cycle and its port cycle. -/
def State.startStep (s : State) (i : Nat) : State :=
  s.setSlot i { s.slot i with away := false, judged := s.cyc + 1, portAt := s.cyc + 1 }

/-- The next access of an instruction of many; the run may end at its budget before (R178). -/
def State.step (s : State) (i : Nat) (k : State → Done) : Done :=
  let t := s.nextStep i
  if t.overBudget i then .wait (t.expire i) else k (t.startStep i)

/-- What happens at a boundary between two steps (R233, R235), else the next step. -/
def State.between (s : State) (i : Nat) (k : State → Done) : Done :=
  let t := s.nextStep i
  if t.overBudget i then .wait (t.expire i)
  else match (if (t.slot i).hostData = [] then (t.noRetire i).boundary i else none) with
    | some u => .left u
    | none => k (t.startStep i)

end Sys2Proof.Machine
end

