-- ==== Sys2Proof/Machine/Agen.lean ====
section
/-! DEFINITION. Address generators (R168, R169). -/

namespace Sys2Proof.Machine

def iwAgBase (k : Nat) : Nat := 152 + 2 * k
def iwAgCtl (k : Nat) : Nat := 153 + 2 * k

/-- CTL of descriptor `k`. -/
def State.agCtl (s : State) (i k : Nat) : Word := s.img i (iwAgCtl k)

/-- IDX, STEP and MODE of a CTL word (R168). -/
def agIdx (w : Word) : Nat := bits w 0 12
def agLenm1 (w : Word) : Nat := bits w 12 12
def agStep (w : Word) : Int := sint (bits w 24 9) 9
def agMode (w : Word) : Nat := bits w 33 2

/-- A generator fault (R169, R211): sub-cause 0 bad mode, 1 index, 2 length. -/
def agFault (k sub : Nat) : Trap := ⟨0o10, sub, BitVec.ofNat 36 k⟩

/-- The mode checks of agaddr: the modulus of the index, 4,096 in linear mode. -/
def agModulus (k : Nat) (w : Word) : Out Nat :=
  let l := agLenm1 w + 1
  if agMode w = 3 then .trap (agFault k 0)
  else if agMode w = 0 then .ok 4096
  else if l ≤ agIdx w then .trap (agFault k 1)
  else if agMode w = 2 ∧ 2 ^ Nat.log2 l ≠ l then .trap (agFault k 2)
  else .ok l

/-- The low `m` bits of a number in reverse order. -/
def revBits : Nat → Nat → Nat
  | 0, _ => 0
  | m + 1, e => (e % 2) * 2 ^ m + revBits m (e / 2)

/-- agaddr(k, D) (R169). -/
def State.agaddr (s : State) (i k : Nat) (d : Int) : Out Word :=
  let w := s.agCtl i k
  match agModulus k w with
  | .ok l =>
    let e := ((agIdx w + d) % (l : Int)).toNat
    let e1 := if agMode w = 2 then revBits (Nat.log2 l) e else e
    let a := s.img i (iwAgBase k) + BitVec.ofNat 36 (4 * e1)
    if a.toNat % 4 ≠ 0 then .trap ⟨0o3, 0, a⟩ else .ok a
  | .trap t => .trap t
  | .wait => .wait

/-- advance(k) (R169): the state, or the fault of its checks. -/
def State.agAdvance (s : State) (i k : Nat) : Out State :=
  let w := s.agCtl i k
  match agModulus k w with
  | .ok l => .ok (s.setImg i (iwAgCtl k) (setBits w 0 12 (((agIdx w + agStep w) % (l : Int)).toNat)))
  | .trap t => .trap t
  | .wait => .wait

/-- The descriptor advanced after an access that used it; its checks have passed. -/
def State.agMoved (s : State) (i : Nat) (adv : Option Nat) : State :=
  match adv with
  | none => s
  | some k =>
    match s.agAdvance i k with
    | .ok t => t
    | _ => s

end Sys2Proof.Machine
end

