-- ==== Sys2Proof/Machine/Integer.lean ====
section
/-! DEFINITION. The integer instructions (R131 to R134). -/

namespace Sys2Proof.Machine

/-- A word of 36 bits that is 1 or 0. -/
def boolWord (b : Bool) : Word := if b then 1 else 0

/-- An instruction that writes GPR[rd] from registers and PC: it waits for its operands and its destination (R180). -/
def State.alu (s : State) (i : Nat) (n : Insn) (rd : BitVec 5) (srcs : List (BitVec 5)) (v : State → Word) : State :=
  s.issue i { n with deps := s.places i (rd :: srcs) } fun u => .next (u.setReg i rd (v u))

/-- The word of an instruction allowed at every level, with its reserved fields as they must be, and the places whose long operations it
waits for. -/
def plain (w : Word) (ok : Bool) (deps : List Place := []) : Insn :=
  { word := w, ok := ok, inSlot := true, perm := Perm.all, deps := deps }

/-- An integer-group instruction on GPR[ra] and GPR[rb]; X is 0 (R131). -/
def State.int2 (s : State) (slot : Fin 384) (fn : Nat) (f : RFields) (op : Word → Word → Word) : State :=
  s.alu slot.val (plain (encR 0o1 fn f) (decide (f.x = 0))) f.rd [f.ra, f.rb] fun u =>
    op (u.reg slot.val f.ra) (u.reg slot.val f.rb)

/-- An integer-group instruction on GPR[ra] alone; RB and X are 0 (R131). -/
def State.int1 (s : State) (slot : Fin 384) (fn : Nat) (f : RFields) (op : Word → Word) : State :=
  s.alu slot.val (plain (encR 0o1 fn f) (decide (f.rb = 0 ∧ f.x = 0))) f.rd [f.ra] fun u => op (u.reg slot.val f.ra)

/-- A shift by X, below 36; RB is 0 (R131). -/
def State.shiftX (s : State) (slot : Fin 384) (fn : Nat) (f : RFields) (op : Word → Nat → Word) : State :=
  s.alu slot.val (plain (encR 0o1 fn f) (decide (f.rb = 0 ∧ f.x.toNat < 36))) f.rd [f.ra] fun u =>
    op (u.reg slot.val f.ra) f.x.toNat

/-- A left shift; 0 where the count is 36 or more. -/
def shl (a : Word) (n : Nat) : Word := if 36 ≤ n then 0 else a <<< n

/-- A right shift with zero fill; 0 where the count is 36 or more. -/
def shr (a : Word) (n : Nat) : Word := if 36 ≤ n then 0 else a >>> n

/-- A right shift with sign fill; copies of bit 35 where the count is 36 or more. -/
def sar (a : Word) (n : Nat) : Word := a.sshiftRight (Nat.min n 36)

/-- The number of leading zero bits of the low `n` bits (R131). -/
def leadZeros (a : Word) : Nat → Nat
  | 0 => 0
  | n + 1 => if bitAt a n then 0 else leadZeros a n + 1

def runAdd (slot : Fin 384) (f : RFields) (s : State) : State := s.int2 slot 0o1 f fun a b => a + b
def runSub (slot : Fin 384) (f : RFields) (s : State) : State := s.int2 slot 0o2 f fun a b => a - b
def runAnd (slot : Fin 384) (f : RFields) (s : State) : State := s.int2 slot 0o3 f fun a b => a &&& b
def runOr (slot : Fin 384) (f : RFields) (s : State) : State := s.int2 slot 0o4 f fun a b => a ||| b
def runXor (slot : Fin 384) (f : RFields) (s : State) : State := s.int2 slot 0o5 f fun a b => a ^^^ b
def runAndn (slot : Fin 384) (f : RFields) (s : State) : State := s.int2 slot 0o6 f fun a b => a &&& ~~~b
def runSlt (slot : Fin 384) (f : RFields) (s : State) : State := s.int2 slot 0o7 f fun a b => boolWord (a.slt b)
def runSltu (slot : Fin 384) (f : RFields) (s : State) : State := s.int2 slot 0o10 f fun a b => boolWord (a.ult b)
def runSll (slot : Fin 384) (f : RFields) (s : State) : State := s.int2 slot 0o11 f fun a b => shl a b.toNat
def runSrl (slot : Fin 384) (f : RFields) (s : State) : State := s.int2 slot 0o12 f fun a b => shr a b.toNat
def runSra (slot : Fin 384) (f : RFields) (s : State) : State := s.int2 slot 0o13 f fun a b => sar a b.toNat
def runSlli (slot : Fin 384) (f : RFields) (s : State) : State := s.shiftX slot 0o14 f shl
def runSrli (slot : Fin 384) (f : RFields) (s : State) : State := s.shiftX slot 0o15 f shr
def runSrai (slot : Fin 384) (f : RFields) (s : State) : State := s.shiftX slot 0o16 f sar
def runClz (slot : Fin 384) (f : RFields) (s : State) : State := s.int1 slot 0o17 f fun a => BitVec.ofNat 36 (leadZeros a 36)
def runSxh (slot : Fin 384) (f : RFields) (s : State) : State := s.int1 slot 0o20 f fun a => (a.setWidth 18).signExtend 36
def runSxn (slot : Fin 384) (f : RFields) (s : State) : State := s.int1 slot 0o21 f fun a => (a.setWidth 9).signExtend 36
def runMin (slot : Fin 384) (f : RFields) (s : State) : State := s.int2 slot 0o22 f fun a b => if b.slt a then b else a
def runMax (slot : Fin 384) (f : RFields) (s : State) : State := s.int2 slot 0o23 f fun a b => if a.slt b then b else a

/-! ## Immediates (R132) -/

/-- An I-format instruction on GPR[ra] and its immediate. -/
def State.intI (s : State) (slot : Fin 384) (op : Nat) (f : IFields) (g : Word → Word) : State :=
  s.alu slot.val (plain (encI op f) true) f.rd [f.ra] fun u => g (u.reg slot.val f.ra)

def runAddi (slot : Fin 384) (f : IFields) (s : State) : State := s.intI slot 0o2 f fun a => a + immS f
def runAndi (slot : Fin 384) (f : IFields) (s : State) : State := s.intI slot 0o3 f fun a => a &&& immZ f
def runOri (slot : Fin 384) (f : IFields) (s : State) : State := s.intI slot 0o4 f fun a => a ||| immZ f
def runXori (slot : Fin 384) (f : IFields) (s : State) : State := s.intI slot 0o5 f fun a => a ^^^ immZ f
def runSlti (slot : Fin 384) (f : IFields) (s : State) : State := s.intI slot 0o6 f fun a => boolWord (a.slt (immS f))
def runSltiu (slot : Fin 384) (f : IFields) (s : State) : State := s.intI slot 0o7 f fun a => boolWord (a.ult (immS f))

/-- SETH (R124, R132): the reserved field is 0. -/
def runSeth (slot : Fin 384) (f : HFields) (s : State) : State :=
  s.alu slot.val (plain (encH 0o10 f) (decide (f.rsv = 0))) f.rd [] fun _ => f.imm ++ (0 : BitVec 18)

/-- LEA (R132): RA names no source, and the format reserves none of its values. -/
def runLea (slot : Fin 384) (f : IFields) (s : State) : State :=
  s.alu slot.val (plain (encI 0o11 f) true) f.rd [] fun u => u.img slot.val iwPc + 4 * immS f

/-! ## The long integer group (R133, R134) -/

/-- A long operation that writes a place and no flag. -/
def longTo (p : Place) (v : Word) : LongOp := { writes := [(p, v)], stat := 0 }

/-- A long integer operation of a latency issues (R133). X is 0. -/
def State.long2 (s : State) (slot : Fin 384) (fn latency : Nat) (f : RFields) (op : Word → Word → Word) : State :=
  let i := slot.val
  s.issue i (plain (encR 0o42 fn f) (decide (f.x = 0)) (s.places i [f.rd, f.ra, f.rb])) fun u =>
    .next (u.issueLong i latency (longTo (u.place i f.rd) (op (u.reg i f.ra) (u.reg i f.rb))))

/-- Quotients and remainders (R134). -/
def divS (a b : Word) : Word := if b = 0 then BitVec.allOnes 36 else a.sdiv b
def divU (a b : Word) : Word := if b = 0 then BitVec.allOnes 36 else a.udiv b
def remS (a b : Word) : Word := if b = 0 then a else a.srem b
def remU (a b : Word) : Word := if b = 0 then a else a.umod b

def runMul (slot : Fin 384) (f : RFields) (s : State) : State := s.long2 slot 0o1 4 f fun a b => a * b
def runMulh (slot : Fin 384) (f : RFields) (s : State) : State :=
  s.long2 slot 0o2 4 f fun a b => BitVec.ofInt 36 (a.toInt * b.toInt / 2 ^ 36)
def runMulhu (slot : Fin 384) (f : RFields) (s : State) : State :=
  s.long2 slot 0o3 4 f fun a b => BitVec.ofNat 36 (a.toNat * b.toNat / 2 ^ 36)
def runDiv (slot : Fin 384) (f : RFields) (s : State) : State := s.long2 slot 0o4 38 f divS
def runDivu (slot : Fin 384) (f : RFields) (s : State) : State := s.long2 slot 0o5 38 f divU
def runRem (slot : Fin 384) (f : RFields) (s : State) : State := s.long2 slot 0o6 38 f remS
def runRemu (slot : Fin 384) (f : RFields) (s : State) : State := s.long2 slot 0o7 38 f remU

end Sys2Proof.Machine
end

