-- ==== Sys2Proof/Machine/Memory.lean ====
section
/-! DEFINITION. Loads, stores and atomics (R135 to R137), the completion of a load whose data come later (R182, R500). -/

namespace Sys2Proof.Machine

/-- The nonet count an access must be aligned to (R3). -/
def misaligned (n : Nat) (ea : Word) : Bool := decide (ea.toNat % n ≠ 0)

/-- The alignment fault (R135, R211). -/
def alignFault (ea : Word) : Trap := ⟨0o3, 0, ea⟩

/-- A load's data arrive: the destination is written, and the descriptor advances (R135, R170). -/
def State.loaded (s : State) (i : Nat) (p : Place) (n : Nat) (signed : Bool) (adv : Option Nat) (va v : Word) : State :=
  ((s.putPlace i p (extendPart signed n v)).agMoved i adv).traced i { write := false, va := va, value := v, size := sizeCode n }

/-- A load of `n` nonets at `ea` into a place: an outbound load is sent, one whose memory does not answer yet waits. -/
def State.loadInsn (s : State) (i : Nat) (p : Place) (n : Nat) (signed asU : Bool) (adv : Option Nat) (ea : Word) : Done :=
  if misaligned n ea then .trap s (alignFault ea)
  else match s.resolve i (s.who i asU) .load n ea with
    | (t, .trap f) => .trap t f
    | (t, .wait) => .wait t
    | (t, .ok (pa, attr)) =>
      let l : LoadWait := { place := p, va := ea, pa := pa, size := n, signed := signed, adv := adv, out := isOutbound pa }
      if isOutbound pa then
        match t.drainAll i 4 with
        | (u, false) => .wait u
        | (u, true) =>
          match u.outLoadSend i (u.slotPart i) pa with
          | some v => .left (v.waitLoad i l)
          | none => .trap u ⟨0o17, 3, ea⟩
      else match t.loadData i pa attr n ea with
        | (u, .ok v) => .next (u.loaded i p n signed adv ea v)
        | (u, .trap f) => .trap u f
        | (u, .wait) => if attr < 2 ∧ (u.slot i).ctx.isSome then .left (u.waitLoad i l) else .wait u

/-- A store of the low `n` nonets of `v` at `ea`. -/
def State.storeInsn (s : State) (i n : Nat) (asU : Bool) (adv : Option Nat) (ea v : Word) : Done :=
  if misaligned n ea then .trap s (alignFault ea)
  else match s.store i n asU ea v with
    | (t, .ok) =>
      .next ((t.agMoved i adv).traced i
        { write := true, va := ea, value := BitVec.ofNat 36 (bits v 0 (9 * n)), size := sizeCode n })
    | (t, .trap f) => .trap t f
    | (t, .wait) => .wait t
    | (t, .ended) => .left t

/-- An I-format load of `n` nonets (R135). -/
def State.loadI (s : State) (slot : Fin 384) (op n : Nat) (signed asU : Bool) (f : IFields) (perm : Perm := Perm.all) : State :=
  let i := slot.val
  s.issue i { word := encI op f, ok := true, inSlot := true, perm := perm, deps := s.places i [f.rd, f.ra], mem := true } fun u =>
    u.loadInsn i (u.place i f.rd) n signed asU none (u.reg i f.ra + immS f)

/-- An I-format store of `n` nonets (R135). -/
def State.storeI (s : State) (slot : Fin 384) (op n : Nat) (asU : Bool) (f : IFields) (perm : Perm := Perm.all) : State :=
  let i := slot.val
  s.issue i { word := encI op f, ok := true, inSlot := true, perm := perm, deps := s.places i [f.rd, f.ra], mem := true } fun u =>
    u.storeInsn i n asU none (u.reg i f.ra + immS f) (u.reg i f.rd)

/-- Where LDU and STU are allowed (R136). -/
def permU : Perm := ⟨false, true, true, false, true⟩

def runLdw (slot : Fin 384) (f : IFields) (s : State) : State := s.loadI slot 0o12 4 false false f
def runLdh (slot : Fin 384) (f : IFields) (s : State) : State := s.loadI slot 0o13 2 true false f
def runLdhu (slot : Fin 384) (f : IFields) (s : State) : State := s.loadI slot 0o14 2 false false f
def runLdn (slot : Fin 384) (f : IFields) (s : State) : State := s.loadI slot 0o15 1 true false f
def runLdnu (slot : Fin 384) (f : IFields) (s : State) : State := s.loadI slot 0o16 1 false false f
def runStw (slot : Fin 384) (f : IFields) (s : State) : State := s.storeI slot 0o17 4 false f
def runSth (slot : Fin 384) (f : IFields) (s : State) : State := s.storeI slot 0o20 2 false f
def runStn (slot : Fin 384) (f : IFields) (s : State) : State := s.storeI slot 0o21 1 false f
def runLdu (slot : Fin 384) (f : IFields) (s : State) : State := s.loadI slot 0o22 4 false true f permU
def runStu (slot : Fin 384) (f : IFields) (s : State) : State := s.storeI slot 0o23 4 true f permU

/-! ## Atomics (R137) -/

/-- A word of memory read and, where `new` asks for it, written as one access, by a slot whose buffer is empty: the old word. -/
def State.swapWord (s : State) (i pa attr : Nat) (va : Word) (new : Word → Option Word) : State × Out Word :=
  match s.readPhys i (pa / 4 * 4) attr false with
  | (t, .wait) => (t, .wait)
  | (t, .err sub) => (t, .trap ⟨0o17, sub, va⟩)
  | (t, .ok old) =>
    match new old with
    | none => (t, .ok old)
    | some v =>
      if isSram pa || isRom pa then
        if isRom pa then (t.storeError (t.requester i) va 0, .ok old)
        else ({ t with mem := { t.mem with sram := Tab.set 0 t.mem.sram (pa / 4) (sealWord v) } }, .ok old)
      else if t.pageBars (t.slot i).ctx pa then (t.storeError (t.requester i) va 5, .ok old)
      else
        let ws := [(pa / 4 % 16, 15, v)]
        match (if 2 ≤ attr then t.homeWrite (pa / 64) ws else t.coreWrite (i / 8) (pa / 64) (decide (attr = 1)) ws) with
        | (u, .ok _) => (u, .ok old)
        | (u, .err sub) => (u.storeError (u.requester i) va sub, .ok old)
        | (u, .wait) => (u, .wait)

/-- The trace of an atomic: its read, and its write where it makes one (R530). -/
def State.tracedSwap (s : State) (i : Nat) (va old : Word) (new : Option Word) : State :=
  let t := s.traced i { write := false, va := va, value := old, size := 2 }
  match new with
  | some v => t.traced i { write := true, va := va, value := v, size := 2 }
  | none => t

/-- An instruction of the atomic group, of two rotations (R137, R183); X is 0. `new` gives what is written, from the state before and the old word. -/
def State.atomic (s : State) (slot : Fin 384) (fn : Nat) (f : RFields) (new : State → Word → Option Word) : State :=
  let i := slot.val
  s.issue i { plain (encR 0o24 fn f) (decide (f.x = 0)) (s.places i [f.rd, f.ra, f.rb]) with drains := true, mem := true } fun u =>
    let ea := u.reg i f.ra
    if misaligned 4 ea then .trap u (alignFault ea)
    else match u.resolve i (u.who i) .atomic 4 ea with
      | (q, .trap x) => .trap q x
      | (q, .wait) => .wait q
      | (q, .ok (pa, attr)) =>
        if (q.targetOf i pa).isSome then .trap q ⟨0o5, 0, ea⟩
        else match (q.late i false (some 9)).swapWord i pa attr ea (new u) with
          | (r, .ok old) => .next ((r.setReg i f.rd old).tracedSwap i ea old (new u old))
          | (r, .trap x) => .trap r x
          | (r, .wait) => .wait r

def runSwap (slot : Fin 384) (f : RFields) (s : State) : State :=
  s.atomic slot 0o1 f fun u _ => some (u.reg slot.val f.rb)

def runCas (slot : Fin 384) (f : RFields) (s : State) : State :=
  s.atomic slot 0o2 f fun u old => if old = u.reg slot.val f.rd then some (u.reg slot.val f.rb) else none

def runFadd (slot : Fin 384) (f : RFields) (s : State) : State :=
  s.atomic slot 0o3 f fun u old => some (old + u.reg slot.val f.rb)

/-! ## The return of load data (R182, R185, R500) -/

/-- A debugger's command is complete (R545): STATUS, and CODE and SUB for STATUS 6. -/
def State.dbResult (s : State) (status code sub : Nat) : State :=
  let t := (((s.fset Reg.DB_RES_STATUS status).fset Reg.DB_RES_CODE code).fset Reg.DB_RES_SUB sub).fset Reg.DB_RES_DONE 1
  t.setTap { t.tap with cmd := none }

/-- A load that waited ends (R182): its data are delivered, and the instruction completes; a debugger's read is no instruction, and a word
for a step is kept until the instruction goes on (R172). -/
def State.finishLoad (s : State) (i : Nat) (l : LoadWait) (v : Word) : State :=
  if l.place = .dbData then
    ((s.setSlot i { s.slot i with outLoad := none }).putPlace i l.place v).dbResult stsOk 0 0
  else if l.place = .step then
    s.setSlot i { s.slot i with outLoad := none, next := s.cyc + 3, hostData := (s.slot i).hostData ++ [v] }
  else
  let s1 := s.setSlot i { s.slot i with
    outLoad := none
    next := s.cyc + 3
    retire := some { pc := s.img i iwPc, level := s.level i, kind := 0, target := 0, accs := [] } }
  (s1.loaded i l.place l.size l.signed l.adv l.va v).advance i

/-- A load that waited ends in a data error (R211, R545). -/
def State.failLoad (s : State) (i : Nat) (l : LoadWait) (sub : Nat) : State :=
  let t := s.setSlot i { s.slot i with outLoad := none, hostData := [], hostUsed := 0 }
  if l.place = .dbData then t.dbResult 6 0o17 sub else t.syncTrap i ⟨0o17, sub, l.va⟩

/-- LOAD_RETURN (R182): the data of a load that waits for memory; else the instruction in TR retires. -/
def runLoadReturn (slot : Fin 384) (s : State) : State :=
  let i := slot.val
  match (s.slot i).outLoad with
  | none => s.flushRetire i
  | some l =>
    if l.out then s
    else match s.loadData i l.pa 0 l.size l.va with
      | (t, .ok v) => t.finishLoad i l v
      | (t, .trap f) => t.failLoad i l f.sub
      | (t, .wait) => t

/-- The outbound load of a slot whose request is on the link. -/
def State.sentLoad (s : State) (i : Nat) : Option LoadWait :=
  match (s.slot i).outLoad with
  | some l => if l.out && !s.readQueued i then some l else none
  | none => none

/-- What an outbound load takes of a completion's octets (R496): bits 35:0, or 32 bits zero-extended. -/
def State.outValue (s : State) (pa : Nat) (data : BitVec 64) : Word :=
  match s.outWindow pa with
  | some (k, _) => if s.fbit (Reg.PX_OWA_VIEW k) then (data.setWidth 32).setWidth 36 else data.setWidth 36
  | none => data.setWidth 36

/-- A request on the link has ended: what waited for its tag goes out (R484, R495). -/
def State.pumpNext (s : State) : State := if s.pcie.queue = [] then s else s.linkIdle.pumpPx

/-- OUTBOUND_COMPLETION (R496, R500). -/
def runOutboundCompletion (slot : Fin 384) (status : Fin 3) (ep : Bool) (data : BitVec 64) (s : State) : State :=
  match s.sentLoad slot.val with
  | none => s
  | some l =>
    State.pumpNext (if status.val ≠ 0 then s.failLoad slot.val l 3
      else if ep then s.failLoad slot.val l 1
      else s.finishLoad slot.val l (s.outValue l.pa data))

/-- COMPLETION_TIMEOUT (R500). -/
def runCompletionTimeout (slot : Fin 384) (s : State) : State :=
  match s.sentLoad slot.val with
  | none => s
  | some l => ((s.pxEvent Reg.PX_EVT_CTO Reg.PX_EVT_CTO_MORE).failLoad slot.val l 3).pumpNext

end Sys2Proof.Machine
end

