-- ==== Sys2Proof/Machine/Control.lean ====
section
/-! DEFINITION. Branches, calls and jumps (R126 to R128, R138, R139). -/

namespace Sys2Proof.Machine

/-- A compare-and-branch (R138): the comparison is made on both registers. -/
def State.branch (s : State) (slot : Fin 384) (op : Nat) (f : BFields) (test : Word → Word → Bool) : State :=
  let i := slot.val
  s.issue i { word := encB op f, ok := true, inSlot := false, perm := Perm.all, deps := s.places i [f.ra, f.rb] } fun u =>
    let pc := u.img i iwPc
    let taken := test (u.reg i f.ra) (u.reg i f.rb)
    .jump (u.branchSeen i pc f.hint taken) taken f.annul (pc + 4 * f.disp.signExtend 36)

def runBeq (slot : Fin 384) (f : BFields) (s : State) : State := s.branch slot 0o26 f fun a b => a == b
def runBne (slot : Fin 384) (f : BFields) (s : State) : State := s.branch slot 0o27 f fun a b => a != b
def runBlt (slot : Fin 384) (f : BFields) (s : State) : State := s.branch slot 0o30 f fun a b => a.slt b
def runBge (slot : Fin 384) (f : BFields) (s : State) : State := s.branch slot 0o31 f fun a b => !a.slt b
def runBltu (slot : Fin 384) (f : BFields) (s : State) : State := s.branch slot 0o32 f fun a b => a.ult b
def runBgeu (slot : Fin 384) (f : BFields) (s : State) : State := s.branch slot 0o33 f fun a b => !a.ult b

/-- CALL (R139). -/
def runCall (slot : Fin 384) (f : JFields) (s : State) : State :=
  let i := slot.val
  s.issue i { word := encJ 0o34 f, ok := true, inSlot := false, perm := Perm.all, deps := s.places i [f.rd] } fun u =>
    let pc := u.img i iwPc
    let target := pc + 4 * f.disp.signExtend 36
    .jump ((u.setReg i f.rd (pc + 8)).jumpSeen i pc f.rd 0 true target) true false target

/-- JREG (R139): the sum is read before the link is written. -/
def runJreg (slot : Fin 384) (f : IFields) (s : State) : State :=
  let i := slot.val
  s.issue i { word := encI 0o35 f, ok := true, inSlot := false, perm := Perm.all, deps := s.places i [f.rd, f.ra] } fun u =>
    let pc := u.img i iwPc
    let target := u.reg i f.ra + immS f
    if misaligned 4 target then .trap u (alignFault target)
    else .jump ((u.setReg i f.rd (pc + 8)).jumpSeen i pc f.rd f.ra false target) true false target

end Sys2Proof.Machine
end

