-- ==== Sys2Proof/Machine/Block.lean ====
section
/-! DEFINITION. Windows, save areas and block moves (R116, R118, R140 to R149). -/

namespace Sys2Proof.Machine

/-! ## SAVE and RESTORE -/

/-- SAVE and RESTORE are allowed at U, and at S outside trap mode (R118, R162). -/
def State.permWindow (s : State) (i : Nat) : Perm := ⟨true, true, false, false, !s.trapMode i⟩

/-- WCTL with CWP and DEPTH replaced. -/
def State.setWindow (s : State) (i cwp depth : Nat) : State :=
  s.setImg i iwWctl (setBits (setBits (s.img i iwWctl) 0 3 cwp) 3 3 depth)

/-- SAVE and RESTORE: the operand is read in the old window, the result written in the new one (R116, R140). -/
def State.rotate (s : State) (slot : Fin 384) (op : Nat) (f : IFields) (limit sub : Nat) (cwp depth : Nat → Nat) : State :=
  let i := slot.val
  let new (u : State) : State := u.setWindow i (cwp (u.cwp i)) (depth (u.depth i))
  let deps := s.places i [f.ra] ++ (if s.depth i = limit then [] else (new s).places i [f.rd])
  s.issue i { word := encI op f, ok := true, inSlot := true, perm := s.permWindow i, deps := deps } fun u =>
    if u.depth i = limit then .trap u ⟨0o6, sub, 0⟩
    else .next ((new u).setReg i f.rd (u.reg i f.ra + immS f))

def runSave (slot : Fin 384) (f : IFields) (s : State) : State :=
  s.rotate slot 0o36 f 7 0 (fun c => (c + 1) % 8) (fun d => d + 1)

def runRestore (slot : Fin 384) (f : IFields) (s : State) : State :=
  s.rotate slot 0o41 f 0 1 (fun c => (c + 7) % 8) (fun d => d - 1)

/-! ## Accesses of instructions of many steps -/

/-- A load followed by the rest of the operation. -/
def Done.load (r : State × Out Word) (k : State → Word → Done) : Done :=
  match r with
  | (t, .ok v) => k t v
  | (t, .trap f) => .trap t f
  | (t, .wait) => .wait t

/-- A store followed by the rest of the operation. -/
def Done.store (r : State × Stored) (k : State → Done) : Done :=
  match r with
  | (t, .ok) => k t
  | (t, .trap f) => .trap t f
  | (t, .wait) => .wait t
  | (t, .ended) => .left t

/-- A step has ended with PROG at `n` (R123, R178). -/
def State.stepped (s : State) (i n : Nat) : State := (s.setProg i n).endStep i

/-- A step has ended with PROG at `n`, and the next one follows (R123, R178), but not in a core that is halted for debug (R545). -/
def State.afterStep (s : State) (i n : Nat) (k : State → Done) : Done :=
  let t := s.stepped i n
  if t.halted (i / 8) then .left t else k t

/-- `n` further rotations with no access, each after a boundary (R148). -/
def State.betweens (i : Nat) (k : State → Done) : Nat → State → Done
  | 0, s => k s
  | n + 1, s => s.between i fun t => State.betweens i k n t

/-- `n` words of a block instruction from word `j`, each moved by `step`; PROG follows, and a boundary lies between two aligned groups of
the area, whose word `j + 2` holds word `j` (R143, R148). -/
def State.blockWords (i : Nat) (step : State → Nat → (State → Done) → Done) (k : State → Done) (base : Nat) :
    Nat → Nat → State → Done
  | 0, _, s => k s
  | n + 1, j, s =>
    step s j fun u =>
      let rest (t : State) : Done := State.blockWords i step k base n (j + 1) t
      if (j + 3) % 4 = 0 then u.afterStep i (j + 1 - base) fun v => v.between i rest
      else rest (u.stepped i (j + 1 - base))

/-- The words of a block instruction that PROG leaves, then `tail` rotations and the final step; where PROG leaves none, the final step
is made in the issue cycle (R148). -/
def State.blockRun (i : Nat) (step : State → Nat → (State → Done) → Done) (tail : Nat) (last : State → Done) (base count : Nat) (s : State) :
    Done :=
  if count ≤ s.prog i then last s
  else State.blockWords i step (State.betweens i last tail) base (count - s.prog i) (base + s.prog i) s

/-- SLHEAD and its checks (R142). -/
def State.savingArea (s : State) (i : Nat) (k : Word → Done) : Done :=
  let a := s.img i iwSlhead
  if a = 0 then .trap s ⟨0o7, 0, 0⟩ else if a.toNat % 32 ≠ 0 then .trap s (alignFault a) else k a

/-- The bad-area fault (R145, R147, R211). -/
def badArea (a : Word) : Trap := ⟨0o7, 1, a⟩

/-- Allowed at U, and at S with SBUSY = 0 (R162). -/
def State.permBusy (s : State) (i : Nat) (u : Bool := true) : Perm := ⟨u, true, false, false, !s.sbusy i⟩

/-- A block instruction with RD, RA, RB and X zero (R149); it waits for the operations in flight. -/
def State.blockInsn (s : State) (slot : Fin 384) (fn : Nat) (f : RFields) (perm : Perm) (k : State → Done) : State :=
  let i := slot.val
  s.issue i
    { word := encR 0o37 fn f, ok := decide (f.rd = 0 ∧ f.ra = 0 ∧ f.rb = 0 ∧ f.x = 0), inSlot := false, perm := perm, allOps := true,
      mem := true } k

/-- The header of an area (R141 and the table before it). -/
def State.areaHeader (s : State) (i : Nat) (upper : Bool) : Word :=
  BitVec.ofNat 36 (0o547 * 2 ^ 27 + b2n upper * 2 ^ 26 + bits (s.img i iwCtxid) 0 12 * 2 ^ 14)

/-- Image word `j` as SAVEL stores it (R143). -/
def State.saveWord (s : State) (i j : Nat) (link : Word) : Word :=
  if j = 0 then s.img i iwPc + 8
  else if j = 1 then s.img i iwPc + 12
  else if j = 2 then setBits (s.status i) 11 13 0
  else if j = 4 then link
  else s.img i j

/-- The check word over a header and payload words (R141). -/
def areaCheck (hdr : Word) (ws : List Word) : Word := ~~~(ws.foldl (· + ·) hdr)

/-- One word stored into the area. -/
def State.saveStep (i : Nat) (a : Word) (off : Nat) (s : State) (j : Nat) (k : State → Done) : Done :=
  let at_ := a + BitVec.ofNat 36 (4 * (j - off + 2))
  if j = 4 then
    Done.load (s.load i 4 false (a + 4)) fun t link => Done.store (t.store i 4 false at_ (t.saveWord i j link)) k
  else if j < 88 then Done.store (s.store i 4 false at_ (s.saveWord i j 0)) k
  else Done.store (s.store i 4 false at_ (s.img i j)) k

/-- The last step of SAVEL and SAVEU: header, check word and SLHEAD (R143, R144). -/
def State.saveEnd (i : Nat) (a : Word) (upper : Bool) (s : State) : Done :=
  Done.load (s.load i 4 false (a + 4)) fun t link =>
    let h := t.areaHeader i upper
    let ws := if upper then (List.range 80).map fun j => t.img i (88 + j) else (List.range 88).map fun j => t.saveWord i j link
    Done.store (t.store i 4 false a h) fun u =>
      Done.store (u.store i 4 false (a + 360) (areaCheck h ws)) fun v =>
        .next ((v.setImg i iwSlhead link).setProg i 0)

/-- SAVEL (R69, R143). -/
def runSavel (slot : Fin 384) (f : RFields) (s : State) : State :=
  let i := slot.val
  s.blockInsn slot 0o1 f (s.permBusy i) fun t =>
    t.savingArea i fun a =>
      State.blockRun i (State.saveStep i a 0) 1 (State.saveEnd i a false) 0 88 t

/-- SAVEU (R69, R144): image words 88 to 175. -/
def runSaveu (slot : Fin 384) (f : RFields) (s : State) : State :=
  let i := slot.val
  s.blockInsn slot 0o2 f (s.permBusy i) fun t =>
    t.savingArea i fun a =>
      State.blockRun i (State.saveStep i a 88) 1 (State.saveEnd i a true) 88 88 t

/-- Image word `j` as a restore writes it: c0 stays 0 (R115), and reserved words and bits are carried as 0 (R6, R167, R168). -/
def State.restoreWord (s : State) (i j : Nat) (v : Word) : State :=
  if j = 16 ∨ 166 ≤ j then s else s.setImg i j (imageWord j v)

/-- One word loaded from the area. -/
def State.restStep (i : Nat) (a : Word) (off : Nat) (s : State) (j : Nat) (k : State → Done) : Done :=
  Done.load (s.load i 4 false (a + BitVec.ofNat 36 (4 * (j - off + 2)))) fun t v => k (t.restoreWord i j v)

/-- `n` words of the area from area word `j`, in order: one group per rotation, without a boundary (R148). -/
def State.areaWords (i : Nat) (a : Word) (k : State → List Word → Done) : Nat → Nat → List Word → State → Done
  | 0, _, ws, s => k s ws.reverse
  | n + 1, j, ws, s =>
    let go (u : State) : Done :=
      Done.load (u.load i 4 false (a + BitVec.ofNat 36 (4 * j))) fun t v => State.areaWords i a k n (j + 1) (v :: ws) t
    if j ≠ 0 ∧ j % 4 = 0 then s.step i go else go s

/-- The control words that phase 2 of RESTL replaces (R145), from `k` words in order; reserved bits are carried as 0 (R6). -/
def State.restControl (s : State) (i : Nat) (ks : List Word) (link : Word) : State :=
  let k (j : Nat) : Word := imageWord j (ks.getD j 0)
  let st := setBits (setBits (setBits (setBits (s.img i iwStatus) 0 2 (bits (k 2) 0 2)) 8 3 (bits (k 2) 8 3)) 11 13 0) 7 1
    (bits (s.img i iwStatus) 7 1)
  let s1 := ((s.setImg i iwPc (k 0)).setImg i iwNpc (k 1)).setImg i iwStatus st
  let s2 := s1.setImg i iwWctl (BitVec.ofNat 36 (bits (k 3) 0 6))
  let s3 := (List.range 5).foldl (fun t j => t.setImg i (iwSpc + j) (k (5 + j))) s2
  let s4 := ((s3.setImg i iwTtb (k 10)).setImg i iwAseaddr (k 11)).setImg i iwPerfctl (k 12)
  let s5 := ((s4.setImg i iwTp (k 15)).setImg i iwSlhead link).setProg i 0
  s5.setSlot i { s5.slot i with dslot := decide (k 1 ≠ k 0 + 4) }

/-- Phase 2 of RESTL (R145, R146): after a bad area the instruction starts again from phase 1. -/
def State.restEnd (i : Nat) (a : Word) (s : State) : Done :=
  State.areaWords i a (fun u hs =>
    Done.load (u.load i 4 false (a + 360)) fun v chk =>
      let h := hs.getD 0 0
      let ks := hs.drop 2
      let ws := ks ++ (List.range 72).map fun j => v.img i (16 + j)
      if bits h 27 9 ≠ 0o547 ∨ bitAt h 26 ∨ chk ≠ areaCheck h ws ∨ 1 < bits (ks.getD 2 0) 0 2 then
        .trap (v.setProg i 0) (badArea a)
      else .left (v.restControl i ks (hs.getD 1 0))) 18 0 [] s

/-- RESTL (R69, R145). -/
def runRestl (slot : Fin 384) (f : RFields) (s : State) : State :=
  let i := slot.val
  s.blockInsn slot 0o3 f (s.permBusy i false) fun t =>
    t.savingArea i fun a =>
      State.blockRun i (State.restStep i a 0) 1 (State.restEnd i a) 16 72 t

/-- The last step of RESTU (R147). -/
def State.restuEnd (i : Nat) (a : Word) (s : State) : Done :=
  Done.load (s.load i 4 false a) fun t h =>
    Done.load (t.load i 4 false (a + 360)) fun u chk =>
      let ws := (List.range 80).map fun j => u.img i (88 + j)
      if bits h 27 9 ≠ 0o547 ∨ ¬ bitAt h 26 ∨ chk ≠ areaCheck h ws then .trap u (badArea a)
      else Done.load (u.load i 4 false (a + 4)) fun v link => .next ((v.setImg i iwSlhead link).setProg i 0)

/-- RESTU (R69, R147): image words 88 to 167. -/
def runRestu (slot : Fin 384) (f : RFields) (s : State) : State :=
  let i := slot.val
  s.blockInsn slot 0o4 f (s.permBusy i) fun t =>
    t.savingArea i fun a =>
      State.blockRun i (State.restStep i a 88) 3 (State.restuEnd i a) 88 80 t

/-! ## MOVB (R149) -/

/-- A word of memory that is no device region and no captured target, translated for an access of kind `k`; else the access-type
fault (R149, R176). -/
def State.plainWord (s : State) (i : Nat) (k : Kind) (va : Word) : State × Out (Nat × Nat) :=
  match s.resolve i (s.who i) k 4 va with
  | (t, .ok (pa, attr)) =>
    if (isDevice pa && !isMemory pa) || (t.targetOf i pa).isSome then (t, .trap ⟨0o5, 0, va⟩) else (t, .ok (pa, attr))
  | r => r

/-- A word copied: one rotation to read it, the next to write it. -/
def State.moveWord (s : State) (i : Nat) (src dst : Word) (k : State → Done) : Done :=
  match s.plainWord i .load src with
  | (t, .trap f) => .trap t f
  | (t, .wait) => .wait t
  | (t, .ok (pa, attr)) =>
    Done.load (t.loadData i pa attr 4 src) fun u v =>
      u.step i fun u' =>
        match u'.plainWord i .store dst with
        | (w, .trap f) => .trap w f
        | (w, .wait) => .wait w
        | (w, .ok (pd, attr')) => Done.store (w.storeData i pd attr' 4 dst v) k

/-- The words of MOVB from word `j`. -/
def State.moveWords (i : Nat) (src dst : Word) : Nat → Nat → State → Done
  | 0, _, s => .next (s.setProg i 0)
  | n + 1, j, s =>
    let d := BitVec.ofNat 36 (4 * j)
    s.between i fun t =>
      t.moveWord i (src + d) (dst + d) fun u => u.afterStep i (j + 1) (State.moveWords i src dst n (j + 1))

/-- MOVB (R149). -/
def runMovb (slot : Fin 384) (f : RFields) (s : State) : State :=
  let i := slot.val
  s.issue i
    { word := encR 0o37 0o5 f, ok := decide (f.x = 0), inSlot := false, perm := s.permBusy i, deps := s.places i [f.rd, f.ra, f.rb] }
    fun u =>
    let n := bits (u.reg i f.rd) 0 12
    let src := u.reg i f.ra
    let dst := u.reg i f.rb
    if misaligned 4 src then .trap u (alignFault src)
    else if misaligned 4 dst then .trap u (alignFault dst)
    else State.moveWords i src dst (n - u.prog i) (u.prog i) u

end Sys2Proof.Machine
end

