-- ==== Sys2Proof/Machine/System.lean ====
section
/-! DEFINITION. Run control, traps and returns, fences, TLBI and prediction, control registers (R150 to R162). -/

namespace Sys2Proof.Machine

/-- A system-group instruction that uses the fields named (R124, R161), and the places whose long operations it waits for. -/
def sysInsn (fn : Nat) (f : RFields) (useD useA useX inSlot : Bool) (perm : Perm) (deps : List Place := []) : Insn :=
  { word := encR 0o40 fn f
    ok := decide (f.rb = 0) && (useD || decide (f.rd = 0)) && (useA || decide (f.ra = 0)) && (useX || decide (f.x = 0))
    inSlot := inSlot, perm := perm, deps := deps }

/-! ## Run control -/

/-- YIELD (R86, R107, R150, R151): it issues with its stores drained, and the slot is left for the write-back. -/
def runYield (slot : Fin 384) (f : RFields) (s : State) : State :=
  let i := slot.val
  s.issue i { sysInsn 0o1 f false false false false (s.permBusy i) with drains := true, yields := true } fun t =>
    let pc := t.img i iwPc
    let c := (t.slot i).ctx.getD 0
    let v := (((t.traceEnd i 1).setImg i iwPc (pc + 4)).setImg i iwNpc (pc + 8)).setEntry c ((t.entry c).setState stCommit)
    .left (v.setSlot i { (v.slot i).leave .commit with dslot := false })

/-- A refusal of SWAPCTX (R13, R152): its record names the scheduler and the target. -/
def State.swapRefused (s : State) (i status target : Nat) (rd : BitVec 5) : Done :=
  .next ((s.refusal status (s.slotPart i) ((s.slot i).ctx.getD 0) blkSC 0 target).setReg i rd (BitVec.ofNat 36 status))

/-- SWAPCTX (R152). -/
def runSwapctx (slot : Fin 384) (f : RFields) (s : State) : State :=
  let i := slot.val
  let g := (s.entry ((s.slot i).ctx.getD 0)).classG
  s.issue i (sysInsn 0o2 f true true false false ⟨false, true, false, false, !s.sbusy i && g⟩ (s.places i [f.rd, f.ra])) fun u =>
    let n := bits (u.reg i f.ra) 0 12
    let p := u.slotPart i
    let me := (u.slot i).ctx.getD 0
    let d := 16 * u.fget (Reg.SC_PRANGE_BASE p) + n
    let e := u.entry d
    if 16 * u.fget (Reg.SC_PRANGE_COUNT p) ≤ n then u.swapRefused i stsBadArg n f.rd
    else if !e.classG || decide (d = me) || decide (e.state ≠ stIdle ∧ e.state ≠ stParked) then u.swapRefused i stsConflict n f.rd
    else
      let v := ((u.setReg i f.rd 0).traceEnd i 3).advance i
      .left (v.setSlot i ((v.slot i).leave (.swap d)))

/-! ## Traps and returns -/

/-- SYSCALL (R153). -/
def runSyscall (slot : Fin 384) (f : IFields) (s : State) : State :=
  let i := slot.val
  s.issue i { word := encI 0o43 f, ok := decide (f.rd = 0 ∧ f.ra = 0), inSlot := false, perm := ⟨true, true, false, false, true⟩ } fun t =>
    .left ((t.noRetire i).afterDrain i fun u =>
      u.routeTrap i ⟨0o20, 0, immZ f⟩ false (u.img i iwPc + 4) (u.img i iwPc + 8))

/-- FIRMWARE_CALL (R154): the instruction MCALL. -/
def runFirmwareCall (slot : Fin 384) (f : IFields) (s : State) : State :=
  let i := slot.val
  s.issue i { word := encI 0o44 f, ok := true, inSlot := false, perm := ⟨false, true, true, false, true⟩ } fun t =>
    .left ((t.noRetire i).afterDrain i fun u =>
      (u.perf i 0o31).enterM i ⟨0o21, 0, immZ f⟩ (u.img i iwPc + 4) (u.img i iwPc + 8))

/-- The saved STATUS, PC and NPC of a level. -/
def State.savedWord (s : State) (i lvl j : Nat) : Word := if lvl = 1 then s.img i (iwSpc + j) else s.saved i lvl j

/-- Whether ERET from level `l` with saved status `v` is an illegal return (R155, R426). -/
def State.returnBad (s : State) (i l : Nat) (v : Word) : Bool :=
  let st := s.status i
  let part := decide (bits v 3 4 ≠ bits st 3 4)
  let world := decide (bits v 2 1 ≠ bits st 2 1)
  decide (l < bits v 0 2) || part ||
    (world && (decide (l < 3) || !bitAt (s.rget Reg.RK_PSEC) (bits st 3 4) || decide (1 < bits v 0 2)))

/-- ERET at M to the other world (R426). -/
def State.changeWorld (s : State) (i : Nat) (v : Word) : State :=
  let c := (s.slot i).ctx.getD 0
  let id := s.img i iwCtxid
  if bits v 2 1 = bits id 29 1 then s
  else (s.setImg i iwCtxid (setBits id 29 1 (bits v 2 1))).record tySecure 4 (s.slotPart i) c (v &&& 4)

/-- A return through the save set of level `l` (R155). -/
def State.returnFrom (s : State) (i l : Nat) : State :=
  let v := s.savedWord i l 2
  let pc := s.savedWord i l 0
  let npc := s.savedWord i l 1
  let s1 := if l = 3 then s.changeWorld i v else s
  let s2 := ((s1.setImg i iwPc pc).setImg i iwNpc npc).setImg i iwStatus (v &&& BitVec.ofNat 36 0o77777603)
  let s3 := if l = 1 then s2.setTw i false else s2
  s3.setSlot i { s3.slot i with dslot := decide (npc ≠ pc + 4) }

/-- ERET (R155, R156, R225). -/
def runEret (slot : Fin 384) (f : RFields) (s : State) : State :=
  let i := slot.val
  s.issue i (sysInsn 0o3 f false false false false ⟨false, true, true, true, true⟩) fun t =>
    let l := t.level i
    if t.returnBad i l (t.savedWord i l 2) then .left ((t.noRetire i).illegalReturn i)
    else .left ((t.setRetire i 3 (t.savedWord i l 0)).returnFrom i l)

/-- TRAPDONE (R157). -/
def runTrapdone (slot : Fin 384) (f : RFields) (s : State) : State :=
  let i := slot.val
  s.issue i (sysInsn 0o4 f false false false true ⟨false, true, false, false, true⟩) fun t =>
    .next (if t.sbusy i then (t.setStatus i 7 1 0).setTw i false else t)

/-! ## Fences (R158) -/

/-- A fence-group instruction: RD, RA, RB and X are 0; it issues once the thread's stores have drained. -/
def State.fenceInsn (s : State) (slot : Fin 384) (fn : Nat) (f : RFields) (k : State → Done) : State :=
  s.issue slot.val { plain (encR 0o25 fn f) (decide (f.rd = 0 ∧ f.ra = 0 ∧ f.rb = 0 ∧ f.x = 0)) with drains := true } k

def runFence (slot : Fin 384) (f : RFields) (s : State) : State := s.fenceInsn slot 0o1 f .next

def runIfence (slot : Fin 384) (f : RFields) (s : State) : State :=
  s.fenceInsn slot 0o2 f fun u => .next (u.setSlot slot.val { u.slot slot.val with fetch := [] })

def runTsync (slot : Fin 384) (f : RFields) (s : State) : State :=
  s.fenceInsn slot 0o3 f fun u => if u.core.tlbis.any fun t => decide (t.slot = slot.val) then .wait u else .next u

/-! ## TLBI and prediction (R159, R160) -/

/-- TLBI: forms 0 to 2. -/
def runTlbi (slot : Fin 384) (f : RFields) (s : State) : State :=
  let i := slot.val
  s.issue i
    { word := encR 0o40 0o5 f, ok := decide (f.rd = 0 ∧ f.rb = 0 ∧ f.x.toNat < 3), inSlot := true,
      perm := ⟨false, true, true, true, true⟩, deps := s.places i [f.ra] } fun u =>
    .next (u.issueTlbi i f.x.toNat (u.reg i f.ra))

/-- PBAR. -/
def runPbar (slot : Fin 384) (f : RFields) (s : State) : State :=
  let i := slot.val
  s.issue i
    { word := encR 0o40 0o6 f, ok := decide (f.rd = 0 ∧ f.ra = 0 ∧ f.rb = 0 ∧ f.x.toNat < 2), inSlot := true,
      perm := ⟨true, true, false, false, true⟩ } fun t => .next (t.setStatus i 10 1 f.x.toNat)

/-- PFLUSH (R160, R199): the entries of the current context, or of the current world, go from every core. -/
def runPflush (slot : Fin 384) (f : RFields) (s : State) : State :=
  let i := slot.val
  s.issue i
    { word := encR 0o40 0o7 f, ok := decide (f.rd = 0 ∧ f.ra = 0 ∧ f.rb = 0 ∧ f.x.toNat < 2), inSlot := true,
      perm := if f.x = 0 then ⟨true, true, false, false, true⟩ else ⟨false, true, false, true, true⟩ } fun t =>
    let w := t.secureCtx i
    let c := (t.slot i).ctx.getD 0
    let hit (e : PredEntry) : Bool := (e.secure == w) && (decide (f.x ≠ 0) || decide (e.ctx = c))
    .next ((List.range 48).foldl (fun u n => u.clearPred n hit) t)

/-! ## Control registers (R161, R204 to R207, R224) -/

/-- Whether control register `x` can be read at a level, or the code of the trap (R161, R205). -/
def ctlReadTrap (lvl x : Nat) (perfu : Bool) : Option Nat :=
  if x < 5 ∨ (11 < x ∧ x < 16) then none
  else if x < 12 then (if lvl = 0 then some 0o2 else none)
  else if x < 24 then (if 2 ≤ lvl then none else some 0o1)
  else if x < 32 ∨ 60 < x then some 0o1
  else if lvl ≠ 0 then none
  else if x < 50 ∧ perfu then none
  else some 0o2

/-- Whether control register `x` can be written at a level, or the code of the trap: a register that S may reach is privileged at U. -/
def ctlWriteTrap (lvl x : Nat) : Option Nat :=
  if x = 4 ∨ x = 15 then none
  else if x < 2 ∨ x = 13 ∨ x = 14 then (if lvl = 0 then some 0o2 else some 0o1)
  else if x < 13 then (if lvl = 0 then some 0o2 else none)
  else if x < 24 then (if 2 ≤ lvl then none else some 0o1)
  else if x < 32 ∨ 60 < x then some 0o1
  else if lvl = 0 then some 0o2
  else none

/-- A 72-bit count read by halves (R204): the high word latches the low one for the slot. -/
def State.latchRead (s : State) (i j : Nat) (v : BitVec 72) (low : Bool) : State × Word :=
  let x := s.slot i
  if low then (s, Tab.get 0 x.loLatch j)
  else (s.setSlot i { x with loLatch := Tab.set 0 x.loLatch j (v.extractLsb' 0 36) }, v.extractLsb' 36 36)

/-- What control register `x` reads as (R161, R207). -/
def State.ctlRead (s : State) (i x : Nat) : State × Word :=
  let pc := s.img i iwPc
  let core := i / 8
  if x = 1 then (s, pc + 4)
  else if x = 2 then (s, s.status i)
  else if x < 16 then (s, s.img i x)
  else if x < 24 then (s, if x < 21 then s.saved i (s.level i) (x - 16) else 0)
  else if x < 34 then s.latchRead i 0 (BitVec.ofNat 72 s.cyc) (decide (x = 33))
  else if x < 50 then s.latchRead i (1 + (x - 34) / 2) (s.pmc core ((x - 34) / 2)) (decide (x % 2 = 1))
  else (s, s.pmr core (x - 50))

/-- A write of PMSELj (R205): SEC stays from any level but M, and such a store is recorded. -/
def State.writePmsel (s : State) (i j : Nat) (v : Word) : State :=
  let core := i / 8
  let new := BitVec.ofNat 36 (bits v 0 24)
  if s.level i = 3 then s.setPmr core j new
  else
    (s.setPmr core j (setBits new 22 1 (bits (s.pmr core j) 22 1))).record tySecure 3 (s.slotPart i)
      ((s.slot i).ctx.getD 0) (BitVec.ofNat 36 (50 + j))

/-- A write of control register `x` (R161, R207). -/
def State.ctlWrite (s : State) (i x : Nat) (v : Word) : State :=
  let core := i / 8
  let y := s.slot i
  if x = 2 then s.setStatus i 8 2 (bits v 8 2)
  else if x = 3 then s.setImg i iwWctl (setBits (s.img i iwWctl) 0 6 (bits v 0 6))
  else if x = 8 then s.setImg i 8 (BitVec.ofNat 36 (bits v 0 14))
  else if x = 10 then s.setImg i iwTtb (setBits v 32 3 0)
  else if x = 12 then s.setImg i iwPerfctl (BitVec.ofNat 36 (bits v 0 9))
  else if x < 16 then s.setImg i x v
  else if x < 21 then s.setSaved i (s.level i) (x - 16) (if x = 19 then BitVec.ofNat 36 (bits v 0 14) else v)
  else if x < 34 then s
  else if x < 50 then
    let j := (x - 34) / 2
    if x % 2 = 0 then s.setSlot i { y with hiHold := Tab.set 0 y.hiHold j v }
    else s.setPmc core j (Tab.get 0 y.hiHold j ++ v)
  else if x < 58 then s.writePmsel i (x - 50) v
  else if x = 58 then s.setPmr core 8 (s.pmr core 8 &&& ~~~v)
  else if x = 60 then s.setPmr core 10 (s.pmr core 10 &&& ~~~(v &&& maskBits 20 2))
  else s

/-- RDCTL (R161). -/
def runRdctl (slot : Fin 384) (f : RFields) (s : State) : State :=
  let i := slot.val
  s.issue i (sysInsn 0o10 f true false true true Perm.all (s.places i [f.rd])) fun t =>
    match ctlReadTrap (t.level i) f.x.toNat (bitAt (t.img i iwPerfctl) 8) with
    | some code => .trap t ⟨code, 0, encR 0o40 0o10 f⟩
    | none =>
      let r := t.ctlRead i f.x.toNat
      .next (r.1.setReg i f.rd r.2)

/-- WRCTL (R161). -/
def runWrctl (slot : Fin 384) (f : RFields) (s : State) : State :=
  let i := slot.val
  s.issue i (sysInsn 0o11 f false true true true Perm.all (s.places i [f.ra])) fun t =>
    match ctlWriteTrap (t.level i) f.x.toNat with
    | some code => .trap t ⟨code, 0, encR 0o40 0o11 f⟩
    | none => .next (t.ctlWrite i f.x.toNat (t.reg i f.ra))

end Sys2Proof.Machine
end

