-- ==== Sys2Proof/Machine/Signal.lean ====
section
/-! DEFINITION. The signal-processing extensions (spec/05_signal_extensions.md): address generators, accumulators, phasors, CUBI,
MACR and DFTR. -/

namespace Sys2Proof.Machine

/-! ## The address-generator group (R170) -/

/-- An instruction of the group: RB and X[5:3] are 0; `ok` holds the other reserved fields. -/
def agInsn (fn : Nat) (f : RFields) (ok : Bool) (deps : List Place) : Insn :=
  plain (encR 0o45 fn f) (decide (f.rb = 0 ∧ f.x.toNat < 8) && ok) deps

/-- The descriptor an instruction names. -/
def agK (f : RFields) : Nat := f.x.toNat % 4

/-- U of AGLD and AGST, or the word select of AGRD and AGWR. -/
def agU (f : RFields) : Bool := decide (4 ≤ f.x.toNat % 8)

/-- The address that the descriptor and GPR[ra] form, and the rest of the operation. -/
def State.agWith (s : State) (i : Nat) (f : RFields) (k : Word → Done) : Done :=
  match s.agaddr i (agK f) (s.reg i f.ra).toInt with
  | .ok a => k a
  | .trap t => .trap s t
  | .wait => .wait s

def runAgld (slot : Fin 384) (f : RFields) (s : State) : State :=
  let i := slot.val
  s.issue i { agInsn 0o1 f true (s.places i [f.rd, f.ra]) with mem := true } fun u =>
    u.agWith i f fun a => u.loadInsn i (u.place i f.rd) 4 false false (if agU f then some (agK f) else none) a

def runAgst (slot : Fin 384) (f : RFields) (s : State) : State :=
  let i := slot.val
  s.issue i { agInsn 0o2 f true (s.places i [f.rd, f.ra]) with mem := true } fun u =>
    u.agWith i f fun a => u.storeInsn i 4 false (if agU f then some (agK f) else none) a (u.reg i f.rd)

def runAgadr (slot : Fin 384) (f : RFields) (s : State) : State :=
  let i := slot.val
  s.issue i (agInsn 0o3 f (!agU f) (s.places i [f.rd, f.ra])) fun u => u.agWith i f fun a => .next (u.setReg i f.rd a)

def runAgadv (slot : Fin 384) (f : RFields) (s : State) : State :=
  let i := slot.val
  s.issue i (agInsn 0o4 f (!agU f && decide (f.rd = 0 ∧ f.ra = 0)) []) fun t =>
    match t.agAdvance i (agK f) with
    | .ok u => .next u
    | .trap x => .trap t x
    | .wait => .wait t

def runAgrd (slot : Fin 384) (f : RFields) (s : State) : State :=
  let i := slot.val
  s.issue i (agInsn 0o5 f (decide (f.ra = 0)) (s.places i [f.rd])) fun u =>
    .next (u.setReg i f.rd (u.img i (if agU f then iwAgCtl (agK f) else iwAgBase (agK f))))

def runAgwr (slot : Fin 384) (f : RFields) (s : State) : State :=
  let i := slot.val
  s.issue i (agInsn 0o6 f (decide (f.rd = 0)) (s.places i [f.ra])) fun u =>
    let v := u.reg i f.ra
    .next (if agU f then u.setImg i (iwAgCtl (agK f)) (setBits v 35 1 0) else u.setImg i (iwAgBase (agK f)) v)

/-! ## The accumulator group (R171) -/

/-- The function code of an accumulator operation: FN bit 8 selects the accumulator. -/
def accFn (acc1 : Bool) (fn : Nat) : Nat := b2n acc1 * 0o400 + fn

/-- hi(v) and lo(v). -/
def hiPart (v : Word) : Int := (v.extractLsb' 18 18).toInt
def loPart (v : Word) : Int := (v.extractLsb' 0 18).toInt

/-- A scalar multiply-accumulate: `g` gives the result from ACCa and the operands. RD and X are 0. -/
def State.macInsn (s : State) (slot : Fin 384) (acc1 : Bool) (fn : Nat) (f : RFields) (g : Int → Word → Word → Int) : State :=
  let i := slot.val
  let a := b2n acc1
  s.issue i (plain (encR 0o46 (accFn acc1 fn) f) (decide (f.rd = 0 ∧ f.x = 0)) (s.places i [f.ra, f.rb] ++ accPlaces a)) fun u =>
    .next (u.issueLong i 4 (u.accResult i a (g (u.acc i a).toInt (u.reg i f.ra) (u.reg i f.rb))))

def runMac (slot : Fin 384) (acc1 : Bool) (f : RFields) (s : State) : State :=
  s.macInsn slot acc1 0o1 f fun c a b => c + a.toInt * b.toInt

def runMsu (slot : Fin 384) (acc1 : Bool) (f : RFields) (s : State) : State :=
  s.macInsn slot acc1 0o2 f fun c a b => c - a.toInt * b.toInt

def runMacl (slot : Fin 384) (acc1 : Bool) (f : RFields) (s : State) : State :=
  s.macInsn slot acc1 0o3 f fun c a b => c + loPart a * loPart b

def runMacd (slot : Fin 384) (acc1 : Bool) (f : RFields) (s : State) : State :=
  s.macInsn slot acc1 0o4 f fun c a b => c + hiPart a * hiPart b + loPart a * loPart b

/-- An operation that reads ACCa into GPR[rd]; RA and RB are 0. -/
def State.accRead (s : State) (slot : Fin 384) (acc1 : Bool) (fn : Nat) (f : RFields) (ok : Bool) (g : BitVec 72 → Word × Word) :
    State :=
  let i := slot.val
  s.issue i
    (plain (encR 0o46 (accFn acc1 fn) f) (decide (f.ra = 0 ∧ f.rb = 0) && ok)
      (rsatPlace :: s.places i [f.rd] ++ accPlaces (b2n acc1))) fun u =>
    let r := g (u.acc i (b2n acc1))
    .next (u.issueLong i 4 { longTo (u.place i f.rd) r.1 with stat := r.2, rsat := true })

/-- rnd(v × 2^−x) (R164). -/
def rndShift (v : Int) (x : Nat) : Int := (2 * v + 2 ^ x) / 2 ^ (x + 1)

/-- A rounded value clamped, with the sticky bit of the clamp. -/
def satWord (v : Int) : Word × Word := (BitVec.ofInt 36 (sat36 v), rsatStat v)

def runAccrnd (slot : Fin 384) (acc1 : Bool) (f : RFields) (s : State) : State :=
  s.accRead slot acc1 0o10 f true fun v => satWord (rndShift v.toInt f.x.toNat)

def runAcchi (slot : Fin 384) (acc1 : Bool) (f : RFields) (s : State) : State :=
  s.accRead slot acc1 0o11 f (decide (f.x = 0)) fun v => (v.extractLsb' 36 36, 0)

def runAcclo (slot : Fin 384) (acc1 : Bool) (f : RFields) (s : State) : State :=
  s.accRead slot acc1 0o12 f (decide (f.x = 0)) fun v => (v.extractLsb' 0 36, 0)

def runAccset (slot : Fin 384) (acc1 : Bool) (f : RFields) (s : State) : State :=
  let i := slot.val
  let a := b2n acc1
  s.issue i (plain (encR 0o46 (accFn acc1 0o13) f) (decide (f.rd = 0 ∧ f.x = 0)) (s.places i [f.ra, f.rb] ++ accPlaces a)) fun u =>
    .next (u.issueLong i 4 { writes := accWrites a (pairBits (u.reg i f.ra) (u.reg i f.rb)), stat := 0 })

/-- The word that a descriptor names, read with an offset. -/
def State.agRead (s : State) (i k : Nat) (d : Int) (g : State → Word → Done) : Done :=
  match s.agaddr i k d with
  | .ok a => Done.load (s.load i 4 false a) g
  | .trap t => .trap s t
  | .wait => .wait s

/-- One term of MACR, of two rotations (R172, R179). -/
def State.macrTerm (s : State) (i a p q : Nat) (k : State → Done) : Done :=
  s.agRead i p 0 fun t u =>
    t.step i fun t1 =>
      t1.agRead i q 0 fun w v =>
        let w1 := w.issueLong i 4 (w.accResult i a ((w.acc i a).toInt + u.toInt * v.toInt))
        let w2 := w1.agMoved i (some p)
        k (if q = p then w2 else w2.agMoved i (some q))

/-- The terms of MACR from term `j`. -/
def State.macrTerms (i a p q : Nat) : Nat → Nat → State → Done
  | 0, _, s => .next (s.setProg i 0)
  | n + 1, j, s =>
    s.between i fun t => t.macrTerm i a p q fun u => u.afterStep i (j + 1) (State.macrTerms i a p q n (j + 1))

/-- Where MACR and DFTR are allowed (R163). -/
def permRun : Perm := ⟨true, true, false, false, true⟩

/-- MACR (R172): its issue cycle makes no access. -/
def runMacr (slot : Fin 384) (acc1 : Bool) (f : RFields) (s : State) : State :=
  let i := slot.val
  let a := b2n acc1
  s.issue i
    { word := encR 0o46 (accFn acc1 0o14) f, ok := decide (f.ra = 0 ∧ f.rb = 0 ∧ f.x.toNat < 16), inSlot := false,
      perm := permRun, deps := s.places i [f.rd] ++ accPlaces a } fun u =>
    State.macrTerms i a (f.x.toNat % 4) (f.x.toNat / 4) (bits (u.reg i f.rd) 0 12 - u.prog i) (u.prog i) u

/-- SPRD (R171, R180): it waits for every long operation. -/
def runSprd (slot : Fin 384) (acc1 : Bool) (f : RFields) (s : State) : State :=
  let i := slot.val
  s.issue i
    { plain (encR 0o46 (accFn acc1 0o20) f) (!acc1 && decide (f.ra = 0 ∧ f.rb = 0 ∧ f.x.toNat < 2)) with allOps := true } fun u =>
    .next (u.setReg i f.rd (u.img i (if f.x = 0 then iwSpctl else iwSpstat)))

/-- SPWR (R171, R180): it waits for every long operation; reserved bits are written as 0. -/
def runSpwr (slot : Fin 384) (acc1 : Bool) (f : RFields) (s : State) : State :=
  let i := slot.val
  s.issue i
    { plain (encR 0o46 (accFn acc1 0o21) f) (!acc1 && decide (f.rd = 0 ∧ f.rb = 0 ∧ f.x.toNat < 2)) with allOps := true } fun u =>
    let v := u.reg i f.ra
    .next (if f.x = 0 then u.setImg i iwSpctl (BitVec.ofNat 36 (bits v 0 2))
           else u.setImg i iwSpstat (BitVec.ofNat 36 (bits v 0 3)))

/-! ## The phasor group (R173) -/

/-- A phasor operation of a latency that writes GPR[rd]. -/
def State.phasorReg (s : State) (slot : Fin 384) (fn latency : Nat) (f : RFields) (ok : Bool) (v : Word → Word → Word) : State :=
  let i := slot.val
  s.issue i (plain (encR 0o47 fn f) (decide (f.x = 0) && ok) (s.places i [f.rd, f.ra, f.rb])) fun u =>
    .next (u.issueLong i latency (longTo (u.place i f.rd) (v (u.reg i f.ra) (u.reg i f.rb))))

/-- A phase of 24 bits. -/
def phaseOf (v : Word) : Nat := bits v 0 24

/-- CIS: RB is 0. -/
def runCis (slot : Fin 384) (f : RFields) (s : State) : State :=
  s.phasorReg slot 0o1 8 f (decide (f.rb = 0)) fun a _ =>
    BitVec.ofInt 18 (cosQ17 (phaseOf a)) ++ BitVec.ofInt 18 (sinQ17 (phaseOf a))

/-- Results for both accumulators as one operation (R166). -/
def State.accPair (s : State) (i : Nat) (re im : Int) : LongOp :=
  let x := s.accResult i 0 re
  let y := s.accResult i 1 im
  { writes := x.writes ++ y.writes, stat := x.stat ||| y.stat }

def runRot (slot : Fin 384) (f : RFields) (s : State) : State :=
  let i := slot.val
  s.issue i (plain (encR 0o47 0o2 f) (decide (f.x = 0)) (s.places i [f.rd, f.ra, f.rb] ++ accPlaces 0 ++ accPlaces 1)) fun u =>
    let p := phaseOf (u.reg i f.rd)
    let a := (u.reg i f.ra).toInt
    let b := (u.reg i f.rb).toInt
    .next (u.issueLong i 12 (u.accPair i (a * cosQ17 p - b * sinQ17 p) (a * sinQ17 p + b * cosQ17 p)))

/-- SDFT: RD is 0. -/
def runSdft (slot : Fin 384) (f : RFields) (s : State) : State :=
  let i := slot.val
  s.issue i (plain (encR 0o47 0o3 f) (decide (f.rd = 0 ∧ f.x = 0)) (s.places i [f.ra, f.rb] ++ accPlaces 0 ++ accPlaces 1)) fun u =>
    let p := phaseOf (u.reg i f.rb)
    let a := (u.reg i f.ra).toInt
    .next (u.issueLong i 12 (u.accPair i ((u.acc i 0).toInt + a * cosQ17 p) ((u.acc i 1).toInt - a * sinQ17 p)))

def runMag (slot : Fin 384) (f : RFields) (s : State) : State :=
  s.phasorReg slot 0o4 20 f true fun a b => BitVec.ofNat 36 (sqrtRnd (a.toInt * a.toInt + b.toInt * b.toInt).toNat)

def runAng (slot : Fin 384) (f : RFields) (s : State) : State :=
  s.phasorReg slot 0o5 24 f true fun a b =>
    if a = 0 ∧ b = 0 then 0 else BitVec.ofInt 36 (rnd (2 ^ 24 * angleTurns a.toInt b.toInt) % 2 ^ 24)

/-- CUBI (R174): RB and X[5:2] are 0; four reads in order, one in each of four rotations, then the result. -/
def runCubi (slot : Fin 384) (f : RFields) (s : State) : State :=
  let i := slot.val
  let k := f.x.toNat % 4
  let next (d : Int) (g : State → Word → Done) (t : State) : Done := t.step i fun u => u.agRead i k d g
  s.issue i
    { plain (encR 0o47 0o6 f) (decide (f.rb = 0 ∧ f.x.toNat < 4)) (rsatPlace :: s.places i [f.rd, f.ra]) with mem := true } fun u =>
    let m := bits (u.reg i f.ra) 0 18
    u.agRead i k (-1) fun t0 xm =>
      next 0 (fun t1 x0 =>
        next 1 (fun t2 x1 =>
          next 2 (fun t3 x2 =>
            let r := satWord (rnd (cubicSum m xm.toInt x0.toInt x1.toInt x2.toInt))
            .next (t3.issueLong i 12 { longTo (t3.place i f.rd) r.1 with stat := r.2, rsat := true })) t2) t1) t0

/-! ## The DFT run (R175 to R177) -/

/-- `n` words of a bin read, each a plain word of memory. -/
def State.binWords (i : Nat) (k : State → List Word → Done) : Nat → Word → List Word → State → Done
  | 0, _, ws, s => k s ws.reverse
  | n + 1, a, ws, s =>
    match s.plainWord i .load a with
    | (t, .trap f) => .trap t f
    | (t, .wait) => .wait t
    | (t, .ok (pa, attr)) => Done.load (t.loadData i pa attr 4 a) fun u v => State.binWords i k n (a + 4) (v :: ws) u

/-- Words written to memory in order; nothing waits once the buffer has room for their groups. -/
def State.binStore (i : Nat) (k : State → Done) : List Word → Word → State → Done
  | [], _, s => k s
  | v :: vs, a, s => Done.store (s.store i 4 false a v) fun t => State.binStore i k vs (a + 4) t

/-- Both groups of a bin are translated and checked for the writes, and the buffer has room for them (R176). -/
def State.binReady (s : State) (i : Nat) (b : Word) (k : State → Done) : Done :=
  match s.plainWord i .store b with
  | (t, .trap f) => .trap t f
  | (t, .wait) => .wait t
  | (t, .ok _) =>
    match t.plainWord i .store (b + 16) with
    | (u, .trap f) => .trap u f
    | (u, .wait) => .wait u
    | (u, .ok _) =>
      if (u.slot i).sb.length ≤ 2 then k u
      else match (u.unjudge i).drainHold i 0o10 fun l => decide (2 < l.length) with
        | (v, false) => .wait v
        | (v, true) =>
          match v.afterHold i with
          | (w, true) => k w
          | (w, false) => .left w

/-- One bin that has not had the point `p` (R175, R177): after the rotation that read words 4 to 7, one reads words 0 to 3, one checks the
writes and makes the first group, one makes the second. A budget reached inside lets no word be written, so the words enter the buffer in
the last (R178). -/
def State.binUpdate (s : State) (i : Nat) (b p d harm : Word) (k : State → Done) : Done :=
  s.step i fun s1 =>
    State.binWords i (fun t ws =>
      let phi := bits harm 0 12 * phaseOf p % 2 ^ 24
      let sh := bits harm 12 6
      let re := pairBits (ws.getD 0 0) (ws.getD 1 0) + BitVec.ofInt 72 (d.toInt * cosQ17 phi)
      let im := pairBits (ws.getD 2 0) (ws.getD 3 0) - BitVec.ofInt 72 (d.toInt * sinQ17 phi)
      let oRe := satWord (rndShift re.toInt sh)
      let oIm := satWord (rndShift im.toInt sh)
      t.step i fun t1 =>
        t1.binReady i b fun u =>
          u.step i fun u1 =>
            State.binStore i (fun v =>
              State.binStore i (fun w => k (w.setImg i iwSpstat (w.img i iwSpstat ||| oRe.2 ||| oIm.2))) [oRe.1, oIm.1, p] (b + 20) v)
              [re.extractLsb' 36 36, re.extractLsb' 0 36, im.extractLsb' 36 36, im.extractLsb' 0 36] b u1) 4 b [] s1

/-- The bins of DFTR from bin `j`. -/
def State.dftrBins (i : Nat) (p t d : Word) : Nat → Nat → State → Done
  | 0, _, s => .next (s.setProg i 0)
  | n + 1, j, s =>
    let b := t + BitVec.ofNat 36 (32 * (j + 1))
    let rest (u : State) : Done := u.afterStep i (j + 1) (State.dftrBins i p t d n (j + 1))
    s.between i fun u =>
      State.binWords i (fun v ws => if ws.getD 3 0 = p then rest v else v.binUpdate i b p d (ws.getD 0 0) rest) 4 (b + 16) [] u

/-- DFTR (R175 to R178): its issue cycle reads the header. -/
def runDftr (slot : Fin 384) (f : RFields) (s : State) : State :=
  let i := slot.val
  s.issue i
    { word := encR 0o47 0o7 f, ok := decide (f.x = 0), inSlot := false, perm := permRun,
      deps := rsatPlace :: s.places i [f.rd, f.ra, f.rb], mem := true } fun u =>
    let a := u.reg i f.ra
    if a.toNat % 32 ≠ 0 then .trap u (alignFault a)
    else
      let p := u.reg i f.rd
      let d := u.reg i f.rb
      Done.load (u.load i 4 false a) fun v h =>
        State.dftrBins i p a d (bits h 0 9 - v.prog i) (v.prog i) v

end Sys2Proof.Machine
end

