-- ==== Sys2Proof/Machine/Debug.lean ====
section
/-! DEFINITION. The test access port (R540 to R544) and the debugger's commands (R545 to R548). -/

namespace Sys2Proof.Machine

/-! ## Commands of DB_CMD (R545 to R547) -/

/-- The core that DB_TGT names: the main core for the checker of a pair in LOCKSTEP; none beyond the last core. -/
def State.dbCore (s : State) : Option Nat :=
  let c := s.fget Reg.DB_TGT_CORE
  if 48 ≤ c then none
  else if s.pairState (c / 2) = lsLockstep then some (c / 2 * 2) else some c

/-- A debug command is refused with a status and recorded. -/
def State.dbRefuse (s : State) (part op status : Nat) : State :=
  (s.dbRefusal status part op).dbResult status 0 0

/-- A trap of a debugger's access: STATUS 6 with its cause (R545). -/
def State.dbFault (s : State) (t : Trap) : State := s.dbResult 6 t.code t.sub

/-- Whether a slot stands at M or holds a secure-world context (R546). -/
def State.dbGuarded (s : State) (i : Nat) : Bool :=
  (s.slot i).ctx.isSome && (decide (s.level i = 3) || s.secureCtx i)

/-- HALT on core `c` (R545, R546). -/
def State.dbHalt (s : State) (c : Nat) : State :=
  let k := c / 2
  let part := s.pairPart k
  let st := s.pairState k
  if st = lsHold ∨ st = lsTest then s.dbRefuse part 1 stsBusy
  else if c ∉ s.pairCores k ∨ s.halted c then s.dbRefuse part 1 stsConflict
  else if !s.fbit Reg.RK_DBG_SDBG && (coreSlots c).any s.dbGuarded then s.dbRefuse part 1 9
  else
    let t := s.fset (haltBit c) 1
    (if st = lsLockstep then t.fset (haltBit (c + 1)) 1 else t).dbResult stsOk 0 0

/-- RESUME of core `c` (R545). -/
def State.dbResume (s : State) (c : Nat) : State :=
  (if s.pairState (c / 2) = lsLockstep then s.unhaltPair (c / 2) else s.unhalt c).dbResult stsOk 0 0

/-- STEP of slot `i` (R545): complete once the slot has issued, and at once where nothing can issue in it. -/
def State.dbStep (s : State) (i : Nat) : State :=
  let x := s.slot i
  if x.ctx.isSome && x.gate && !x.stopped then s.setTap { s.tap with cmd := none, stepSlot := some i }
  else s.dbResult stsOk 0 0

/-- RDREG (R545): a register of R114, or a control register of R161 with the rights of S. -/
def State.dbReadReg (s : State) (i part : Nat) : State :=
  let n := (s.rget Reg.DB_ADDR).toNat
  if n < 32 then
    let r := BitVec.ofNat 5 n
    let t := s.await i (s.places i [r])
    (t.rset Reg.DB_DATA (t.reg i r)).dbResult stsOk 0 0
  else if 64 ≤ n ∧ n < 128 ∧ (ctlReadTrap (Nat.max 1 (s.level i)) (n - 64) true).isNone then
    let r := s.ctlRead i (n - 64)
    (r.1.rset Reg.DB_DATA r.2).dbResult stsOk 0 0
  else s.dbRefuse part 4 stsBadArg

/-- WRREG (R545). -/
def State.dbWriteReg (s : State) (i part : Nat) : State :=
  let n := (s.rget Reg.DB_ADDR).toNat
  let v := s.rget Reg.DB_DATA
  if n < 32 then
    let r := BitVec.ofNat 5 n
    ((s.await i (s.places i [r])).setReg i r v).dbResult stsOk 0 0
  else if 64 ≤ n ∧ n < 128 ∧ (ctlWriteTrap (Nat.max 1 (s.level i)) (n - 64)).isNone then
    (s.ctlWrite i (n - 64) v).dbResult stsOk 0 0
  else s.dbRefuse part 5 stsBadArg

/-- RDMEM (R545): as an LDW of the slot; the command stays while memory does not answer. -/
def State.dbReadMem (s : State) (i : Nat) : State :=
  let va := s.rget Reg.DB_ADDR
  if misaligned 4 va then s.dbFault (alignFault va)
  else match s.resolve i (s.who i) .load 4 va with
    | (t, .trap f) => t.dbFault f
    | (t, .wait) => t
    | (t, .ok (pa, attr)) =>
      if isOutbound pa then
        match t.drainAll i 4 with
        | (u, false) => u
        | (u, true) =>
          if (u.slot i).outLoad.isSome then u
          else match u.outLoadSend i (u.slotPart i) pa with
            | some v => v.waitLoad i { place := .dbData, va := va, pa := pa, size := 4, signed := false, adv := none, out := true }
            | none => u.dbResult 6 0o17 3
      else match t.loadData i pa attr 4 va with
        | (u, .ok v) => (u.rset Reg.DB_DATA v).dbResult stsOk 0 0
        | (u, .trap f) => u.dbFault f
        | (u, .wait) => u

/-- A WRMEM is complete once the slot's stores have drained (R545). -/
def State.dbDrain (s : State) (i : Nat) : State :=
  match s.drainAll i 4 with
  | (t, true) => t.dbResult stsOk 0 0
  | (t, false) => t

/-- WRMEM (R545): as an STW of the slot. -/
def State.dbWriteMem (s : State) (i : Nat) : State :=
  let va := s.rget Reg.DB_ADDR
  if misaligned 4 va then s.dbFault (alignFault va)
  else match s.store i 4 false va (s.rget Reg.DB_DATA) with
    | (t, .ok) => (t.setTap { t.tap with cmd := some 23 }).dbDrain i
    | (t, .ended) => t.dbResult stsOk 0 0
    | (t, .trap f) => t.dbFault f
    | (t, .wait) => t

/-- Whether the partition of core `c` may reach a physical address (R252, R428, R545). -/
def State.dbReach (s : State) (c pa need : Nat) : Bool :=
  let p := s.pairOwner (c / 2)
  decide (p < 16) && s.reachable (engWho p) pa need

/-- RDPHY (R545). -/
def State.dbReadPhys (s : State) (c : Nat) : State :=
  let pa := (s.rget Reg.DB_ADDR).toNat
  if misaligned 4 (s.rget Reg.DB_ADDR) then s.dbFault (alignFault (s.rget Reg.DB_ADDR))
  else if !s.dbReach c pa 1 then s.dbFault ⟨0o16, 1, 0⟩
  else match s.coreRead c false (pa / 4) with
    | (t, .ok v) => (t.rset Reg.DB_DATA v).dbResult stsOk 0 0
    | (t, .err sub) => t.dbResult 6 0o17 sub
    | (t, .wait) => t

/-- WRPHY (R99, R545). -/
def State.dbWritePhys (s : State) (c : Nat) : State :=
  let pa := (s.rget Reg.DB_ADDR).toNat
  if misaligned 4 (s.rget Reg.DB_ADDR) then s.dbFault (alignFault (s.rget Reg.DB_ADDR))
  else if !s.dbReach c pa 2 then s.dbFault ⟨0o16, 2, 0⟩
  else if s.pageBars none pa then s.dbResult 6 0o23 5
  else match s.coreWrite c (pa / 64) false [(pa / 4 % 16, 15, s.rget Reg.DB_DATA)] with
    | (t, .ok _) => t.dbResult stsOk 0 0
    | (t, .err sub) => t.dbResult 6 0o23 sub
    | (t, .wait) => t

/-- What waits is carried out: a command of DB_CMD (R545 to R547). -/
def State.serveDb (s : State) : State :=
  match s.tap.cmd with
  | none => s
  | some op =>
    match s.dbCore with
    | none => s.dbRefuse 0 op stsBadArg
    | some c =>
      let part := s.pairPart (c / 2)
      let i := 8 * c + s.fget Reg.DB_TGT_SLOT
      let x := s.slot i
      if op = 1 then s.dbHalt c
      else if op = 2 then s.dbResume c
      else if op = 23 then s.dbDrain i
      else if !s.halted c then s.dbRefuse part op stsConflict
      else if op < 8 ∧ x.ctx.isNone then s.dbRefuse part op stsConflict
      else if 4 ≤ op ∧ !s.fbit Reg.RK_DBG_SDBG ∧ s.dbGuarded i then s.dbRefuse part op 9
      else if (x.outLoad.map (·.place)) = some Place.dbData then s
      else match op with
        | 3 => s.dbStep i
        | 4 => s.dbReadReg i part
        | 5 => s.dbWriteReg i part
        | 6 => s.dbReadMem i
        | 7 => s.dbWriteMem i
        | 8 => s.dbReadPhys c
        | _ => s.dbWritePhys c

/-- A store of `op` to DB_CMD, carried out. -/
def State.dbCommand (s : State) (op : Nat) : State := (s.dbCmdStore op).serveDb

def runHalt (s : State) : State := s.dbCommand 1
def runResume (s : State) : State := s.dbCommand 2
def runStep (s : State) : State := s.dbCommand 3
def runRdreg (s : State) : State := s.dbCommand 4
def runWrreg (s : State) : State := s.dbCommand 5
def runRdmem (s : State) : State := s.dbCommand 6
def runWrmem (s : State) : State := s.dbCommand 7
def runRdphy (s : State) : State := s.dbCommand 8
def runWrphy (s : State) : State := s.dbCommand 9

/-! ## DB_DCMD (R548) -/

/-- The cores of a pair are powered for a self-test of DIAG, whose verdict is still to come. -/
def State.startSelfTest (s : State) (k : Nat) : State :=
  let code := if s.pairState k = lsFenced then 1 else if s.survivor k = 2 * k then 2 else 3
  let t := s.setTap { s.tap with selfTest := Tab.set 0 s.tap.selfTest k code }
  ((t.setDom (2 * k) 1).setDom (2 * k + 1) 1).fset Reg.DB_RES_DONE 0

/-- A store to DB_DCMD under DIAG: OP 1 tests a FENCED or HALF pair (R548). -/
def State.dcmdStore (s : State) (op k : Nat) : State :=
  if !s.fbit Reg.DB_RES_DONE then (s.flag Reg.DB_RES_BUSYHIT Reg.DB_RES_BUSYHIT_MORE).dbRefusal stsBusy 0 op
  else if op ≠ 1 ∨ 24 ≤ k then s.dbRefuse 0 op stsBadArg
  else if s.pairState k = lsFenced ∨ s.pairState k = lsHalf then s.startSelfTest k
  else s.dbRefuse (s.pairPart k) op stsConflict

/-- The verdict of a self-test of DIAG: FAILM and FAILC show it, and the pair stays as it was (R548). -/
def State.dcmdVerdict (s : State) (k : Nat) (failM failC : Bool) : State :=
  let code := Tab.get 0 s.tap.selfTest k
  let s1 := (s.fset (Reg.LS_STAT_FAILM k) (b2n failM)).fset (Reg.LS_STAT_FAILC k) (b2n failC)
  let s2 := (s1.setDom (2 * k) (if code = 2 then 1 else 0)).setDom (2 * k + 1) (if code = 3 then 1 else 0)
  (s2.setTap { s2.tap with selfTest := Tab.set 0 s2.tap.selfTest k 0 }).dbResult stsOk 0 0

/-! ## The port (R540 to R544) -/

/-- Whether EXTEST, CLAMP and HIGHZ act (R541). -/
def State.pinsFree (s : State) : Bool :=
  decide (s.fget Reg.RK_PSTAT_LC = 0) || (s.boot.rom && (List.range 87).all fun d => decide (s.domState d = 0))

/-- What the boundary register does to the pins (R540, R541). -/
def State.pinDrive (s : State) : PinDrive :=
  if !s.pinsFree then .normal
  else if s.tap.ir = 0 then .extest
  else if s.tap.ir = 3 then .clamp
  else if s.tap.ir = 4 then .highz
  else .normal

/-- Whether a boundary cell drives only its off level under EXTEST (R541). -/
def limited : Cell → Bool
  | .bypassHold _ => true
  | .rail _ _ => true
  | .other _ => false

/-- The cells as EXTEST drives them. -/
def extestCells (l : List (Cell × Bool)) : List (Cell × Bool) := l.map fun x => (x.1, x.2 && !limited x.1)

/-- Whether DIAG is allowed (R540, R544). -/
def State.diagAllowed (s : State) : Bool :=
  let lc := s.debugLc
  decide (lc = 0 ∨ lc = 3) || s.tap.allowed

/-- A fresh challenge for the next capture of DBGAUTH (R544). -/
def State.newChallenge (s : State) : State :=
  s.freeNext.setTap { s.tap with challenge := Config.nonce s.freeCtr }

/-- TAP_UPDATE_IR (R540). -/
def runTapUpdateIr (code : BitVec 8) (s : State) : State :=
  let t := s.setTap { s.tap with ir := code }
  if code = 0x11 then t.newChallenge
  else if code = 0 ∧ t.pinsFree then t.setTap { t.tap with cells := extestCells t.tap.cells }
  else t

/-- An instruction is in the register, loaded where it was not. -/
def State.withIr (s : State) (code : BitVec 8) : State := if s.tap.ir = code then s else runTapUpdateIr code s

/-- EXTEST (R541): Update-DR. -/
def runExtest (cells : List (Cell × Bool)) (s : State) : State :=
  let t := s.withIr 0
  if t.pinsFree then t.setTap { t.tap with cells := extestCells cells } else t

/-- SAMPLE_PRELOAD (R540): Update-DR. -/
def runSamplePreload (cells : List (Cell × Bool)) (s : State) : State :=
  let t := s.withIr 1
  t.setTap { t.tap with cells := cells }

def runIdcode (s : State) : State := s.withIr 2
def runClamp (s : State) : State := s.withIr 3
def runHighz (s : State) : State := s.withIr 4
def runBypass (s : State) : State := s.withIr 0xff

/-- The value that Capture-DR loads (R540, R542, R544): 0 into the bypass register; the boundary register captures the pins. -/
def State.captureDr (s : State) : BitVec 256 :=
  if s.tap.ir = 2 then 0x13640B47
  else if s.tap.ir = 0x10 ∨ (s.tap.ir = 0x20 ∧ s.diagAllowed) then s.tap.acc.setWidth 256
  else if s.tap.ir = 0x11 ∧ s.boot.rom then s.tap.challenge.setWidth 256
  else 0

/-- The outcome of an access for the next capture (R542). -/
def State.setAcc (s : State) (status : Nat) (v : Word) : State :=
  s.setTap { s.tap with acc := BitVec.ofNat 52 (status * 2 ^ 49 + v.toNat) }

/-- A free value for the data of an access that reads none. -/
def State.accFree (s : State) (status : Nat) : State := s.freeNext.setAcc status (Config.freeWord s.freeCtr)

/-- On whose behalf the port stores. -/
def tapReq : Requester := { level := .m, secure := false, part := 0, ctx := 0, left := false }

/-- An access of DBGACC or DIAG to a DB_ word (R542, R549). -/
def State.tapAccess (s : State) (diag : Bool) (off : Nat) (wr : Bool) (v : Word) : State :=
  let a := Reg.DB_TGT + off
  if !diag && s.gateShut then s.setAcc 2 0
  else if diag ∧ off = 8 then
    if wr then (s.dcmdStore (bits v 0 2) (bits v 2 5)).accFree 0 else s.setAcc 0 0
  else if 7 ≤ off then s.accFree 3
  else if wr then ((s.dbStore tapReq (addrWord a) a v 0).serveDb).accFree 0
  else
    let r := s.regRead a
    r.1.setAcc 0 r.2

/-- DBGACC (R542): Update-DR. -/
def runDbgacc (off : BitVec 12) (wr : Bool) (data : Word) (s : State) : State := (s.withIr 0x10).tapAccess false off.toNat wr data

/-- DIAG (R540): Update-DR; where it is not allowed the port acts as under BYPASS. -/
def runDiag (off : BitVec 12) (wr : Bool) (data : Word) (s : State) : State :=
  let t := s.withIr 0x20
  if t.diagAllowed then t.tapAccess true off.toNat wr data else t

/-- The proof that DBGAUTH asks for (R544). -/
def dbgProof (secret : BitVec 256) (ns : BitVec 128) (cred : Nat) : BitVec 128 :=
  (Config.hmacSha256 secret (4 :: (octetsBe 16 ns.toNat ++ octetsBe 1 cred))).extractLsb' 128 128

/-- DBGAUTH (R544): Update-DR, while the secure core is in the ROM with no image accepted; the next capture has a new challenge. -/
def runDbgauth (proof : BitVec 128) (cred : Fin 64) (s : State) : State :=
  let t := s.withIr 0x11
  if !t.boot.rom then t
  else if 3 ≤ t.tap.fails then t.newChallenge
  else
    let ok := match Tab.get none t.dict.creds cred.val with
      | some c => decide (c.role = 3) && decide (proof = dbgProof c.secret t.tap.challenge cred.val)
      | none => false
    let u := t.newChallenge
    if ok then u.setTap { u.tap with allowed := true } else u.setTap { u.tap with fails := u.tap.fails + 1 }

/-- DB_DCMD_SELF_TEST (R548): a store of OP 1 to DB_DCMD, reached only under DIAG. -/
def runDbDcmdSelfTest (pair : BitVec 5) (s : State) : State := if s.diagAllowed then s.dcmdStore 1 pair.toNat else s

end Sys2Proof.Machine
end

