-- ==== Sys2Proof/Machine/Reset.lean ====
section
/-! DEFINITION. The warm reset (R518) and what happens once a command is done: a reset that it asked for, a debugger's command, and
loads that PCIe could not send. -/

namespace Sys2Proof.Machine

/-! ## Warm reset (R517, R518) -/

/-- Whether the register at `a` belongs to a block that a warm reset does not reset, or shows the state of something that it
keeps (R45, R299, R313, R342, R376, R471, R501, R516, R517). -/
def warmWhole (a : PWord) : Bool :=
  decide ((Reg.RK_PSTAT ≤ a ∧ a < Reg.CP_SVBASE 0 0) ∨ (Reg.NP_CFG ≤ a ∧ a < Reg.PD_CTL) ∨
    (Reg.MO_STAT ≤ a ∧ a < Reg.PX_CTL) ∨ (Reg.PM_REQ ≤ a ∧ a < Reg.TR_CTL) ∨ Reg.RK_CFG ≤ a ∨
    a = Reg.DX_LOCK ∨ a = Reg.DX_CSGEN ∨ a = Reg.PX_STAT ∨ a = Reg.FN_STAT) ||
  (List.range 24).any (fun k => decide (a = Reg.LS_STAT k)) || (List.range 6).any (fun c => decide (a = Reg.MC_CHSTAT c)) ||
  (List.range 17).any (fun f => decide (a = Reg.PX_FCTL f))

/-- One field after a warm reset: kept with the dagger, else its reset value. -/
def warmField (old : Word) (is : List Nat) (acc : Word) (f : FieldSpec) : Word :=
  setBits acc f.lo f.width (if f.keep then bits old f.lo f.width else rstValue f.rst is)

/-- What a register holds after a warm reset. -/
def warmWord (a : PWord) (w : Word) : Word :=
  if warmWhole a then w
  else match regAt a with
    | some (r, is) => r.fields.foldl (warmField w is) w
    | none => w

/-- Every register takes its value after a warm reset. -/
def State.warmRegs (s : State) : State := s.regs.foldl (fun t (a, w) => t.rset a (warmWord a w)) s

/-- The first `n` entries of a slot drain in order, up to one that its channel does not answer. -/
def State.drainFirst (i : Nat) : Nat → State → State
  | 0, s => s
  | n + 1, s =>
    match s.drainOne i with
    | (t, true) => State.drainFirst i n t
    | (t, false) => t

/-- Every undrained store drains, its errors delivered to no context (R296); one that its channel does not answer stays in its
buffer. -/
def State.warmDrain (s : State) : State :=
  (s.core.slots.map (·.1)).foldl (fun t i =>
    let x := t.slot i
    let u := t.setSlot i { x with sb := x.sb.map fun e => { e with req := { e.req with left := true } } }
    State.drainFirst i x.sb.length u) s

/-- Every run stops, and no context is in or on its way to a slot (R103, R111). -/
def State.warmSlots (s : State) : State :=
  (s.core.slots.map (·.1)).foldl (fun t i =>
    let u := t.vacateSlot i
    u.setSlot i { u.slot i with resv := none }) s

/-- An entry after a warm reset (R111, R113): IDLE, or still UNAVAIL; a FREE entry stays so, and loses its counts. -/
def warmEntry (e : Entry) : Entry :=
  if e.state = stFree then { (e.setEn false) with stat := 0, cnt := 0, max := 0 }
  else
    let keep := if e.state = stUnavail then BitVec.ofNat 36 (e.state + bits e.stat 13 3 * 2 ^ 13) else BitVec.ofNat 36 stIdle
    { (e.setEn false) with stat := keep, cnt := 0, max := 0, pend := false, due := 0, agreed := false, fresh := false, decided := 0 }

/-- The scheduler at a warm reset (R111): Firn images and entry words 0 to 4 are kept. -/
def State.warmSched (s : State) : State :=
  let t := s.entryList.foldl (fun t (c, e) => t.setEntry c (warmEntry e)) s
  { t with sch := { t.sch with commit := [], intlk := [], ports := [] } }

/-- The cores at a warm reset: L1s written back and invalid, TLBs and pins emptied (R261, R296). -/
def State.warmCores (s : State) : State :=
  let s1 := ((s.mem.l1.map fun (k, _) => k / 512).dedup).foldl State.flushL1 s
  let t : State := { s1 with core := { s1.core with tlb := [], pins := [], tlbis := [] } }
  (List.range 24).foldl State.countPins t

/-- A channel at a warm reset (R343): its write queue drains, and an ACTIVE channel goes to SELFREF. -/
def State.warmChannel (s : State) (c : Nat) : State :=
  if s.chState c ≠ chActive then s.drainWrites c
  else
    let t := s.enterSelfref c
    t.setChan c { t.chan c with warmSref := true }

/-- The DRAM controller at a warm reset; the command under way is dropped. -/
def State.warmDram (s : State) : State :=
  let t := (List.range 6).foldl State.warmChannel s
  let u := (List.range 6).foldl (fun t c => t.setChan c { t.chan c with measuring := [] }) t
  { u with dram := { u.dram with cmd := none } }

/-- Application entries of class VOLATILE take their defaults (R451, R472): the dictionary service holds no value for them. A key of
`apps` carries the class in bit 40. -/
def volatileKey : Nat := 2 ^ 40

/-- The dictionary at a warm reset (R472): sessions and their stage lists end, flips are dropped. -/
def State.warmDict (s : State) : State :=
  let t := s.endSessions (fun _ _ => true) 6
  t.setDict { t.dict with
    flips := [], toStore := [], mbox := [], udp := none
    apps := Tab.keep (fun k => decide (k < volatileKey)) t.dict.apps }

/-- Host queues take EN := 0 (R376). -/
def State.warmHost (s : State) : State :=
  (List.range 16).foldl (fun t p => (t.fset (Reg.NP_HRXC_EN p) 0).fset (Reg.NP_HTXC_EN p) 0) s

/-- The warm reset's first cycles (R518): what runs stops and drains, blocks take their values after a warm reset, the cause is
counted, and the running image of Rook starts anew. -/
def State.warmReset (s : State) : State :=
  let s1 := ((s.unhaltAll.warmDrain).warmSlots).warmSched
  let s2 := ((s1.warmCores).warmDram).pdWarmReset
  let s3 := (s2.warmHost.warmDict).traceDiscard
  let s4 := s3.warmRegs
  let s5 := (s4.setPx { s4.pcie with held := true }).setTap { s4.tap with cmd := none, stepSlot := none }
  let s6 := { s5 with rook := { s5.rook with waits := [], upd := none } }
  let s7 := (s6.fset Reg.PM_RSTC_CAUSE 7).fadd Reg.PM_RSTC_WARMCNT 1
  let s8 := s7.setPow { s7.pow with warm := true, rstReq := 0 }
  let s9 := s8.setBoot { s8.boot with done := 0, hand := none }
  s9.record tyBoot 4 0 (s9.fget Reg.RK_PSTAT_IMG) (s9.rget Reg.RK_VER)

/-- A warm reset is asked for on behalf of `req`: refused with BUSY during one (R519), and while the blocks are being released after a
cold reset (model's choice: the spec names the first alone). -/
def State.askWarm (s : State) (req : Requester) : State :=
  if s.boot.done < 6 then s.refusal stsBusy req.part.val req.ctx.val blkPM 1 0 else s.warmReset

/-- PM_RST_WARM (R516, R518): OP 1, from M. -/
def runPmRstWarm (req : Requester) (va : Word) (s : State) : State :=
  s.guarded req va Reg.PM_RST fun s => s.askWarm req

/-! ## Once a command is done -/

/-- A reset that a store to PM_RST asked for (R516). -/
def State.serveReset (s : State) : State :=
  let t := s.setPow { s.pow with rstReq := 0 }
  match s.pow.rstReq with
  | 1 => t.askWarm tapReq
  | 2 => t.coldReset 3
  | _ => s

/-- Loads in flight that PCIe gave up get their data error (R500, R501). -/
def State.serveOut (s : State) : State :=
  s.pcie.failed.foldl (fun t i =>
    match (t.slot i).outLoad with
    | some l => t.failLoad i l 3
    | none => t) (s.setPx { s.pcie with failed := [] })

end Sys2Proof.Machine
end

