-- ==== Sys2Proof/Machine/Entries.lean ====
section
/-! DEFINITION. The entries of the dictionary (spec/15_dictionary_roles_moraine.md, R449 to R455, R460, R463): value forms, the index
space, the view of a partition, register domains, and what a READ returns. -/

namespace Sys2Proof.Machine

/-! ## Values (R450) -/

/-- What an entry is (R449, R454): TYPE, PERS, EFF, RIGHTS, LEN, CONFREQ, MIN, MAX, DEFAULT and OFF. -/
structure EntryDesc where
  ty : Nat
  pers : Nat
  eff : Nat
  rights : Nat
  len : Nat
  confreq : Bool
  min : Word
  max : Word
  dflt : Word
  off : Nat
  deriving DecidableEq, Repr

/-- TYPE codes with a length that varies. -/
def tyOctets : Nat := 6
def tyString : Nat := 7
def tyDomain : Nat := 8

/-- Octets of a value of a type of fixed length. -/
def typeOctets (ty : Nat) : Nat := [1, 3, 5, 5, 5, 9].getD ty 0

/-- A signed value of `b` bits in `n` octets, sign-extended. -/
def signedOctets (n b : Nat) (w : Word) : List (BitVec 8) :=
  octetsBe n (sint w.toNat b % (2 ^ (8 * n) : Nat)).toNat

/-- A value as octets. One of OCTETS or STRING is held as one word for each octet, one of TIME72 as two words (R47). -/
def valueOctets (ty : Nat) (ws : List Word) : List (BitVec 8) :=
  let w := ws.headD 0
  match ty with
  | 0 => octetsBe 1 (bits w 0 1)
  | 1 => signedOctets 3 18 w
  | 2 => signedOctets 5 36 w
  | 3 | 4 => octetsBe 5 w.toNat
  | 5 => octetsBe 9 (w.toNat * 2 ^ 36 + (ws.getD 1 0).toNat)
  | 8 => ws.flatMap fun x => octetsBe 5 x.toNat
  | _ => ws.map fun x => BitVec.ofNat 8 x.toNat

/-- Well-formed UTF-8: `n` octets are to come, the next from `lo` to `hi`. -/
def utf8Ok : Nat → Nat → Nat → List Nat → Bool
  | n, _, _, [] => decide (n = 0)
  | 0, _, _, b :: t =>
    if b < 0x80 then utf8Ok 0 0 0 t
    else if 0xC2 ≤ b ∧ b ≤ 0xDF then utf8Ok 1 0x80 0xBF t
    else if b = 0xE0 then utf8Ok 2 0xA0 0xBF t
    else if b = 0xED then utf8Ok 2 0x80 0x9F t
    else if 0xE1 ≤ b ∧ b ≤ 0xEF then utf8Ok 2 0x80 0xBF t
    else if b = 0xF0 then utf8Ok 3 0x90 0xBF t
    else if b = 0xF4 then utf8Ok 3 0x80 0x8F t
    else if 0xF1 ≤ b ∧ b ≤ 0xF3 then utf8Ok 3 0x80 0xBF t
    else false
  | n + 1, lo, hi, b :: t => decide (lo ≤ b ∧ b ≤ hi) && utf8Ok n 0x80 0xBF t

/-- Octets in groups of five, each a word whose top 4 bits are 0. -/
def wordGroups : List (BitVec 8) → Option (List Word)
  | [] => some []
  | a :: b :: c :: d :: e :: t =>
    let v := octetsNat [a, b, c, d, e]
    if v < 2 ^ 36 then (wordGroups t).map (BitVec.ofNat 36 v :: ·) else none
  | _ => none

/-- A written value as words; none for a wrong length or a wrong form (R450, status TYPE). -/
def parseValue (ty len : Nat) (os : List (BitVec 8)) : Option (List Word) :=
  let v := octetsNat os
  let signed (n b : Nat) : Option (List Word) :=
    if sint v (8 * n) = sint v b then some [BitVec.ofInt 36 (sint v b)] else none
  if ty = tyDomain then (if os = [] ∨ 1280 < os.length then none else wordGroups os)
  else if tyOctets ≤ ty then
    (if len < os.length then none
     else if ty = tyString && !utf8Ok 0 0 0 (os.map (·.toNat)) then none
     else some (os.map fun o => o.setWidth 36))
  else if os.length ≠ typeOctets ty then none
  else match ty with
    | 0 => if v < 2 then some [BitVec.ofNat 36 v] else none
    | 1 => signed 3 18
    | 2 => signed 5 36
    | 5 => some [BitVec.ofNat 36 (v / 2 ^ 36), BitVec.ofNat 36 v]
    | _ => if v < 2 ^ 36 then some [BitVec.ofNat 36 v] else none

/-- The check on a written value (R450, status RANGE). -/
def EntryDesc.inRange (d : EntryDesc) (ws : List Word) : Bool :=
  let w := ws.headD 0
  match d.ty with
  | 1 | 2 => decide (d.min.toInt ≤ w.toInt ∧ w.toInt ≤ d.max.toInt)
  | 3 => decide (d.min.toNat ≤ w.toNat ∧ w.toNat ≤ d.max.toNat)
  | 5 => decide (bits (ws.getD 1 0) 2 30 < nsPerSec)
  | _ => true

/-- Words of a setting copy that a value takes (R454): one octet per nonet. -/
def copyWords (ty : Nat) (ws : List Word) : List Word :=
  if ty = tyOctets ∨ ty = tyString then
    (List.range ((ws.length + 3) / 4)).map fun i =>
      (List.range 4).foldl (fun w j => setBits w (9 * j) 8 (ws.getD (4 * i + j) 0).toNat) 0
  else ws

/-- The two words that a WRITE record gives a value (R475): the lower word first, or the first 72 bits of a hash. -/
def recordWords (ty : Nat) (ws : List Word) : List Word :=
  let os := valueOctets ty ws
  let n := if 9 < os.length then (Config.sha256 os).toNat / 2 ^ 184 else octetsNat os
  if ty < tyOctets ∨ (ty = tyDomain ∧ ws.length ≤ 1) then [ws.headD 0, ws.getD 1 0]
  else [BitVec.ofNat 36 n, BitVec.ofNat 36 (n / 2 ^ 36)]

/-! ## The index space (R452) -/

/-- What an index and a subindex name. -/
inductive DxEntry where
  | free
  | time
  | cred (n : Nat)
  | lock (p : Nat)
  | partInfo (p : Nat)
  | partNew
  | partPairs (p : Nat)
  | partDelete (p : Nat)
  | key (id : Nat)
  | base (i : Nat)
  | image (n : Nat)
  | alarm (a : Nat)
  | alarmSrc (a : Nat)
  | group
  | cal (c : Nat)
  | lmap (c : Nat)
  | mode (k : Nat)
  | domain (b : Nat)
  | moraine (ff : Bool)
  | setting
  | app
  deriving DecidableEq, Repr

/-- Rights of R454 by bit: operator R, W, installer R, W, maker R, W. -/
def rAll : Nat := 0b010101
def wOperator : Nat := 0b000010
def wInstaller : Nat := 0b001000
def wMaker : Nat := 0b100000

/-- An entry of one word, of a persistence class, effect class 0 and full range. -/
def plainDesc (ty pers rights : Nat) (max : Nat := 2 ^ 36 - 1) (min : Nat := 0) : EntryDesc :=
  { ty := ty, pers := pers, eff := 0, rights := rights, len := 1391, confreq := false, min := BitVec.ofNat 36 min,
    max := BitVec.ofNat 36 max, dflt := 0, off := 0 }

/-- The persistence class STORED. -/
def persStored : Nat := 2

/-- The entries below 4000h and the diagnostics (R452, R463). Where R452 gives no TYPE, PERS or EFF, the model's choice. -/
def fixedEntry (index sub : Nat) : Option (DxEntry × EntryDesc) :=
  if index = 0x10 ∧ sub = 0 then some (.time, plainDesc 5 0 (rAll + wInstaller))
  else if index ≤ 0xFF then some (.free, plainDesc 3 3 rAll)
  else if index = 0x100 then
    (if sub < 64 then some (.cred sub, plainDesc tyOctets persStored (rAll + wInstaller + wMaker)) else none)
  else if index = 0x200 then (if sub < 16 then some (.lock sub, plainDesc 0 persStored (rAll + wInstaller)) else none)
  else if index = 0x300 then (if sub < 16 then some (.partInfo sub, plainDesc 3 1 rAll) else none)
  else if index = 0x301 then (if sub = 0 then some (.partNew, plainDesc 3 1 (rAll + wInstaller) (2 ^ 17 - 1)) else none)
  else if index = 0x302 then
    (if sub < 16 then some (.partPairs sub, plainDesc 3 1 (rAll + wInstaller) (2 ^ 24 - 1)) else none)
  else if index = 0x303 then (if sub < 16 then some (.partDelete sub, plainDesc 0 1 (rAll + wInstaller)) else none)
  else if 0x400 ≤ index ∧ index < 0x404 then
    some (.key (256 * (index - 0x400) + sub), plainDesc tyOctets persStored (rAll + wInstaller))
  else if index = 0x500 then (if sub < 2 then some (.base sub, plainDesc 3 1 (rAll + wMaker)) else none)
  else if index = 0x501 then some (.image sub, plainDesc tyOctets 1 (rAll + wInstaller))
  else if index = 0x600 then some (.alarm sub, plainDesc 3 1 (rAll + wOperator) 1 1)
  else if index = 0x601 then some (.alarmSrc sub, plainDesc 3 1 (rAll + wInstaller) 1024)
  else if index = 0x700 then
    (if sub = 0 then some (.group, { plainDesc 3 persStored (rAll + wOperator) 7 with eff := 1 }) else none)
  else if index = 0x800 then (if sub < 6 then some (.cal sub, plainDesc tyDomain persStored (rAll + wInstaller)) else none)
  else if index = 0x801 then (if sub < 6 then some (.lmap sub, plainDesc 3 persStored (rAll + wInstaller) 1) else none)
  else if index = 0x802 then
    (if sub < 24 then some (.mode sub, { plainDesc 3 persStored (rAll + wInstaller) 3 1 with eff := 2, dflt := 1 }) else none)
  else if 0x1000 ≤ index ∧ index < 0x1010 then
    (if sub = 0 then some (.domain (index - 0x1000), plainDesc tyDomain 1 (rAll + wInstaller + wMaker)) else none)
  else if index = 0x1100 then (if sub < 2 then some (.moraine (decide (sub = 1)), plainDesc tyOctets 1 rAll) else none)
  else if 0xA000 ≤ index ∧ index < 0xB000 then some (.free, plainDesc 3 1 (0b010000 + wMaker))
  else none

/-- The descriptor of an application entry (R454), read from the first word of its eight. -/
def descOf (ws : List Word) : EntryDesc :=
  let w0 := ws.getD 0 0
  let w1 := ws.getD 1 0
  { ty := bits w0 8 4, pers := bits w0 6 2, eff := bits w0 4 2, rights := bits w1 0 6, len := bits w1 6 12, confreq := bitAt w1 18,
    min := ws.getD 2 0, max := ws.getD 3 0, dflt := ws.getD 4 0, off := bits (ws.getD 5 0) 0 12 }

/-- Whether a descriptor's fields are ones that R450, R451 and R454 define. -/
def EntryDesc.ok (d : EntryDesc) : Bool :=
  decide (d.ty < tyDomain ∧ d.eff < 3) && (decide (d.eff ≠ 2) || decide (d.pers = persStored))

/-- The descriptors of partition `p`, with their index and subindex. -/
def State.descs (s : State) (p : Nat) : List ((Nat × Nat) × EntryDesc) :=
  (List.range (s.fget (Reg.DX_ATC_COUNT p))).map fun i =>
    let ws := (List.range 8).map fun j => s.peek (16 * s.fget (Reg.DX_ATB_BASE p) + 8 * i + j)
    ((bits (ws.getD 0 0) 20 16, bits (ws.getD 0 0) 12 8), descOf ws)

/-- An application entry of partition `p`: none where a later descriptor repeats it (R454). -/
def State.appEntry (s : State) (p index sub : Nat) : Option (DxEntry × EntryDesc) :=
  match (s.descs p).filter fun x => decide (x.1 = (index, sub)) with
  | [x] => if x.2.ok then some (if x.2.eff = 1 then .setting else .app, x.2) else none
  | _ => none

/-- What a session of partition `p` sees beside the register domains (R460). -/
def seenBy (p : Nat) : DxEntry → Bool
  | .free | .time | .alarm _ | .alarmSrc _ | .group | .domain _ | .moraine _ | .setting | .app => true
  | .lock q => decide (p = 0 ∨ q = p)
  | _ => decide (p = 0)

/-- The entry that an index and a subindex name in the view of partition `p` (R452, R454, R460). -/
def State.entryOf (s : State) (p index sub : Nat) : Option (DxEntry × EntryDesc) :=
  let r := if 0x4000 ≤ index ∧ index < 0x8000 then s.appEntry p index sub else fixedEntry index sub
  match r with
  | some (e, d) => if seenBy p e && (decide (p = 0) || decide (index < 0xA000)) then some (e, d) else none
  | none => none

/-! ## Register domains (R453, R460) -/

/-- The first register of block `b` of R453. -/
def domainBase (b : Nat) : PWord :=
  [Reg.CP_SVBASE 0 0, Reg.AN_TB_CFG, Reg.SC_CFG, 68685922560, Reg.TL_WB 0 0, Reg.CH_CFG, Reg.LS_EVT, Reg.MC_MAP, Reg.NP_CFG,
   Reg.PD_CTL, Reg.RK_PSTAT, Reg.DX_CFG, Reg.MO_STAT, Reg.PX_CTL, Reg.PM_REQ, Reg.TR_CTL].getD b 0

/-- The words that block `b` spans in the device region. -/
def domainSpan (b : Nat) : Nat :=
  [16384, 4096, 32768 + 16 * 32768, 256, 16384, 8192, 8192, 65536, 65536, 65536, 4].getD b 65536

/-- The register at offset `o` of a domain in the view of partition `p`, and whether the view is read only. -/
def State.viewOffset (s : State) (p b o : Nat) : Option (PWord × Bool) :=
  if p = 0 then (if o < domainSpan b then some (domainBase b + o, decide (b = 10)) else none)
  else match b with
    | 0 => if o < 256 then some (Reg.CP_SVBASE p 0 + o, false) else none
    | 1 => if o < 32 then some (Reg.AN_VP_ANG p 0 + o, false) else none
    | 2 =>
      if o < 16 then some (Reg.SC_CMD p + o, false)
      else if 32768 ≤ o ∧ o < 65536 then some (Reg.SC_CFG + o + 32768 * p, false)
      else none
    | 4 =>
      if o < 64 then some (Reg.TL_WB p 0 + o, true)
      else if 1088 ≤ o ∧ o < 1088 + 16 * 48 ∧ s.pairOwner ((o - 1088) / 32) = p then some (Reg.TL_WB 0 0 + o, false)
      else none
    | 8 => if o < 16 then some (Reg.NP_HRXB p + o, false) else none
    | 9 =>
      let a := Reg.PD_CTL + o
      if Reg.PD_GPB 0 ≤ a ∧ a < Reg.PD_DOB 8 ∧ s.partOf (bits (s.rget a) 0 12) = some p then some (a, true) else none
    | _ => none

/-- The register at an offset where one exists. -/
def State.domainAt (s : State) (p b o : Nat) : Option (PWord × Bool) :=
  match s.viewOffset p b o with
  | some (a, ro) => if (regAt a).isSome || (decide (b = 2) && (entryWordAt (4 * a)).isSome) then some (a, ro) else none
  | none => none

/-- A request of the dictionary service on behalf of partition `p`, made for no context. -/
def dxReq (p : Nat) (ctx : Nat := 4095) : Requester :=
  { level := .m, secure := false, part := Fin.ofNat 16 p, ctx := Fin.ofNat 4096 ctx, left := true }

/-- A word of a register domain, as a load returns it (R7, R453). -/
def State.domainWord (s : State) (p : Nat) (a : PWord) : State × Word :=
  match s.deviceLoad (dxReq p) (4 * a) with
  | (t, some v) => (t, v)
  | (t, none) => (t, 0)

/-- Consecutive words of a domain from offset `o`; none where one of them does not exist in the view. -/
def State.domainWords (s : State) (p b : Nat) : Nat → Nat → Option (State × List Word)
  | _, 0 => some (s, [])
  | o, n + 1 =>
    match s.domainAt p b o with
    | none => none
    | some (a, _) =>
      let r := s.domainWord p a
      match State.domainWords r.1 p b (o + 1) n with
      | none => none
      | some (t, ws) => some (t, r.2 :: ws)

/-! ## Values in force and stored values -/

/-- The key of an entry of partition `p` in the tables of values. -/
def entryKey (p index sub : Nat) : Nat := 2 ^ 24 * p + 2 ^ 8 * index + sub

/-- The key of a register in the configuration store. -/
def regKey (a : PWord) : Nat := 2 ^ 44 + a

/-- The key of a setting's value in group `g`, and in the configuration store. -/
def setKey (p g index sub : Nat) : Nat := entryKey (8 * p + g) index sub
def storedSet (p g index sub : Nat) : Nat := 2 ^ 46 + setKey p g index sub

/-- A value that nobody has written: the default (R449). -/
def EntryDesc.orDefault (d : EntryDesc) (ws : List Word) : List Word :=
  if ws ≠ [] then ws
  else if d.ty = tyOctets ∨ d.ty = tyString then [] else if d.ty = 5 then [0, 0] else [d.dflt]

/-- The key of an application entry's value in force: a VOLATILE one stands apart (R451). -/
def appKey (p index sub pers : Nat) : Nat := entryKey p index sub + (if pers = 0 then volatileKey else 0)

/-- The setting group in force for partition `p` (entry 0700h). -/
def State.activeGroup (s : State) (p : Nat) : Nat := Tab.get 0 s.dict.groups p

/-- The group that a GROUP octet names, none where it names none. -/
def State.groupOf (s : State) (p g : Nat) : Option Nat :=
  if g = 0xFF then some (s.activeGroup p) else if g < 8 then some g else none

/-- The value of a setting in a group. -/
def State.settingOf (s : State) (d : EntryDesc) (p g index sub : Nat) : List Word :=
  d.orDefault (Tab.get [] s.dict.settings (setKey p g index sub))

def State.storedOf (s : State) (k : Nat) : List Word := Tab.get [] s.dict.store k

/-- The pairs that partition `p` holds, bit k for pair k. -/
def State.pairsHeld (s : State) (p : Nat) : Nat :=
  (List.range 24).foldl (fun n k => if s.pairOwner k = p then n + 2 ^ k else n) 0

/-- A key as READ shows it, the value excepted: ALG, identifier, USE, START and EXPIRY. -/
def keyOctets : Option Key → List (BitVec 8)
  | none => []
  | some k =>
    let t (ns : Nat) : List Word := [(time72 ns 0).1, (time72 ns 0).2]
    octetsBe 1 k.alg ++ octetsBe 4 k.ident.toNat ++ octetsBe 1 k.use.toNat ++ valueOctets 5 (t k.start) ++
      valueOctets 5 (t k.expiry)

/-- The state of a key group: 0 no unexpired key, 1 a current key, 2 a current key and a successor. -/
def State.keyState (s : State) (id : Nat) : Nat :=
  let g := (s.keyGroup id).at s.nowNs
  match g.cur with
  | some k => if !k.alive s.nowNs then 0 else if g.succ.isSome then 2 else 1
  | none => 0

/-- Entry 0500h sub `i` (R524). -/
def State.baseWord (s : State) (i : Nat) : Word :=
  let run := decide (s.fget Reg.RK_PSTAT_IMG = i)
  let active := decide (s.boot.active = i)
  BitVec.ofNat 36 (Tab.get 0 s.boot.st i % 8 + 8 * b2n active + 16 * b2n run + 32 * (if active then s.boot.tries % 4 else 0) +
    128 * ((Config.imageHeader (Tab.get [] s.boot.flash i)).rollidx % 64))

/-- One slot as entry 1100h returns it (R481): the tag, the four words and the status; tag alone with status 1 where the record is
not the partition's. A continuation belongs to the partition of its head. -/
def moOctets (x : MoSlot) (shown : Bool) : List (BitVec 8) :=
  let r := x.read
  octetsBe 8 x.tag.toNat ++
    (if shown then r.2.flatMap (fun w => octetsBe 5 w.toNat) ++ octetsBe 1 r.1 else octetsBe 1 1)

/-- PART of the record that a slot belongs to: of its own word 2, or of the head before it, at most three slots back. -/
def recordPart (slot : Nat → MoSlot) : Nat → Nat → Option Nat
  | 0, _ => none
  | n + 1, i =>
    let x := slot i
    if tagCont x.tag then (if i = 0 then none else recordPart slot n (i - 1))
    else some (bits ((x.read).2.getD 2 0) 21 4)

/-- The slots that a read of entry 1100h returns, and READY = 0 or a SEQ not held as status 1 (R474, R481). -/
def State.moRead (s : State) (p : Nat) (ff : Bool) (offset count : Nat) : List (BitVec 8) :=
  let held := match s.mor.ring.find? fun x => decide (tagSeq x.2.tag % 2 ^ 32 = offset) with
    | some x => tagSeq x.2.tag
    | none => offset
  let slot (i : Nat) : MoSlot := if ff then s.moFf i else (s.selectedSlot false i).getD MoSlot.blank
  let first := if ff then offset else held
  (List.range count).flatMap fun k =>
    let i := first + k
    let missing := !s.fbit Reg.MO_STAT_READY || (!ff && (s.selectedSlot false i).isNone) || (ff && decide (4096 ≤ i))
    if missing then octetsBe 8 0 ++ octetsBe 1 1
    else moOctets (slot i) (decide (p = 0) || decide (recordPart slot 4 i = some p))

/-! ## READ -/

/-- What a READ returns: a status, PEND, and the value. -/
structure DxValue where
  status : Nat
  pend : Bool
  octets : List (BitVec 8)
  deriving DecidableEq, Repr

def dxOk (os : List (BitVec 8)) : DxValue := { status := stsOk, pend := false, octets := os }
def dxBad (status : Nat) : DxValue := { status := status, pend := false, octets := [] }

/-- Statuses of R469 beside those of R13. -/
def dxFull : Nat := 0x05
def dxDenied : Nat := 0x08
def dxNoService : Nat := 0x0A
def dxNoEntry : Nat := 0x10
def dxType : Nat := 0x11
def dxRange : Nat := 0x12
def dxNoSession : Nat := 0x13
def dxAuth : Nat := 0x14

/-- The part of an OCTETS or STRING value that OFFSET and COUNT name (R465). -/
def cutOctets (offset count : Nat) (os : List (BitVec 8)) : DxValue :=
  if 1024 < count then dxBad stsBadArg else dxOk ((os.drop offset).take count)

/-- Octets of an entry of variable length. -/
def State.octetsOf (s : State) (e : DxEntry) : List (BitVec 8) :=
  match e with
  | .cred n =>
    match Tab.get none s.dict.creds n with
    | none => []
    | some c => octetsBe 1 c.role ++ octetsBe 2 c.parts.toNat ++ octetsBe 1 (if c.locked then 2 else 1)
  | .key id =>
    let g := (s.keyGroup id).at s.nowNs
    octetsBe 1 (s.keyState id) ++ keyOctets g.cur ++ keyOctets g.succ
  | .image n => Tab.get [] s.boot.flash (2 + n)
  | _ => []

/-- The words of an entry of fixed length that is no application entry. -/
def State.wordsOf (s : State) (p : Nat) (e : DxEntry) : List Word :=
  match e with
  | .time => [s.stamp.1, s.stamp.2]
  | .lock q => [BitVec.ofNat 36 (b2n (s.locked q))]
  | .partInfo q => [if s.partExists q then BitVec.ofNat 36 (1 + 2 * s.pairsHeld q) else 0]
  | .partPairs q => [BitVec.ofNat 36 (s.pairsHeld q)]
  | .base i => [s.baseWord i]
  | .alarm a => [(Tab.get { src := none, state := 0 } s.dict.alarms (256 * p + a)).state]
  | .alarmSrc a => [BitVec.ofNat 36 ((Tab.get { src := none, state := 0 } s.dict.alarms (256 * p + a)).src.getD 1024)]
  | .group => [BitVec.ofNat 36 (s.activeGroup p)]
  | .lmap c => [(s.storedOf (entryKey 0 0x801 c)).headD 0]
  | .mode k => [(Tab.get [] s.dict.apps (entryKey 0 0x802 k)).headD 1]
  | _ => [0]

/-- The value of an application entry of class RESTART, or of 0802h, with PEND while a stored value differs (R451). -/
def State.restartValue (s : State) (d : EntryDesc) (key : Nat) : DxValue :=
  let now := d.orDefault (Tab.get [] s.dict.apps key)
  let kept := d.orDefault (s.storedOf key)
  { status := stsOk, pend := decide (kept ≠ now), octets := valueOctets d.ty now }

/-- A read of an entry in the view of partition `p` (R451 to R454, R460, R465). -/
def State.readEntryOf (s : State) (p index sub group offset count : Nat) (e : DxEntry) (d : EntryDesc) : State × DxValue :=
  let whole (v : DxValue) : DxValue :=
    if (d.ty = tyOctets ∨ d.ty = tyString) ∧ v.status = stsOk then { cutOctets offset count v.octets with pend := v.pend } else v
  match e with
  | .free => (s.freeNext, dxOk (valueOctets 3 [Config.freeWord s.freeCtr]))
  | .domain b =>
    if count = 0 ∨ 256 < count then (s, dxBad stsBadArg)
    else match s.domainWords p b offset count with
      | none => (s, dxBad dxNoEntry)
      | some (t, ws) => (t, dxOk (valueOctets tyDomain ws))
  | .cal c =>
    if count = 0 ∨ 24 < offset + count then (s, dxBad stsBadArg)
    else (s, dxOk (valueOctets tyDomain ((List.range count).map fun i => s.rget (Reg.MC_DLY c 0 0 + offset + i))))
  | .moraine ff => (s, if 48 < count then dxBad stsBadArg else dxOk (s.moRead p ff offset count))
  | .cred _ | .key _ | .image _ => (s, cutOctets offset count (s.octetsOf e))
  | .mode _ => (s, s.restartValue d (entryKey p index sub))
  | .setting =>
    match s.groupOf p group with
    | none => (s, dxBad stsBadArg)
    | some g => (s, whole (dxOk (valueOctets d.ty (s.settingOf d p g index sub))))
  | .app =>
    if d.eff = 2 then (s, whole (s.restartValue d (appKey p index sub d.pers)))
    else (s, whole (dxOk (valueOctets d.ty (d.orDefault (Tab.get [] s.dict.apps (appKey p index sub d.pers))))))
  | _ => (s, dxOk (valueOctets d.ty (s.wordsOf p e)))

end Sys2Proof.Machine
end

