-- ==== Sys2Proof/Machine/Effects.lean ====
section
/-! DEFINITION. What an accepted WRITE does to each kind of entry, and what refuses it at step 6 of R470 (R451 to R463, R524). -/

namespace Sys2Proof.Machine

/-- What a WRITE comes to at steps 6 and 8 of R470: refused with a status; or made, with the value its response carries, what it
waits for, and whether the configuration store is to be written. -/
inductive DxOut where
  | refused (status : Nat)
  | made (value : List (BitVec 8)) (wait : DxWait) (stored : Bool)
  deriving DecidableEq, Repr

def DxOut.done : DxOut := .made [] .none false
def DxOut.kept : DxOut := .made [] .none true

/-- A refusal leaves the state as it was. -/
def State.refuse (s : State) (status : Nat) : State × DxOut := (s, .refused status)

def State.storeValue (s : State) (k : Nat) (ws : List Word) : State :=
  s.setDict { s.dict with store := Tab.set [] s.dict.store k ws }

def State.setApp (s : State) (k : Nat) (ws : List Word) : State :=
  s.setDict { s.dict with apps := Tab.set [] s.dict.apps k ws }

def State.hung (s : State) : Bool := s.fbit Reg.RK_PSTAT_HUNG

/-! ## Registers (R453, R462) -/

/-- Where the completion of a command register shows (R453): its result register. -/
def resultReg (a : PWord) : Option PWord :=
  if Reg.SC_CMD 0 ≤ a ∧ a < Reg.SC_CMD 16 ∧ (a - Reg.SC_CMD 0) % 16 = 0 then some (a + 1)
  else if Reg.TL_WB 0 0 ≤ a ∧ a < Reg.TL_WB 16 0 then some Reg.TL_STAT
  else match arrIndex a (Reg.TL_PCMD 0) 16 48, arrIndex a (Reg.LS_CMD 0) 8 24 with
    | some n, _ => some (Reg.TL_PRES n)
    | _, some k => some (Reg.LS_RES k)
    | _, _ =>
      if a = Reg.CH_DCMD ∨ a = Reg.CH_LKCMD then some Reg.CH_RES
      else if a = Reg.MC_CMD then some Reg.MC_RES
      else if a = Reg.PD_CMD then some Reg.PD_RES
      else if a = Reg.PM_REQ then some Reg.PM_RES
      else if a = Reg.MO_RSEL_LO then some Reg.MO_RST
      else none

/-- Whether a result register shows the completion: WPEND at 0, else DONE. -/
def State.resDone (s : State) (a : PWord) : Bool :=
  if a = Reg.TL_STAT then !s.fbit Reg.TL_STAT_WPEND else if a = Reg.MO_RST then s.fbit Reg.MO_RST_DONE else bitAt (s.rget a) 4

/-- The status of a completion; a window or a read of the Moraine has none. -/
def State.resStatus (s : State) (a : PWord) : Nat :=
  if a = Reg.TL_STAT ∨ a = Reg.MO_RST then stsOk else bits (s.rget a) 0 4

/-- A context in no slot, for which a trial store is made; `but` is the one that the store may name. -/
def State.absentCtx (s : State) (but : Nat) : Nat :=
  ((List.range 387).map (4095 - ·)).find? (fun c => decide (c ≠ but) && (s.slotOf c).isNone) |>.getD 4095

/-- Whether a store of `v` to `a` for partition `p` would be refused (R6, R8, R13, R453): an error response or an asynchronous store
error, or a word that the store leaves unchanged. -/
def State.storeRefused (s : State) (p : Nat) (a : PWord) (v : Word) : Bool :=
  let c := s.absentCtx (16 * s.fget (Reg.SC_PRANGE_BASE p) + bits v 4 12)
  let s1 := s.setSlot 384 { Slot.empty with ctx := some c }
  let t := s1.deviceStore { dxReq p c with left := false } (addrWord a) (4 * a) v
  (t.slot 384).ase.isSome || (decide (s.storedWord .m a v 0 ≠ s.rget a) && decide (t.rget a = s.rget a))

/-- Ways that partition `q` has locked in the L2 of cluster `c`, and in the LLC. -/
def State.l2Ways (s : State) (q c : Nat) : Nat :=
  (List.range 4).foldl (fun n r => if s.fget (Reg.CH_L2C_PART c r) = q then n + s.fget (Reg.CH_L2C_WAYS c r) else n) 0

def State.llcWays (s : State) (q : Nat) : Nat :=
  (List.range 8).foldl (fun n r => if s.fget (Reg.CH_LLC_PART r) = q then n + s.fget (Reg.CH_LLC_WAYS r) else n) 0

/-- Software sources that partition `q` owns. -/
def State.ownedSources (s : State) (q : Nat) : Nat := ((List.range 512).filter fun i => decide (s.srcOwner (512 + i) = q)).length

/-- Enabled entries of a process-data table whose PART is `q`. -/
def State.enabledOf (s : State) (tbl q : Nat) : Nat :=
  let on (l : List Nat) : Nat := (l.filter fun i => decide (bits (s.peek (s.entryAt tbl i 0)) 0 4 = q)).length
  match tbl with
  | 0 => on ((s.pd.sv.filter fun (_, x) => decide (x.state ≠ 0)).map (·.1))
  | 2 => on ((s.pd.goose.filter fun (_, x) => decide (x.state ≠ 0)).map (·.1))
  | 3 => on ((s.pd.gpub.filter fun (_, x) => decide (x.state ≠ 0)).map (·.1))
  | 4 => on ((s.pd.spub.filter fun (_, x) => decide (x.state ≠ 0)).map (·.1))
  | _ => 0

/-- The quota of partition `q` for a process-data table. -/
def State.tableQuota (s : State) (tbl q : Nat) : Nat :=
  match tbl with
  | 0 => s.fget (Reg.DX_QTA_SVS q)
  | 2 => s.fget (Reg.DX_QTB_GSUB q)
  | 3 => s.fget (Reg.DX_QTB_GPUB q)
  | 4 => s.fget (Reg.DX_QTB_SPUB q)
  | _ => 4096

/-- Whether a store of `v` to `a` asks for more than a quota allows (R462). -/
def State.overQuota (s : State) (a : PWord) (v : Word) : Bool :=
  let t := s.rset a v
  if Reg.CH_L2B 0 0 ≤ a ∧ a < Reg.CH_L2B 12 0 then
    let c := (a - Reg.CH_L2B 0 0) / 8
    decide ((a - Reg.CH_L2B 0 0) % 2 = 1) && (let q := bits v 0 4; decide (s.fget (Reg.DX_QTA_L2W q) < t.l2Ways q c))
  else if Reg.CH_LLB 0 ≤ a ∧ a < Reg.CH_LLB 8 then
    decide ((a - Reg.CH_LLB 0) % 2 = 1) && (let q := bits v 0 4; decide (s.fget (Reg.DX_QTA_LLCW q) < t.llcWays q))
  else if Reg.SC_EVOWN 0 ≤ a ∧ a < Reg.SC_EVOWN 64 then
    (List.range 16).any fun q =>
      decide (s.ownedSources q < t.ownedSources q ∧ s.fget (Reg.DX_QTA_EVS q) < t.ownedSources q)
  else if a = Reg.PD_CMD ∧ bits v 0 3 = 1 then
    let tbl := bits v 3 3
    let q := bits (s.peek (s.entryAt tbl (bits v 6 12) 0)) 0 4
    decide (s.tableQuota tbl q < s.enabledOf tbl q + 1)
  else false

/-- Whether a register has an SH field, so that Rook stores it (R453). -/
def shReg (a : PWord) : Bool :=
  match regAt a with
  | some (r, is) => r.fields.any fun f => f.guard.isSh is
  | none => false

/-- Whether a register's word is STORED: it has a field that a store sets, and is no operand of a command (model's choice). -/
def regKept (a : PWord) : Bool :=
  match regAt a with
  | some (r, _) =>
    r.fields.any (fun f => decide (f.acc = .rw)) &&
      !decide (a = Reg.AN_SET_HI ∨ a = Reg.AN_SET_LO ∨ (Reg.MO_STAT ≤ a ∧ a < Reg.PX_CTL) ∨ (Reg.DB_TGT ≤ a ∧ a ≤ Reg.DB_DCMD))
  | none => false

/-- The RW fields of a register, of one word into another. -/
def rwFields (a : PWord) (w v : Word) : Word :=
  match regAt a with
  | some (r, _) => r.fields.foldl (fun acc f => if f.acc = .rw then setBits acc f.lo f.width (bits v f.lo f.width) else acc) w
  | none => w

/-- A store to a register for a session or an SHWRITE of partition `p`, refused whole where the block refuses it (R13, R453, R462). -/
def State.serviceStore (s : State) (p : Nat) (a : PWord) (v : Word) : State × DxOut :=
  let busy := match resultReg a with
    | some r => !s.resDone r && decide (r ≠ Reg.TL_STAT)
    | none => false
  if (s.storeGuard .m a).isSome then s.refuse stsConflict
  else if s.overQuota a v then s.refuse dxFull
  else if busy then s.refuse stsBusy
  else if s.storeRefused p a v then s.refuse stsConflict
  else
    let t := s.deviceStore (dxReq p) (addrWord a) (4 * a) v
    let kept := regKept a
    let u := if kept then t.storeValue (regKey a) [rwFields a 0 (t.rget a)] else t
    match resultReg a with
    | none => (u, .made [] .none kept)
    | some r =>
      if !t.resDone r then (u, .made [] (.reg r) kept)
      else if t.resStatus r ≠ stsOk then s.refuse (t.resStatus r)
      else (u, .made [] .none kept)

/-! ## Partitions (R463) -/

/-- Whether the contexts `lo` to `hi` − 1 are all FREE. -/
def State.allFree (s : State) (lo hi : Nat) : Bool :=
  s.entryList.all fun (c, e) => decide (e.state = stFree) || !decide (lo ≤ c ∧ c < hi)

/-- Ranges of 16 contexts: whether [b, b + n) and [c, c + m) share one. -/
def overlaps (b n c m : Nat) : Bool := decide (b < c + m ∧ c < b + n ∧ 0 < n ∧ 0 < m)

/-- 0301h: the lowest partition that does not exist is created with a range of contexts (R463). -/
def State.newPartition (s : State) (v : Word) : State × DxOut :=
  let b := bits v 0 8
  let n := bits v 8 9
  let b0 := s.fget (Reg.SC_PRANGE_BASE 0)
  let n0 := s.fget (Reg.SC_PRANGE_COUNT 0)
  match (List.range 16).find? fun p => !s.partExists p with
  | none => s.refuse dxFull
  | some q =>
    let cut := overlaps b n b0 n0
    let low := decide (b ≤ b0)
    let high := decide (b0 + n0 ≤ b + n)
    if n = 0 ∨ 256 < b + n then s.refuse stsBadArg
    else if !s.allFree (16 * b) (16 * (b + n)) ||
        (List.range 16).any (fun p => decide (p ≠ 0) && overlaps b n (s.fget (Reg.SC_PRANGE_BASE p)) (s.fget (Reg.SC_PRANGE_COUNT p))) ||
        (cut && !low && !high) then s.refuse stsConflict
    else
      let nb := if cut && low then b + n else b0
      let nn := if !cut then n0 else if low then b0 + n0 - (b + n) else b - b0
      let s1 := (s.fset (Reg.SC_PRANGE_BASE 0) nb).fset (Reg.SC_PRANGE_COUNT 0) nn
      let s2 := (s1.fset (Reg.SC_PRANGE_BASE q) b).fset (Reg.SC_PRANGE_COUNT q) n
      (s2.setDict { s2.dict with parts := s2.dict.parts ||| BitVec.ofNat 16 (2 ^ q) }, .made (octetsBe 1 q) .none false)

/-- Whether pair `k` may move (R463). -/
def State.pairMoves (s : State) (k : Nat) : Bool := !s.occupied (pairSlots k) && !s.homeUsed k

/-- 0302h: the pairs that partition `p` holds (R25, R261, R463). -/
def State.setPairs (s : State) (p : Nat) (v : Word) : State × DxOut :=
  let ks := (List.range 24).filter fun k => decide (bitAt v k = true) != decide (s.pairOwner k = p)
  if !s.partExists p || ks.any (fun k => !s.pairMoves k || (bitAt v k && decide (s.pairOwner k ≠ poolOwner))) then
    s.refuse stsConflict
  else (ks.foldl (fun t k => t.giveTo k (if bitAt v k then p else poolOwner)) s, .done)

/-- 0303h: a partition is deleted (R463). -/
def State.dropPartition (s : State) (p : Nat) (v : Word) : State × DxOut :=
  let b := 16 * s.fget (Reg.SC_PRANGE_BASE p)
  let n := 16 * s.fget (Reg.SC_PRANGE_COUNT p)
  if !bitAt v 0 then (s, .done)
  else if decide (p = 0) || !s.partExists p || !s.allFree b (b + n) || decide (s.pairsHeld p ≠ 0) ||
      (List.range 32).any (fun k => s.fbit (Reg.TL_WL_V p k)) || (List.range 5).any (fun t => decide (0 < s.enabledOf t p)) ||
      s.openSessions.any (fun n => decide (s.sessPart n = p)) then s.refuse stsConflict
  else
    let s1 := (s.fset (Reg.SC_PRANGE_BASE p) 0).fset (Reg.SC_PRANGE_COUNT p) 0
    (s1.setDict { s1.dict with parts := s1.dict.parts &&& ~~~ BitVec.ofNat 16 (2 ^ p) }, .done)

/-! ## Images, keys, credentials, locks, alarms -/

def State.setBootImage (s : State) (i st : Nat) : State := s.setBoot { s.boot with st := Tab.set 0 s.boot.st i st }

/-- RBK fuses blown up to ROLLIDX (R439). -/
def State.blowRbk (s : State) (n : Nat) : State :=
  let ones (k : Nat) : Nat := 2 ^ k - 1
  let s1 := s.rset (Reg.RK_FUSE 17) (s.rget (Reg.RK_FUSE 17) ||| BitVec.ofNat 36 (ones (Nat.min n 32)))
  let s2 := s1.rset (Reg.RK_FUSE 18) (s1.rget (Reg.RK_FUSE 18) ||| BitVec.ofNat 36 (ones (n - 32)))
  s2.fset Reg.RK_PSTAT_RBK (Nat.min s2.rbk 63)

/-- 0500h: a maker's write acts by the STATE it carries (R524). -/
def State.writeBase (s : State) (i : Nat) (v : Word) : State × DxOut :=
  let st := Tab.get 0 s.boot.st i
  let run := s.fget Reg.RK_PSTAT_IMG
  let roll := (Config.imageHeader (Tab.get [] s.boot.flash i)).rollidx
  match bits v 0 3 with
  | 0 =>
    if run = i ∨ s.boot.active = i then s.refuse stsConflict
    else
      let t := s.setBootImage i 0
      (t.setBoot { t.boot with flash := Tab.set [] t.boot.flash i [] }, .done)
  | 2 =>
    if s.boot.hand.isSome then s.refuse stsBusy
    else if run = i ∨ (st ≠ 1 ∧ st ≠ 3) ∨ roll < s.fget Reg.RK_PSTAT_RBK ∨ (st ≠ 3 ∧ Tab.get 0 s.boot.st run ≠ 3) then
      s.refuse stsConflict
    else
      let t := if st = 1 then (s.setBootImage i 2).setBoot { (s.setBootImage i 2).boot with tries := 1 } else s
      (t.setBoot { t.boot with active := i, hand := some i }, .done)
  | 3 =>
    if run = i ∧ st = 2 then ((s.setBootImage i 3).blowRbk roll, .done) else s.refuse stsConflict
  | _ => s.refuse stsBadArg

/-- The octets of a key enrolment (model's choice): ALG, identifier, USE, START, EXPIRY, value. -/
def parseKey (os : List (BitVec 8)) : Option Key :=
  let n (i k : Nat) : Nat := octetsNat ((os.drop i).take k)
  let t (i : Nat) : Nat := time72Ns (BitVec.ofNat 36 (n i 9 / 2 ^ 36)) (BitVec.ofNat 36 (n i 9))
  if os.length ≠ 56 then none
  else some { alg := n 0 1, ident := BitVec.ofNat 32 (n 1 4), use := BitVec.ofNat 3 (n 5 1), start := t 6, expiry := t 15,
              value := BitVec.ofNat 256 (n 24 32) }

/-- A key is enrolled (R435): the successor, or the current key when the group has none. -/
def State.enrol (s : State) (id : Nat) (k : Key) : State :=
  let g := (s.keyGroup id).at s.nowNs
  match g.cur with
  | some c =>
    if c.alive s.nowNs then s.setKeyGroup id { cur := some c, succ := some k }
    else (s.setKeyGroup id { cur := some k, succ := g.succ }).keysHeld
  | none => (s.setKeyGroup id { cur := some k, succ := g.succ }).keysHeld

/-- The octets of a credential (model's choice): ROLE, partitions, secret; no octets remove it. -/
def parseCred (os : List (BitVec 8)) : Option (Option Cred) :=
  let n (i k : Nat) : Nat := octetsNat ((os.drop i).take k)
  if os = [] then some none
  else if os.length ≠ 35 then none
  else some (some { role := n 0 1, parts := BitVec.ofNat 16 (n 1 2), secret := BitVec.ofNat 256 (n 3 32), fails := [], locked := false })

def State.cred (s : State) (n : Nat) : Option Cred := Tab.get none s.dict.creds n
def State.setCred (s : State) (n : Nat) (c : Option Cred) : State :=
  s.setDict { s.dict with creds := Tab.set none s.dict.creds n c }

/-- Whether ROLE may write credential `n` with these octets (R452). -/
def State.mayCred (s : State) (role n : Nat) (os : List (BitVec 8)) : Bool :=
  let own (r : Nat) : Bool := if role = 3 then decide (r = 3) else decide (r ≠ 3)
  (match s.cred n with
   | some c => own c.role
   | none => true) &&
  (match parseCred os with
   | some (some c) => own c.role
   | _ => true)

/-- The lock of partition `q` is committed or released (R459). -/
def State.setLock (s : State) (q : Nat) (on : Bool) : State :=
  let v := setBits (s.rget Reg.DX_LOCK) q 1 (b2n on)
  let t := s.rset Reg.DX_LOCK v
  if s.locked q = on then t else t.raise 115

/-- The alarm that an operator acknowledges (R461). -/
def Alarm.ack (a : Alarm) : Alarm := { a with state := setBits a.state 0 2 2 }

def Alarm.none : Alarm := { src := Option.none, state := 0 }

def State.setAlarm (s : State) (k : Nat) (f : Alarm → Alarm) : State :=
  s.setDict { s.dict with alarms := Tab.set Alarm.none s.dict.alarms k (f (Tab.get Alarm.none s.dict.alarms k)) }

/-- 0800h: words of a channel's calibration, stored and put into MC_DLY registers (R522, R452). -/
def State.writeCal (s : State) (p c o : Nat) : List Word → State × DxOut
  | [] => (s, .kept)
  | v :: vs =>
    match s.serviceStore p (Reg.MC_DLY c 0 0 + o) v with
    | (t, .made _ _ _) => State.writeCal t p c (o + 1) vs
    | r => r

/-- Whether a WRITE needs the secure core (R453, R470, R471). -/
def needsRook (a : Option PWord) (e : DxEntry) (d : EntryDesc) : Bool :=
  decide (d.pers = persStored) || (match e, a with
    | .cred _, _ | .key _, _ | .base _, _ | .image _, _ => true
    | .domain _, some r => shReg r || regKept r
    | _, _ => false)

/-- A WRITE of a fixed entry or an application entry that is no setting: steps 6 and 8 of R470. -/
def State.writeFixed (s : State) (p index sub offset : Nat) (e : DxEntry) (d : EntryDesc) (ws : List Word) (os : List (BitVec 8)) :
    State × DxOut :=
  let w := ws.headD 0
  match e with
  | .time =>
    if s.tbState ≠ 0 then s.refuse stsConflict
    else (((s.rset Reg.AN_SET_HI w).deviceStore (dxReq p) (addrWord Reg.AN_SET_LO) (4 * Reg.AN_SET_LO) (ws.getD 1 0)), .done)
  | .cred n =>
    match parseCred os with
    | some c => (s.setCred n c, .kept)
    | none => s.refuse dxType
  | .lock q => ((s.setLock q (bitAt w 0)).storeValue (entryKey 0 0x200 q) [w], .kept)
  | .partNew => s.newPartition w
  | .partPairs q => s.setPairs q w
  | .partDelete q => s.dropPartition q w
  | .key id =>
    match parseKey os with
    | some k => if k.alg = 0 ∨ 7 < k.alg then s.refuse dxRange else (s.enrol id k, .kept)
    | none => s.refuse dxType
  | .base i => s.writeBase i w
  | .image n =>
    let old := Tab.get [] s.boot.flash (2 + n)
    let new := old.take offset ++ List.replicate (offset - old.length) 0xFF ++ os ++ old.drop (offset + os.length)
    (s.setBoot { s.boot with flash := Tab.set [] s.boot.flash (2 + n) new }, .done)
  | .alarm a => (s.setAlarm (256 * p + a) Alarm.ack, .done)
  | .alarmSrc a =>
    (s.setAlarm (256 * p + a) fun x => { x with src := if w.toNat < 1024 then some w.toNat else Option.none }, .done)
  | .cal c => if 24 < offset + ws.length then s.refuse stsBadArg else s.writeCal p c offset ws
  | .lmap c => (s.storeValue (entryKey 0 0x801 c) [w], .kept)
  | .mode k => (s.storeValue (entryKey 0 0x802 k) [w], .kept)
  | .domain b =>
    match s.domainAt p b offset with
    | some (a, _) => s.serviceStore p a w
    | none => s.refuse dxNoEntry
  | .app =>
    let k := appKey p index sub d.pers
    let new :=
      if d.ty = tyOctets ∨ d.ty = tyString then
        let old := d.orDefault (Tab.get [] s.dict.apps k)
        old.take offset ++ List.replicate (offset - old.length) 0 ++ ws ++ old.drop (offset + ws.length)
      else ws
    if d.len < new.length ∧ (d.ty = tyOctets ∨ d.ty = tyString) then s.refuse dxType
    else if d.eff = 2 then (s.storeValue k new, .kept)
    else if d.pers = persStored then ((s.setApp k new).storeValue k new, .kept)
    else (s.setApp k new, .done)
  | _ => (s, .done)

/-- The words that a WRITE replaces, as its record gives them (R470, R475). -/
def State.oldWords (s : State) (p index sub offset n : Nat) (e : DxEntry) (d : EntryDesc) : List Word :=
  match e with
  | .domain b =>
    match s.domainAt p b offset with
    | some (a, _) => [(s.domainWord p a).2]
    | none => [0]
  | .cal c => (List.range n).map fun i => s.rget (Reg.MC_DLY c 0 0 + offset + i)
  | .cred _ | .key _ | .image _ => (s.octetsOf e).map fun o => o.setWidth 36
  | .app => d.orDefault (Tab.get [] s.dict.apps (appKey p index sub d.pers))
  | .lmap _ | .mode _ => d.orDefault (s.storedOf (entryKey 0 index sub))
  | _ => s.wordsOf p e

end Sys2Proof.Machine
end

