-- ==== Sys2Proof/Machine/Dictionary.lean ====
section
/-! DEFINITION. The dictionary protocol (spec/15_dictionary_roles_moraine.md, R456, R457, R464 to R472): sessions, messages, setting
flips, the configuration store and the mailboxes. -/

namespace Sys2Proof.Machine

/-! ## Messages as octets (R465, R467) -/

/-- MTYPE values (R465). -/
def mtOpen : Nat := 0x01
def mtChallenge : Nat := 0x02
def mtProve : Nat := 0x03
def mtOpenAck : Nat := 0x04
def mtRead : Nat := 0x10
def mtWrite : Nat := 0x11
def mtApply : Nat := 0x12
def mtClose : Nat := 0x13
def mtPing : Nat := 0x14

/-- The header of a message. -/
def dxHeader (mtype sid flags seq plen : Nat) : List (BitVec 8) :=
  octetsBe 1 1 ++ octetsBe 1 mtype ++ octetsBe 1 sid ++ octetsBe 1 flags ++ octetsBe 4 seq ++ octetsBe 2 plen

/-- The IV of a message: SID, DIR, six zero octets, SEQ. -/
def dxIv (sid dir seq : Nat) : List (BitVec 8) := octetsBe 1 sid ++ octetsBe 1 dir ++ octetsBe 6 0 ++ octetsBe 4 seq

/-- The payload as sent, with its GCM tag where CONF is 1: AES-256-GCM, a tag of 16 octets. -/
def dxBody (conf : Bool) (ke : BitVec 256) (sid dir seq : Nat) (header payload : List (BitVec 8)) : List (BitVec 8) :=
  if conf then Config.gcmSeal ke 7 payload header (dxIv sid dir seq) else payload

/-- The trailer: the first 16 octets of H(KM, header ‖ payload ‖ tag). -/
def dxTrailer (km : BitVec 256) (header body : List (BitVec 8)) : BitVec 128 :=
  BitVec.ofNat 128 ((Config.hmacSha256 km (header ++ body)).toNat / 2 ^ 128)

/-- The trailer that a request of session `x` must carry. -/
def Session.trailerOf (x : Session) (m : DxHead) (mtype : Nat) (payload : List (BitVec 8)) : BitVec 128 :=
  let h := dxHeader mtype m.sid.val (b2n m.conf) m.seq.toNat payload.length
  dxTrailer x.km h (dxBody m.conf x.ke m.sid.val 0 m.seq.toNat h payload)

/-! ## Transports and responses (R464, R498) -/

/-- TR of DX_SESSn. -/
def trCode : Transport → Nat
  | .udp _ => 0
  | .pcie _ => 1
  | .mailbox _ => 2

/-- Whether a transport is enabled (R352, R464). -/
def State.trEnabled (s : State) : Transport → Bool
  | .udp x => s.fbit Reg.DX_CFG_UDPEN && bitAt (s.rget Reg.NP_CFG) (16 + x.val)
  | .pcie _ => s.fbit Reg.DX_CFG_PCIEN
  | .mailbox _ => s.fbit Reg.DX_CFG_MBXEN

/-- Whether two transports are the same mailbox, or both UDP. -/
def sameTransport : Transport → Transport → Bool
  | .udp _, .udp _ => true
  | .pcie f, .pcie g => decide (f = g)
  | .mailbox p, .mailbox q => decide (p = q)
  | _, _ => false

/-- The session whose request came by a mailbox and is in progress. -/
def State.sessionWaits (s : State) (tr : Transport) : Bool :=
  s.dict.sess.any fun (_, x) => match x with
    | some y => decide (y.wait ≠ .none) && (match y.tr with
      | some t => sameTransport t tr
      | none => false)
    | none => false

/-- Whether a message can come by a transport: a mailbox holds one message at a time (R464, R498). -/
def State.arrives (s : State) (tr : Transport) : Bool :=
  s.trEnabled tr && (match tr with
    | .udp _ => true
    | .pcie f => s.fbit (Reg.PX_FMBST_BUSY f.val) && !s.sessionWaits tr
    | .mailbox p => s.fbit (Reg.DX_MST_BUSY p.val) && decide (Tab.get [] s.dict.mbox p.val = []) && !s.sessionWaits tr)

/-- The octets of a message go out by a transport: over UDP; into the buffer of a function's mailbox (R498), dropped where R501 says
so; into a partition's mailbox when the service gets to it. -/
def State.sendDx (s : State) (tr : Transport) (os : List (BitVec 8)) : State :=
  match tr with
  | .udp x => s.setDict { s.dict with udp := some (x.val, os) }
  | .mailbox p => s.setDict { s.dict with mbox := Tab.set [] s.dict.mbox p.val os }
  | .pcie f =>
    let s1 := s.fset (Reg.PX_FMBST_BUSY f.val) 0
    if Tab.get false s.pcie.discard f.val then s1.setPx { s1.pcie with discard := Tab.set false s1.pcie.discard f.val false }
    else
      let s2 := s1.setPx { s1.pcie with mbuf := Tab.setRange 0 s1.pcie.mbuf (2048 * f.val) os }
      let s3 := (s2.fset (Reg.PX_FMBST_RLEN f.val) os.length).flag (Reg.PX_FMBST_DONE f.val) (Reg.PX_FMBST_DONE_MORE f.val)
      if s3.fbit (Reg.PX_FMBST_MBVEN f.val) then s3.requestVector f.val (s3.fget (Reg.PX_FMBST_MBVEC f.val)) else s3

/-- A message that gets no response leaves its mailbox free again. -/
def State.dropDx (s : State) (tr : Transport) : State :=
  match tr with
  | .udp _ => s
  | .mailbox p => s.fset (Reg.DX_MST_BUSY p.val) 0
  | .pcie f => s.fset (Reg.PX_FMBST_BUSY f.val) 0

/-- A response before the session is open: no trailer (R465). -/
def State.answerPlain (s : State) (tr : Transport) (mtype sid : Nat) (payload : List (BitVec 8)) : State :=
  s.sendDx tr (dxHeader mtype sid 2 0 payload.length ++ payload)

/-- The response to the request in progress of session `n`, and what follows it (R465, R467, R472). -/
def State.answer (s : State) (n mtype status : Nat) (value : List (BitVec 8)) (pend : Bool := false) : State :=
  match s.sess n with
  | none => s
  | some x =>
    match x.tr with
    | none => s
    | some tr =>
      let conf := s.fbit (Reg.DX_SESS_CONF n)
      let seq := (x.seqOut + 1) % 2 ^ 32
      let payload := octetsBe 1 status ++ value
      let h := dxHeader mtype n (b2n conf + 2 + 4 * b2n pend) seq payload.length
      let body := dxBody conf x.ke n 1 seq h payload
      let os := h ++ body ++ octetsBe 16 (dxTrailer x.km h body).toNat
      let s1 := (s.setSess n (some { x with seqOut := seq, lastResp := os, wait := .none, thenStore := false })).sendDx tr os
      if x.ending then s1.endSession n 4 else s1

/-! ## OPEN and PROVE (R466) -/

/-- Whether a transport allows a partition (R464, R498). -/
def State.trAllows (s : State) (tr : Transport) (part : Nat) : Bool :=
  match tr with
  | .udp _ => true
  | .mailbox p => decide (p.val = part)
  | .pcie f => decide (s.pxPart f.val = part)

/-- Sessions of partition `p`. -/
def State.sessionsOf (s : State) (p : Nat) : Nat := (s.openSessions.filter fun n => decide (s.sessPart n = p)).length

/-- A session ended or refused shows in DX_EVT.SFULL (R468). -/
def State.sessionsFull (s : State) : State := s.flag Reg.DX_EVT_SFULL Reg.DX_EVT_SFULL_MORE

/-- OPEN (R466, R472). -/
def runOpenSession (tr : Transport) (role part cred : BitVec 8) (confReq : Bool) (nc : BitVec 128) (s : State) : State :=
  let refuse (st : Nat) (t : State) : State := t.answerPlain tr mtOpen 0xFF (octetsBe 1 st)
  let p := part.toNat
  if !s.arrives tr then s
  else if s.hung then refuse dxNoService s
  else if s.fbit Reg.DX_CFG_CONFREQ && !confReq then refuse dxDenied s
  else match (if cred.toNat < 64 then s.cred cred.toNat else none) with
    | none => refuse dxAuth s
    | some c =>
      if c.locked ∨ c.role ≠ role.toNat then refuse dxAuth s
      else if 16 ≤ p ∨ ¬ c.parts.getLsbD p ∨ ¬ s.partExists p ∨ ¬ s.trAllows tr p then refuse dxDenied s
      else match (List.range 16).find? fun n => decide (s.sessState n = 0) with
        | none => refuse dxNoSession s.sessionsFull
        | some n =>
          if s.fget (Reg.DX_QTA_SESS p) ≤ s.sessionsOf p then refuse dxNoSession s.sessionsFull
          else
            let ns := Config.nonce s.freeCtr
            let w := 1 + 4 * (role.toNat % 4) + 16 * p + 256 * trCode tr + 1024 * cred.toNat + 65536 * b2n confReq
            let x : Session :=
              { tr := some tr, nc := nc, ns := ns, km := 0, ke := 0, seqIn := 0, seqOut := 0, lastTrailer := 0, lastResp := [],
                bad := 0, stage := [], wait := .none, mtype := mtOpen, ending := false, thenStore := false }
            let s1 := (s.freeNext.setSess n (some x)).rset (Reg.DX_SESS n) (BitVec.ofNat 36 w)
            s1.answerPlain tr mtChallenge n (octetsBe 1 stsOk ++ octetsBe 16 ns.toNat)

/-- A failed proof of a credential; after TRIES of them within LOCKT seconds it is locked out (R466). -/
def State.proofFailed (s : State) (n : Nat) : State :=
  let k := s.sessCred n
  let lockt := s.fget Reg.DX_CFG_LOCKT
  let tries := Nat.max 1 (s.fget Reg.DX_CFG_TRIES)
  let part := s.sessPart n
  let data := s.sessData n
  let s1 := ((s.flag Reg.DX_EVT_AUTHF Reg.DX_EVT_AUTHF_MORE).record tySession 3 part n data).raise 114
  match s1.cred k with
  | none => s1
  | some c =>
    let fails := s1.cyc :: c.fails.filter fun t => decide (s1.cyc < t + secCycles lockt)
    if tries ≤ fails.length then
      (((s1.setCred k (some { c with fails := [], locked := true })).flag Reg.DX_EVT_LOCKOUT Reg.DX_EVT_LOCKOUT_MORE).record
        tySession 5 part n data).raise 114
    else s1.setCred k (some { c with fails := fails })

/-- The proof that a challenged session awaits, and the keys that it gives (R466). -/
def State.proofOf (s : State) (n : Nat) (x : Session) (c : Cred) : BitVec 256 :=
  Config.hmacSha256 c.secret
    (octetsBe 1 1 ++ octetsBe 16 x.nc.toNat ++ octetsBe 16 x.ns.toNat ++ octetsBe 1 c.role ++ octetsBe 1 (s.sessPart n) ++
      octetsBe 1 (s.sessCred n) ++ octetsBe 1 (b2n (s.fbit (Reg.DX_SESS_CONF n))))

def sessionKey (c : Cred) (x : Session) (k : Nat) : BitVec 256 :=
  Config.hmacSha256 c.secret (octetsBe 1 k ++ octetsBe 16 x.nc.toNat ++ octetsBe 16 x.ns.toNat)

/-- PROVE (R466). -/
def runProve (tr : Transport) (sid : Fin 16) (proof : BitVec 256) (s : State) : State :=
  let n := sid.val
  match s.sess n, s.cred (s.sessCred n) with
  | some x, some c =>
    if !s.arrives tr then s
    else if decide (s.sessState n ≠ 1) || (match x.tr with
        | some t => !sameTransport t tr
        | none => true) then s.dropDx tr
    else if c.locked || decide (proof ≠ s.proofOf n x c) || decide (c.role ≠ s.sessRole n) then
      ((s.proofFailed n).freeSid n).answerPlain tr mtProve n (octetsBe 1 dxAuth)
    else
      let s1 := s.setSess n (some { x with tr := some tr, km := sessionKey c x 2, ke := sessionKey c x 3 })
      let s2 := ((s1.fset (Reg.DX_SESS_STATE n) 2).fset (Reg.DX_SESS_IDLE n) 0).nsess
      ((s2.record tySession 1 (s2.sessPart n) n (s2.sessData n)).raise 113).answer n mtOpenAck stsOk []
  | some _, none =>
    if !s.arrives tr then s
    else if s.sessState n ≠ 1 then s.dropDx tr
    else ((s.proofFailed n).freeSid n).answerPlain tr mtProve n (octetsBe 1 dxAuth)
  | none, _ => if s.arrives tr then s.dropDx tr else s

/-- PROVE_TIMEOUT (R466): the SID of a session still challenged is freed. -/
def runProveTimeout (sid : Fin 16) (s : State) : State := if s.sessState sid.val = 1 then s.freeSid sid.val else s

/-- LOCKOUT_EXPIRY (R466). -/
def runLockoutExpiry (cred : Fin 64) (s : State) : State :=
  match s.cred cred.val with
  | some c => if c.locked then s.setCred cred.val (some { c with locked := false, fails := [] }) else s
  | none => s

/-- SESSION_IDLE_TIMEOUT (R468, R472): a session with a request in progress ends once it is answered. -/
def runSessionIdleTimeout (sid : Fin 16) (s : State) : State :=
  match s.sess sid.val with
  | some x =>
    if s.sessState sid.val ≠ 2 ∨ s.fget (Reg.DX_SESS_IDLE sid.val) < Nat.max 1 (s.fget Reg.DX_CFG_IDLE) then s
    else if x.wait ≠ .none then s.setSess sid.val (some { x with ending := true })
    else s.endSession sid.val 4
  | none => s

/-! ## A request of an open session: step 1 of R470 (R467, R468, R472) -/

/-- Whether a session's credential or partition is no longer as it opened (R472). -/
def State.credGone (s : State) (n : Nat) (x : Session) : Bool :=
  !s.partExists (s.sessPart n) || (match s.cred (s.sessCred n) with
    | none => true
    | some c => decide (c.role ≠ s.sessRole n) || !c.parts.getLsbD (s.sessPart n) || decide (x.km ≠ sessionKey c x 2))

/-- Step 1: what a message must pass before it is a request of its session. -/
def State.dxRequest (s : State) (m : DxHead) (mtype : Nat) (payload : List (BitVec 8)) (f : Nat → State → State) : State :=
  let n := m.sid.val
  if !s.arrives m.tr then s
  else match s.sess n with
    | none => s.dropDx m.tr
    | some x =>
      if decide (s.sessState n ≠ 2 ∨ x.wait ≠ .none ∨ 1400 < payload.length) || (match x.tr with
          | some t => !sameTransport t m.tr
          | none => true) then s.dropDx m.tr
      else if m.seq.toNat = x.seqIn ∧ x.seqIn ≠ 0 ∧ m.trailer = x.lastTrailer then s.sendDx m.tr x.lastResp
      else if m.seq.toNat ≠ (x.seqIn + 1) % 2 ^ 32 then (s.flag Reg.DX_EVT_REPLAY Reg.DX_EVT_REPLAY_MORE).dropDx m.tr
      else if m.trailer ≠ x.trailerOf m mtype payload ∨ (m.conf ∧ ¬ m.tagOk) ∨ (s.fbit (Reg.DX_SESS_CONF n) ∧ ¬ m.conf) then
        let s1 := (s.setSess n (some { x with bad := x.bad + 1 })).dropDx m.tr
        if 7 ≤ x.bad then s1.endSession n 6 else s1
      else if s.credGone n x then (s.endSession n 6).dropDx m.tr
      else
        let s1 := s.setSess n (some { x with tr := some m.tr, seqIn := m.seq.toNat, lastTrailer := m.trailer, mtype := mtype })
        f n (s1.fset (Reg.DX_SESS_IDLE n) 0)

/-- PING (R465). -/
def runPing (m : DxHead) (s : State) : State := s.dxRequest m mtPing [] fun n t => t.answer n mtPing stsOk []

/-- CLOSE (R468): answered, then the session ends. -/
def runClose (m : DxHead) (s : State) : State :=
  s.dxRequest m mtClose [] fun n t => (t.answer n mtClose stsOk []).endSession n 2

/-- The octets of a READ's payload. -/
def readPayload (index sub group offset count : Nat) : List (BitVec 8) :=
  octetsBe 2 index ++ octetsBe 1 sub ++ octetsBe 1 group ++ octetsBe 4 offset ++ octetsBe 2 count

/-- Whether the role of session `n` may read an entry: its right, and confidentiality where the entry asks for it (R452, R454). -/
def State.mayRead (s : State) (n : Nat) (e : DxEntry) (d : EntryDesc) : Bool :=
  let conf := s.fbit (Reg.DX_SESS_CONF n)
  (BitVec.ofNat 36 d.rights).getLsbD (2 * (s.sessRole n - 1)) && (!d.confreq || conf) &&
    (match e with
     | .key _ => conf || decide (s.sessRole n ≠ 2)
     | _ => true)

/-- READ (R465). -/
def runRead (m : DxHead) (index : BitVec 16) (sub group : BitVec 8) (offset : BitVec 32) (count : BitVec 16) (s : State) : State :=
  s.dxRequest m mtRead (readPayload index.toNat sub.toNat group.toNat offset.toNat count.toNat) fun n t =>
    let p := t.sessPart n
    match t.entryOf p index.toNat sub.toNat with
    | none => t.answer n mtRead dxNoEntry []
    | some (e, d) =>
      if !t.mayRead n e d then t.answer n mtRead dxDenied []
      else
        let r := t.readEntryOf p index.toNat sub.toNat group.toNat offset.toNat count.toNat e d
        r.1.answer n mtRead r.2.status r.2.octets r.2.pend

/-! ## WRITE (R470) -/

/-- A refusal at step 2 or later (R470): its record, DX_EVT.REFUSE, and the response. -/
def State.refuseDx (s : State) (n mtype status blk index sub : Nat) : State :=
  ((s.refusal status (s.sessPart n) n blk mtype (index * 256 + sub)).flag Reg.DX_EVT_REFUSE Reg.DX_EVT_REFUSE_MORE).answer n mtype
    status []

/-- The block that a refusal of an entry names (R475): the domain's, else the dictionary's. -/
def entryBlock (e : Option DxEntry) : Nat :=
  match e with
  | some (.domain b) => b
  | some (.cal _) => blkMC
  | _ => blkDX

/-- Whether a store of `v` to LS_CMDk is one that only the maker makes (R300, R452). -/
def makerCmd (a : PWord) (v : Word) : Bool := (arrIndex a (Reg.LS_CMD 0) 8 24).isSome && decide (bits v 0 3 = 4 ∨ bits v 0 3 = 5)

/-- Whether the role of session `n` may write an entry (R451, R452, R453, R454). -/
def State.mayWrite (s : State) (n : Nat) (e : DxEntry) (d : EntryDesc) (at_ : Option (PWord × Bool)) (os : List (BitVec 8)) : Bool :=
  let role := s.sessRole n
  let conf := s.fbit (Reg.DX_SESS_CONF n)
  (BitVec.ofNat 36 d.rights).getLsbD (2 * (role - 1) + 1) && (!d.confreq || conf) && decide (d.pers ≠ 3) &&
    !(decide (role = 3) && decide (d.eff = 1)) &&
    (match e, at_ with
     | .domain _, some (a, ro) => !ro && (makerCmd a (BitVec.ofNat 36 (octetsNat os)) == decide (role = 3))
     | .key _, _ => conf
     | .cred k, _ => s.mayCred role k os
     | _, _ => true)

/-- The records of an accepted WRITE (R475): WRITE with the values and, for DOMAIN, OCTETS and STRING, the offset. -/
def State.writeRecord (s : State) (n index sub group offset : Nat) (stage : Bool) (d : EntryDesc) (old new : List Word) : State :=
  let code := s.sessRole n + 4 * s.sessTr n + 16 * b2n stage + 32 * d.eff
  let data := BitVec.ofNat 36 (index * 2 ^ 20 + sub * 2 ^ 12 + group * 16)
  let conts := [recordWords d.ty old ++ recordWords d.ty new] ++
    (if tyOctets ≤ d.ty then [[BitVec.ofNat 36 offset, 0, 0, 0]] else [])
  (s.record tyWrite code (s.sessPart n) n data conts).raise 112

/-- Whether the Moraine's queue has room for `k` slots of records (R470 step 7, R477). -/
def State.moRoom (s : State) (k : Nat) : Bool := !s.mor.powerFail && decide (s.mor.queue.length + k ≤ 253)

/-- Slots of a WRITE record. -/
def writeSlots (d : EntryDesc) : Nat := if tyOctets ≤ d.ty then 3 else 2

/-- Session `n` waits for the configuration store (R471). -/
def State.awaitStore (s : State) (n : Nat) : State :=
  match s.sess n with
  | none => s
  | some x =>
    let s1 := s.setSess n (some { x with wait := .store, thenStore := false })
    (s1.setDict { s1.dict with toStore := s1.dict.toStore ++ [n] }).fset Reg.DX_STAT_STORE 1

/-- What a write that was made comes to: steps 9 and 10 of R470. -/
def State.made (s : State) (n mtype : Nat) (value : List (BitVec 8)) (wait : DxWait) (stored : Bool) : State :=
  match wait with
  | .none => if stored then s.awaitStore n else s.answer n mtype stsOk value
  | w =>
    match s.sess n with
    | some x => s.setSess n (some { x with wait := w, thenStore := stored })
    | none => s

/-! ### Settings and flips (R455 to R457) -/

/-- A class-D run of partition `p` in RUNNING, named by its due point and the cycle of its decision. -/
def State.runningRuns (s : State) (p : Nat) : List (Nat × Nat × Word × Word) :=
  (s.entryList.filter fun (c, e) => s.inRange p c && !e.classG && decide (e.state = stRunning)).map fun (c, e) =>
    (c, e.decided, e.next0, e.next1)

/-- A write to a setting, or of the active group, put into the tables of values. -/
def State.applySet (s : State) (p : Nat) (w : SetWrite) : State :=
  if w.index = 0x700 then
    let g := w.toGroup
    let t := s.setDict { s.dict with groups := Tab.set 0 s.dict.groups p g }
    t.storeValue (2 ^ 46 + entryKey (8 * p) 0x700 0) [BitVec.ofNat 36 g]
  else
    let t := s.setDict { s.dict with settings := Tab.set [] s.dict.settings (setKey p w.toGroup w.index w.sub) w.words }
    if w.stored then t.storeValue (storedSet p w.toGroup w.index w.sub) w.words else t

/-- The words of a copy for group `g` (R454, R455): each setting's value at its OFF, 0 elsewhere. -/
def State.copyOf (s : State) (p g : Nat) : List Word :=
  let len := s.fget (Reg.DX_SPL_LEN p)
  let base : Tab Word := (s.descs p).foldl (fun t x =>
    if s.appEntry p x.1.1 x.1.2 = some (.setting, x.2) then
      Tab.setRange 0 t x.2.off (copyWords x.2.ty (s.settingOf x.2 p g x.1.1 x.1.2))
    else t) []
  (List.range len).map fun i => Tab.get 0 base i

/-- Steps 2 and 3 of a flip: the shadow copy and SEL, as agent 15 with the hint of DX_SPLp (R290, R455, R456). -/
def State.writePage (s : State) (p : Nat) (first : Bool) : State :=
  let len := s.fget (Reg.DX_SPL_LEN p)
  if len = 0 then s
  else
    let base := 16 * s.fget (Reg.DX_SPG_BASE p)
    let hint := hintOf (s.fget (Reg.DX_SPL_TCL p)) (s.fbit (Reg.DX_SPL_TCLV p))
    let sel := if first then 0 else s.peek base
    let live := if first then 0 else 1 - bits sel 0 1
    let cnt := if first then 0 else (bits sel 4 32 + 1) % 2 ^ 32
    let g := s.activeGroup p
    let t := s.engStore 15 hint (wordsAt (base + 16 + live * len) (s.copyOf p g))
    t.engStore 15 hint [(base, BitVec.ofNat 36 (16 * cnt + 2 * g + live))]

/-- A flip of partition `p` is asked for by session `n`: its step 1 begins. -/
def State.startFlip (s : State) (n p : Nat) (ws : List SetWrite) : State :=
  let fl : Flip := { sid := n, group := s.activeGroup p, changes := ws, stored := ws.any (·.stored) }
  (s.setDict { s.dict with flips := Tab.set none s.dict.flips p (some fl) }).fset (Reg.DX_SPL_FLIP p) 1

/-- FLIP (R456): once no class-D run that began before the last flip is in RUNNING. -/
def runFlip (p : Fin 16) (s : State) : State :=
  match Tab.get none s.dict.flips p.val with
  | none => s
  | some fl =>
    if (Tab.get [] s.dict.oldRuns p.val).any fun r => (s.runningRuns p.val).contains r then s
    else
      let s1 := (fl.changes.foldl (fun t w => t.applySet p.val w) s).writePage p.val false
      let s2 := s1.setDict { s1.dict with
        flips := Tab.set none s1.dict.flips p.val none
        oldRuns := Tab.set [] s1.dict.oldRuns p.val (s1.runningRuns p.val) }
      let s3 := s2.fset (Reg.DX_SPL_FLIP p.val) 0
      match s3.sess fl.sid with
      | some x =>
        if x.wait = .flip then
          (if x.thenStore then s3.awaitStore fl.sid else s3.answer fl.sid x.mtype stsOk [])
        else s3
      | none => s3

/-- A WRITE to a setting or of 0700h, from step 5 on (R456, R457). -/
def State.writeSetting (s : State) (n index sub group offset : Nat) (stage : Bool) (d : EntryDesc) (ws : List Word) : State :=
  let p := s.sessPart n
  let refuse (st : Nat) : State := s.refuseDx n mtWrite st blkDX index sub
  match s.groupOf p group, s.sess n with
  | some g, some x =>
    let isGroup := decide (index = 0x700)
    let old := if isGroup then [BitVec.ofNat 36 (s.activeGroup p)] else s.settingOf d p g index sub
    let new :=
      if !isGroup && decide (d.ty = tyOctets ∨ d.ty = tyString) then
        old.take offset ++ List.replicate (offset - old.length) 0 ++ ws ++ old.drop (offset + ws.length)
      else ws
    let stored := decide (d.pers = persStored)
    let w : SetWrite := { toGroup := if isGroup then (ws.headD 0).toNat else g, words := new, index := index, sub := sub,
                          group := group, stored := stored }
    let flips := isGroup || decide (g = s.activeGroup p)
    if !isGroup && decide (d.ty = tyOctets ∨ d.ty = tyString) && decide (d.len < new.length) then refuse dxType
    else if stored && s.hung then (refuse dxNoService).endSession n 6
    else if stage then
      (if 64 ≤ x.stage.length then refuse dxFull
       else (s.setSess n (some { x with stage := x.stage ++ [w] })).answer n mtWrite stsOk [])
    else if flips && (Tab.get none s.dict.flips p).isSome then refuse stsBusy
    else if !s.moRoom (writeSlots d) then refuse stsBusy
    else
      let s1 := s.writeRecord n index sub group offset false d old new
      if flips then (s1.startFlip n p [w]).made n mtWrite [] .flip stored
      else (s1.applySet p w).made n mtWrite [] .none stored
  | _, _ => refuse stsBadArg

/-- Slots of the records of staged writes. -/
def State.stagedSlots (s : State) (p : Nat) (ws : List SetWrite) : Nat :=
  (ws.map fun w => ((s.entryOf p w.index w.sub).map fun x => writeSlots x.2).getD 2).sum

/-- The records of staged writes, each with the value it replaces (R457, R470). -/
def State.stagedRecords (n p : Nat) : List SetWrite → State → State → State
  | [], _, s => s
  | w :: ws, trial, s =>
    let r := s.entryOf p w.index w.sub
    let d := match r with
      | some (_, d) => d
      | none => plainDesc 3 0 0
    let old := if w.index = 0x700 then [BitVec.ofNat 36 (trial.activeGroup p)] else trial.settingOf d p w.toGroup w.index w.sub
    State.stagedRecords n p ws (trial.applySet p w) (s.writeRecord n w.index w.sub w.group 0 true d old w.words)

/-- APPLY (R457, R470): every staged write in one flip. -/
def runApply (m : DxHead) (s : State) : State :=
  s.dxRequest m mtApply [] fun n t =>
    match t.sess n with
    | none => t
    | some x =>
      let p := t.sessPart n
      let stored := x.stage.any (·.stored)
      if stored && t.hung then (t.refuseDx n mtApply dxNoService blkDX 0 0).endSession n 6
      else if (Tab.get none t.dict.flips p).isSome ∨ !t.moRoom (t.stagedSlots p x.stage) then t.refuseDx n mtApply stsBusy blkDX 0 0
      else
        let t1 := State.stagedRecords n p x.stage t t
        let t2 := match t1.sess n with
          | some y => t1.setSess n (some { y with stage := [] })
          | none => t1
        (t2.startFlip n p x.stage).made n mtApply [] .flip stored

/-- The octets of a WRITE's payload. -/
def writePayload (index sub group offset : Nat) (stage : Bool) (value : List (BitVec 8)) : List (BitVec 8) :=
  octetsBe 2 index ++ octetsBe 1 sub ++ octetsBe 1 group ++ octetsBe 4 offset ++ octetsBe 1 (b2n stage) ++ value

/-- A WRITE of anything but a setting, from step 6 on. -/
def State.writeOther (s : State) (n index sub group offset : Nat) (e : DxEntry) (d : EntryDesc) (ws : List Word)
    (os : List (BitVec 8)) : State :=
  let p := s.sessPart n
  let refuse (st : Nat) : State := s.refuseDx n mtWrite st (entryBlock (some e)) index sub
  let a := match e with
    | .domain b => (s.domainAt p b offset).map (·.1)
    | _ => none
  if needsRook a e d && s.hung then (refuse dxNoService).endSession n 6
  else match s.writeFixed p index sub offset e d ws os with
    | (_, .refused st) => refuse st
    | (_, .made _ _ _) =>
      if !s.moRoom (writeSlots d) then refuse stsBusy
      else
        let s1 := s.writeRecord n index sub group offset false d (s.oldWords p index sub offset ws.length e d) ws
        match s1.writeFixed p index sub offset e d ws os with
        | (t, .made v w stored) => t.made n mtWrite v w stored
        | (_, .refused st) => refuse st

/-- WRITE (R470). -/
def runWrite (m : DxHead) (index : BitVec 16) (sub group : BitVec 8) (offset : BitVec 32) (stage : Bool) (value : List (BitVec 8))
    (s : State) : State :=
  let i := index.toNat
  let j := sub.toNat
  let o := offset.toNat
  s.dxRequest m mtWrite (writePayload i j group.toNat o stage value) fun n t =>
    let p := t.sessPart n
    let refuse (st : Nat) (e : Option DxEntry) : State := t.refuseDx n mtWrite st (entryBlock e) i j
    match t.entryOf p i j with
    | none => refuse dxNoEntry none
    | some (e, d) =>
      let at_ := match e with
        | .domain b => t.domainAt p b o
        | _ => none
      if (match e with
          | .domain _ => at_.isNone
          | _ => false) then refuse dxNoEntry (some e)
      else if !t.mayWrite n e d at_ value then refuse dxDenied (some e)
      else match parseValue d.ty d.len value with
        | none => refuse dxType (some e)
        | some ws =>
          if (match e with
              | .domain _ => decide (ws.length ≠ 1)
              | _ => false) then refuse dxType (some e)
          else if !d.inRange ws then refuse dxRange (some e)
          else match e with
            | .setting | .group => t.writeSetting n i j group.toNat o stage d ws
            | _ => if stage then refuse stsBadArg (some e) else t.writeOther n i j group.toNat o e d ws value

/-! ## Completions (R453, R464, R471) -/

/-- A session whose write waits for a register shows the completion (R453). -/
def State.serveSession (s : State) (n : Nat) : State :=
  match s.sess n with
  | some x =>
    match x.wait with
    | .reg a =>
      if !s.resDone a then s
      else if s.resStatus a ≠ stsOk then s.answer n x.mtype (s.resStatus a) []
      else if x.thenStore then s.awaitStore n
      else s.answer n x.mtype stsOk []
    | _ => s
  | none => s

/-- Every session whose write waits for a register. -/
def State.serveDx (s : State) : State := (s.dict.sess.map (·.1)).foldl State.serveSession s

/-- CONFIGURATION_STORE_WRITE (R471): the area with the lower generation takes a full copy with the next generation, and the
sessions that wait are answered. -/
def runConfigurationStoreWrite (s : State) : State :=
  if s.dict.toStore = [] ∨ s.hung then s
  else
    let d := s.dict
    let gen := (Nat.max d.gen d.gen2 + 1) % 2 ^ 36
    let d1 := if d.gen ≤ d.gen2 then { d with area := d.store, gen := gen } else { d with area2 := d.store, gen2 := gen }
    let s1 := (s.setDict { d1 with toStore := [] }).fset Reg.DX_STAT_STORE 0
    d.toStore.foldl (fun t n =>
      match t.sess n with
      | some x => if x.wait = .store then t.answer n x.mtype stsOk [] else t
      | none => t) s1

/-- MAILBOX_RESPONSE (R464): the service writes the response into the buffer as the partition, one octet per nonet, and ends the
request. -/
def runMailboxResponse (p : Fin 16) (s : State) : State :=
  let os := Tab.get [] s.dict.mbox p.val
  if !s.fbit (Reg.DX_MST_BUSY p.val) ∨ os = [] then s
  else
    let words := copyWords tyOctets (os.map fun o => o.setWidth 36)
    let r := s.engWrite 15 (some (engWho p.val)) none (wordsAt (16 * s.fget (Reg.DX_MBUF_BASE p.val)) words)
    let s1 := r.1.setDict { r.1.dict with mbox := Tab.set [] r.1.dict.mbox p.val [] }
    let s2 := ((s1.fset (Reg.DX_MST_RLEN p.val) os.length).fset (Reg.DX_MST_BUSY p.val) 0).flag (Reg.DX_MST_DONE p.val)
      (Reg.DX_MST_DONE_MORE p.val)
    s2.raiseOwned p.val (s2.fget (Reg.DX_MST_SRC p.val))

end Sys2Proof.Machine
end

