-- ==== Sys2Proof/Machine/Rook.lean ====
section
/-! DEFINITION. Rook and the secure island (spec/14_secure_world.md): monitor calls, requests to the secure core, CRYPT jobs, key
expiry, the secure watchdog, updates. -/

namespace Sys2Proof.Machine

/-! ## Monitor calls (R429 to R433) -/

/-- A monitor call under way in a slot: the level, world, partition and context that made it, and n0 to n3. -/
structure MonCall where
  level : Nat
  secure : Bool
  part : Nat
  ctx : Nat
  n : List Word
  deriving DecidableEq, Repr

def MonCall.arg (c : MonCall) (k : Nat) : Word := c.n.getD k 0

/-- Register n0 of a caller and those that follow it (R115). -/
def regN (k : Nat) : BitVec 5 := BitVec.ofNat 5 (24 + k)

/-- The call with number `num` that the context in slot `i` made by MCALL and that Rook has yet to carry out: the slot stands at M,
its M save set names the call, and nothing is posted for it. -/
def State.monCall (s : State) (i num : Nat) : Option MonCall :=
  match (s.slot i).ctx with
  | none => none
  | some c =>
    if s.level i = 3 ∧ bits (s.saved i 3 3) 0 6 = 0o21 ∧ (s.saved i 3 4).toNat = num ∧
        ¬ s.rook.waits.any (fun w => decide (w.slot = i) && w.live) then
      some { level := bits (s.saved i 3 2) 0 2, secure := bitAt (s.saved i 3 2) 2, part := s.slotPart i, ctx := c,
             n := (List.range 4).map fun k => s.reg i (regN k) }
    else none

/-- The call returns: status in n0, results in n1 to n3, and ERET at M (R155, R429). A refusal is recorded (R13). -/
def State.monReturn (s : State) (i num : Nat) (c : MonCall) (status : Nat) (results : List Word := []) : State :=
  let s1 := if status = stsOk then s else s.refusal status c.part c.ctx blkRK num (c.arg 0).toNat
  let s2 := s1.setReg i (regN 0) (BitVec.ofNat 36 status)
  let s3 := (results.mapIdx fun k v => (k + 1, v)).foldl (fun t (k, v) => t.setReg i (regN k) v) s2
  s3.returnFrom i 3

/-- A call without the secure core: its effect in one step, then its return (R431). -/
def State.monitor (s : State) (slot : Fin 384) (num : Nat) (f : MonCall → State → State × Nat × List Word) : State :=
  match s.monCall slot.val num with
  | none => s
  | some c =>
    match f c s with
    | (t, st, rs) => t.monReturn slot.val num c st rs

/-- A status that is no success leaves everything as it was. -/
def State.monFail (s : State) (status : Nat) : State × Nat × List Word := (s, status, [])

/-- VERSION (R429). -/
def runVersion (slot : Fin 384) (s : State) : State :=
  s.monitor slot 0 fun c t =>
    if c.level ≠ 1 ∧ c.level ≠ 2 then t.monFail dxDenied else (t, stsOk, [t.rget Reg.RK_VER, t.rget Reg.RK_PSTAT])

/-- KEYSTAT (R429). -/
def runKeystat (slot : Fin 384) (s : State) : State :=
  s.monitor slot 2 fun c t =>
    let id := (c.arg 0).toNat
    if c.level ≠ 1 ∧ c.level ≠ 2 then t.monFail dxDenied
    else if 1023 < id then t.monFail stsBadArg
    else
      let e := match ((t.keyGroup id).at t.nowNs).cur with
        | some k => time72 k.expiry 0
        | none => (0, 0)
      (t, stsOk, [BitVec.ofNat 36 (t.keyState id), e.1, e.2])

/-- HOLD (R440): Rook holds the crypto domain itself. -/
def runHold (slot : Fin 384) (s : State) : State :=
  s.monitor slot 5 fun c t =>
    let d := (c.arg 0).toNat
    let v := (c.arg 1).toNat
    if c.level ≠ 1 ∨ ¬ c.secure then t.monFail dxDenied
    else if 86 < d ∨ 1 < v then t.monFail stsBadArg
    else if d = 83 then t.monFail dxDenied
    else (t.fset ⟨Reg.RK_HELD (d / 36), d % 36, 1⟩ v, stsOk, [])

/-- PREDCLR (R442). -/
def runPredclr (slot : Fin 384) (s : State) : State :=
  s.monitor slot 6 fun c t =>
    let w := (c.arg 0).toNat
    let k := (c.arg 1).toNat
    if c.level ≠ 1 ∨ ¬ c.secure then t.monFail dxDenied
    else if 1 < w ∨ (47 < k ∧ k ≠ 63) then t.monFail stsBadArg
    else
      let cores := if k = 63 then List.range 48 else [k]
      (cores.foldl (fun u x => u.clearPred x fun e => e.secure == decide (w = 1)) t, stsOk, [])

/-! ### SHWRITE (R430) -/

/-- The physical address that n0 of SHWRITE names: device registers lie in the highest quarter of the space (R238). -/
def shAddr (n0 : Word) : Nat := 3 * 2 ^ 36 + n0.toNat

/-- Whether a register lies in the view of partition `p` (R460). -/
def State.seesReg (s : State) (p : Nat) (a : PWord) : Bool :=
  let page (b n : Nat) : Bool := decide (b ≤ a ∧ a < b + n)
  decide (p = 0) || page (Reg.CP_SVBASE p 0) 256 || page (Reg.AN_VP_ANG p 0) 32 || page (Reg.SC_CMD p) 16 ||
    page (Reg.NP_HRXB p) 16 || (page (Reg.TL_PCMD 0) (16 * 48) && decide (s.pairOwner ((a - Reg.TL_PCMD 0) / 32) = p))

/-- The block and offset of a register (R453). -/
def blockOffset (a : PWord) : Nat × Nat :=
  if Reg.RK_CFG ≤ a then (blkRK, a - Reg.RK_CFG)
  else match (List.range 16).find? fun b => decide (domainBase b ≤ a ∧ a < domainBase b + domainSpan b) with
    | some b => (b, a - domainBase b)
    | none => (0, 0)

/-- Whether session `n` is open and its role holds the right to a store of `v` to the register at `a` (R430, R441). -/
def State.shRight (s : State) (n : Nat) (a : PWord) (v : Word) : Bool :=
  decide (n < 16) && decide (s.sessState n = 2) && s.seesReg (s.sessPart n) a &&
    (if a = Reg.RK_DBG then
      decide (s.sessRole n = 3) || (decide (s.sessRole n = 2) && decide (bits v 1 1 ≤ s.fget Reg.RK_DBG_SDBG))
     else decide (s.sessRole n = 2))

/-- The record of an accepted SHWRITE (R430, R475): transport 3, the register as an entry of its domain. -/
def State.shRecord (s : State) (part : Nat) (sess : Option Nat) (a : PWord) (old new : Word) : State :=
  let role := match sess with
    | some n => s.sessRole n
    | none => 0
  let bo := blockOffset a
  (s.record tyWrite (role + 12) part (sess.getD 0o7777) (BitVec.ofNat 36 ((0x1000 + bo.1) * 2 ^ 20))
    [[old, 0, new, 0], [BitVec.ofNat 36 bo.2, 0, 0, 0]]).raise 112

/-- The store of an SHWRITE, refused or made. -/
def State.shStore (s : State) (part : Nat) (sess : Option Nat) (a : PWord) (v : Word) : State × Nat :=
  let old := s.rget a
  match s.serviceStore part a v with
  | (_, .refused st) => (s, st)
  | (t, .made _ _ _) => ((t.setDict { t.dict with store := s.dict.store }).shRecord part sess a old (t.rget a), stsOk)

/-- What stops an SHWRITE before its store: its status. -/
def State.shCheck (s : State) (c : MonCall) : Option Nat :=
  let pa := shAddr (c.arg 0)
  let a := pa / 4
  let h := (c.arg 2).toNat
  if c.level ≠ 1 ∧ c.level ≠ 2 then some dxDenied
  else if paIsland ≤ pa ∧ a ≠ Reg.RK_DBG then some dxDenied
  else if pa % 4 ≠ 0 ∨ (regAt a).isNone ∨ ¬ shReg a then some stsBadArg
  else if h = 0 then (if c.part = 0 ∧ ¬ c.secure ∧ ¬ s.locked 0 ∧ a ≠ Reg.RK_DBG then none else some dxDenied)
  else if ¬ s.shRight (h - 1) a (c.arg 1) then some dxDenied
  else if s.hung then some dxNoService
  else none

/-- A request is posted to the secure core, and the call waits (R433). -/
def State.post (s : State) (i num : Nat) (c : MonCall) : State :=
  { s with rook := { s.rook with waits := s.rook.waits ++
      [{ slot := i, ctx := c.ctx, part := c.part, secure := c.secure, call := num, args := c.n, live := true }] } }

/-- SHWRITE (R430): under a session it needs the secure core. -/
def runShwrite (slot : Fin 384) (s : State) : State :=
  match s.monCall slot.val 1 with
  | none => s
  | some c =>
    match s.shCheck c with
    | some st => s.monReturn slot.val 1 c st
    | none =>
      if c.arg 2 = 0 then
        let r := s.shStore c.part none (shAddr (c.arg 0) / 4) (c.arg 1)
        r.1.monReturn slot.val 1 c r.2
      else s.post slot.val 1 c

/-! ### UPDATE (R429, R524) -/

/-- Octets that `n` words of an image hold. -/
def imageOctets (ws : List Word) : List (BitVec 8) := ws.flatMap wordOctets

/-- What stops an UPDATE before it is posted. -/
def State.updCheck (s : State) (c : MonCall) : Option Nat :=
  let h := (c.arg 2).toNat
  let idle := 1 - s.fget Reg.RK_PSTAT_IMG
  if c.level ≠ 1 ∨ c.part ≠ 0 then some dxDenied
  else if h = 0 ∨ 16 < h ∨ s.sessState (h - 1) ≠ 2 ∨ s.sessRole (h - 1) ≠ 3 then some dxDenied
  else if (c.arg 0).toNat % 4 ≠ 0 ∨ 2 ^ 20 < (c.arg 1).toNat then some stsBadArg
  else if s.hung then some dxNoService
  else if s.fbit Reg.RK_PSTAT_UPD then some stsBusy
  else if s.boot.active = idle then some stsConflict
  else none

/-- UPDATE (R433, R524). -/
def runUpdate (slot : Fin 384) (s : State) : State :=
  match s.monCall slot.val 4 with
  | none => s
  | some c =>
    match s.updCheck c with
    | some st => s.monReturn slot.val 4 c st
    | none => s.post slot.val 4 c

/-- The secure core takes an UPDATE: the image that neither runs nor is ACTIVE is being written (R524); none while memory does not
answer. -/
def State.takeUpdate (s : State) (c : MonCall) : Option (State × Nat) :=
  match s.updCheck c with
  | some st => some (s, st)
  | none =>
    match s.engReads 15 (some (engWho c.part c.secure)) ((c.arg 0).toNat / 4) (c.arg 1).toNat with
    | (t, .ok ws) =>
      let i := 1 - t.fget Reg.RK_PSTAT_IMG
      let u := (t.setBootImage i 0).fset Reg.RK_PSTAT_UPD 1
      some ({ u with rook := { u.rook with upd := some (i, imageOctets ws) } }, stsOk)
    | (_, .wait) => none
    | (t, .window) => some (t, dxDenied)
    | (t, _) => some (t, stsBadArg)

/-- The effect of a posted request; none while memory does not answer. -/
def State.takeRequest (s : State) (w : MonWait) (c : MonCall) : Option (State × Nat) :=
  if w.call = 4 then s.takeUpdate c
  else match s.shCheck c with
    | some st => some (s, st)
    | none => some (s.shStore c.part (some ((c.arg 2).toNat - 1)) (shAddr (c.arg 0) / 4) (c.arg 1))

/-- The first posted request of a slot, and the requests without it. -/
def takeWait (i : Nat) : List MonWait → Option (MonWait × List MonWait)
  | [] => none
  | w :: t => if w.slot = i then some (w, t) else (takeWait i t).map fun r => (r.1, w :: r.2)

/-- Whether the call that posted a request still stands in its slot at M. -/
def State.callStands (s : State) (w : MonWait) : Bool :=
  w.live && decide ((s.slot w.slot).ctx = some w.ctx) && decide (s.level w.slot = 3)

/-- The caller of a posted request; only S calls UPDATE, and SHWRITE was checked when it was posted. -/
def MonWait.caller (w : MonWait) : MonCall := { level := 1, secure := w.secure, part := w.part, ctx := w.ctx, n := w.args }

/-- SECURE_CORE_ANSWER (R431, R433): the oldest request of the slot takes effect; the call returns, unless it was abandoned. -/
def runSecureCoreAnswer (slot : Fin 384) (s : State) : State :=
  if s.hung then s
  else match takeWait slot.val s.rook.waits with
    | none => s
    | some (w, rest) =>
      match State.takeRequest { s with rook := { s.rook with waits := rest } } w w.caller with
      | none => s
      | some r => if s.callStands w then r.1.monReturn slot.val w.call w.caller r.2 else r.1

/-- MONITOR_CALL_TIMEOUT (R433): the call returns NO_SERVICE. -/
def runMonitorCallTimeout (slot : Fin 384) (s : State) : State :=
  match takeWait slot.val s.rook.waits with
  | none => s
  | some (w, rest) =>
    if !s.callStands w then s
    else State.monReturn { s with rook := { s.rook with waits := rest } } slot.val w.call w.caller dxNoService

/-! ## Numbers that no call has (R429) -/

/-- A call whose number below 0o1000 is assigned to nothing returns BAD_ARG. When Rook gets to it the rule leaves open: in a cycle in
which no command waits (DESIGN CHOICE, log 7). -/
def State.refuseCall (s : State) (i : Nat) : State :=
  let num := (s.saved i 3 4).toNat
  if num < 7 ∨ 0o1000 ≤ num then s
  else match s.monCall i num with
    | none => s
    | some c => s.monReturn i num c stsBadArg

/-- One core cycle in which no command waits (log 6), and what Rook answers in it of itself. -/
def State.idle (s : State) : State :=
  let t := s.tick
  t.live fun t => (t.core.slots.map (·.1)).foldl State.refuseCall t

/-! ## CRYPT jobs (R434) -/

/-- Whether the descriptor of a CRYPT call lies in memory that does not answer. -/
def State.cryptWaits (s : State) (i : Nat) : Bool :=
  match s.monCall i 3 with
  | none => false
  | some c =>
    let a := (c.arg 0).toNat
    decide (c.level = 1 ∧ a % 32 = 0) && (match s.engReads 15 (some (engWho c.part c.secure)) (a / 4) 8 with
      | (_, .wait) => true
      | _ => false)

/-- CRYPT: the descriptor is checked and the job queued. -/
def runCrypt (slot : Fin 384) (s : State) : State :=
  if s.cryptWaits slot.val then s
  else s.monitor slot 3 fun c t =>
    let a := (c.arg 0).toNat
    let jobs := Tab.get [] t.rook.jobs c.part
    if c.level ≠ 1 then t.monFail dxDenied
    else if a % 32 ≠ 0 then t.monFail stsBadArg
    else match t.engReads 15 (some (engWho c.part c.secure)) (a / 4) 8 with
      | (u, .window) => u.monFail dxDenied
      | (u, .ok ws) =>
        let src := bits (ws.getD 0 0) 13 10
        let op := bits (ws.getD 0 0) 0 3
        if src < 512 ∨ u.srcOwner src ≠ c.part ∨ op = 0 ∨ 5 < op then u.monFail stsBadArg
        else if 4 ≤ jobs.length then u.monFail stsBusy
        else
          let j : CryptJob := { desc := a / 4, secure := c.secure, ctx := c.ctx }
          ({ u with rook := { u.rook with jobs := Tab.set [] u.rook.jobs c.part (jobs ++ [j]) } }, stsOk, [])
      | (u, _) => u.monFail stsBadArg

/-- Octets of memory, one per nonet, from a nonet address. -/
def State.engOctets (s : State) (w : Who) (a n : Nat) : State × Eng (List (BitVec 8)) :=
  if n = 0 then (s, .ok [])
  else Eng.andThen (s.engReads 15 (some w) (a / 4) ((a % 4 + n + 3) / 4)) fun t ws =>
    (t, .ok (((ws.flatMap wordOctets).drop (a % 4)).take n))

/-- Octets put into memory, one per nonet, from a nonet address; a nonet's bit 8 becomes 0. -/
def State.engPutOctets (s : State) (w : Who) (a : Nat) (os : List (BitVec 8)) : State × Eng Unit :=
  if os = [] then (s, .ok ())
  else Eng.andThen (s.engReads 15 (some w) (a / 4) ((a % 4 + os.length + 3) / 4)) fun t ws =>
    let one (i : Nat) (v : Word) : Word :=
      (List.range 4).foldl (fun acc j =>
        if a % 4 ≤ 4 * i + j ∧ 4 * i + j < a % 4 + os.length then setBits acc (9 * j) 9 (os.getD (4 * i + j - a % 4) 0).toNat
        else acc) v
    t.engWrite 15 (some w) none (wordsAt (a / 4) (ws.mapIdx one))

/-- The done word of a job (R434). -/
def jobOk : Nat := 1
def jobVerify : Nat := 2
def jobWindow : Nat := 3
def jobKey : Nat := 4

/-- An engine access of a job that fails shows as window; none while memory does not answer. -/
def jobEnd (r : State × Eng Nat) : Option (State × Nat) :=
  match r with
  | (t, .ok n) => some (t, n)
  | (_, .wait) => none
  | (t, _) => some (t, jobWindow)

/-- Octets of a number, 32 of them. -/
def digestOctets (v : BitVec 256) : List (BitVec 8) := octetsBe 32 v.toNat

/-- What a job does: the state after it and its done word; none while memory does not answer. -/
def State.doJob (s : State) (p : Nat) (j : CryptJob) : Option (State × Nat) :=
  let w := engWho p j.secure
  jobEnd <| Eng.andThen (s.engReads 15 (some w) j.desc 8) fun s1 ws =>
    let d (k : Nat) : Nat := (ws.getD k 0).toNat
    let op := bits (ws.getD 0 0) 0 3
    let w5 := Config.jobWord5 (ws.getD 5 0)
    let key := s1.keyNow (bits (ws.getD 0 0) 3 10) 2
    Eng.andThen (s1.engOctets w (d 1) (d 2)) fun s2 input =>
      let put (t : State) (os : List (BitVec 8)) : State × Eng Nat :=
        Eng.andThen (t.engPutOctets w (d 3) os) fun u _ => (u, .ok jobOk)
      match op, key with
      | 3, _ => put s2 (digestOctets (Config.sha256 input))
      | 5, _ =>
        Eng.andThen (s2.engOctets w (d 4) 128) fun s3 ks =>
          (s3, .ok (if Config.ecdsaOk ks (Config.sha256 input) then jobOk else jobVerify))
      | _, none => (s2, .ok jobKey)
      | 4, some k => put s2 (digestOctets (Config.hmacSha256 k.value input))
      | 1, some k =>
        Eng.andThen (s2.engOctets w (d 4) w5.1) fun s3 aad =>
          Eng.andThen (s3.engOctets w w5.2 12) fun s4 iv => put s4 (Config.gcmSeal k.value k.alg input aad iv)
      | _, some k =>
        Eng.andThen (s2.engOctets w (d 4) w5.1) fun s3 aad =>
          Eng.andThen (s3.engOctets w w5.2 12) fun s4 iv =>
            match Config.gcmOpen k.value k.alg input aad iv with
            | some os => put s4 os
            | none => (s4, .ok jobVerify)

/-- CRYPT_JOB_DONE (R434): the oldest job of the partition ends, writes its done word and raises its source. -/
def runCryptJobDone (p : Fin 16) (s : State) : State :=
  match Tab.get [] s.rook.jobs p.val with
  | [] => s
  | j :: rest =>
    if s.domState 83 ≠ 1 then s
    else
      let s1 : State := { s with rook := { s.rook with jobs := Tab.set [] s.rook.jobs p.val rest } }
      match s1.doJob p.val j with
      | none => s
      | some r =>
        let s2 := (r.1.engWrite 15 (some (engWho p.val j.secure)) none [(j.desc + 6, BitVec.ofNat 36 r.2)]).1
        s2.raiseOwned p.val (bits (s2.peek j.desc) 13 10)

/-! ## Keys, watchdog, update (R436, R444, R445, R447) -/

/-- KEY_EXPIRY (R436): the successor becomes current, or the group is left with no unexpired key. -/
def runKeyExpiry (keyid : Fin 1024) (s : State) : State :=
  let id := keyid.val
  let g := s.keyGroup id
  let ready := match g.succ with
    | some n => decide (n.start ≤ s.nowNs)
    | none => false
  let promote : State := ((s.setKeyGroup id { cur := g.succ, succ := none }).raise 121).keysHeld
  match g.cur with
  | some k =>
    if k.alive s.nowNs then s
    else if ready then promote
    else ((s.setKeyGroup id { cur := none, succ := g.succ }).raise 122).keysGone
  | none => if ready then promote else s

/-- Sessions whose write waits for the configuration store end: Rook does not answer (R445, R472). -/
def State.endStoreWaits (s : State) : State :=
  let t := s.dict.toStore.foldl (fun t n =>
    match t.sess n with
    | some x => if x.wait = .store then (t.answer n x.mtype dxNoService []).endSession n 6 else t
    | none => t) s
  (t.setDict { t.dict with toStore := [] }).fset Reg.DX_STAT_STORE 0

/-- SECURE_WATCHDOG_EXPIRY (R443, R444, R445): in the compact profile the secure core is held in reset; in the full profile the chip
is reset. It has its effect once RK_WDSTAT.LEFT is 0. -/
def runSecureWatchdogExpiry (s : State) : State :=
  if s.hung ∨ s.fget Reg.RK_WDSTAT_LEFT ≠ 0 then s
  else if s.fget Reg.RK_PSTAT_PROF = 1 then s.coldReset 6
  else (((s.fset Reg.RK_PSTAT_HUNG 1).raise 120).record tySecure 6 0 0 0).endStoreWaits

/-! ### Images (R438, R439, R447) -/

/-- Whether the SHA-256 of a public key is one of the fuses' root hashes, not revoked. -/
def State.rootHash (s : State) (key : List (BitVec 8)) : Bool :=
  let h := (Config.sha256 key).toNat
  (List.range 2).any fun i =>
    let fused := (List.range 8).foldl (fun n f => n + bits (s.rget (Reg.RK_FUSE (8 * i + f))) 0 32 * 2 ^ (32 * f)) 0
    decide (h = fused) && !bitAt (s.rget (Reg.RK_FUSE 16)) i

/-- Whether an image is accepted (R438, R439). -/
def State.accepts (s : State) (img : List (BitVec 8)) : Bool :=
  let h := Config.imageHeader img
  decide (s.fuseLc = 0) ||
    (s.rootHash h.key && Config.ecdsaOk (h.key ++ h.sig) (Config.sha256 img) && decide (s.rbk ≤ h.rollidx))

/-- UPDATE_END (R447, R524): the image is written and verified, STAGED or rejected. -/
def runUpdateEnd (s : State) : State :=
  match s.rook.upd with
  | none => s
  | some (i, os) =>
    if s.hung then s
    else
      let ok := s.accepts os
      let s1 := s.setBoot { s.boot with
        flash := Tab.set [] s.boot.flash i os
        st := Tab.set 0 s.boot.st i (if ok then 1 else 0) }
      let s2 : State := { s1 with rook := { s1.rook with upd := none } }
      let s3 := (s2.fset Reg.RK_PSTAT_UPDRES (if ok then 1 else 2)).fset Reg.RK_PSTAT_UPD 0
      (s3.record tySecure 7 0 0 0).raise 123

/-- HANDOVER (R525): the image verified under R438 takes over in one cycle. -/
def runHandover (s : State) : State :=
  match s.boot.hand with
  | none => s
  | some i =>
    if s.hung then s
    else
      let img := Tab.get [] s.boot.flash i
      let s0 := s.setBoot { s.boot with hand := none }
      if !s.accepts img then s0
      else
        let h := Config.imageHeader img
        let s1 := ((s0.rset Reg.RK_MVEC (setBits h.vector 0 2 0)).fset Reg.RK_PSTAT_IMG i).rset Reg.RK_VER (BitVec.ofNat 36 h.version)
        (s1.record tySecure 7 0 0 0).raise 123

end Sys2Proof.Machine
end

