-- ==== Sys2Proof/Machine/Boot.lean ====
section
/-! DEFINITION. Start-up (spec/17_power_reset_service.md, R518, R520 to R523): the ROM's choice of an image, the configuration store
applied, and the release of the blocks. -/

namespace Sys2Proof.Machine

/-! ## The ROM (R521) -/

/-- Image states (R520). -/
def imStaged : Nat := 1
def imTrial : Nat := 2
def imConfirmed : Nat := 3
def imFailed : Nat := 4

def State.imageState (s : State) (i : Nat) : Nat := Tab.get 0 s.boot.st i

/-- The other image, where it is CONFIRMED. -/
def State.otherImage (s : State) (i : Nat) : Option Nat := if s.imageState (1 - i) = imConfirmed then some (1 - i) else none

/-- The candidate (R521, 1): ACTIVE, its tries counted, or the other image after more than three. -/
def State.candidate (s : State) : State × Option Nat :=
  let c := s.boot.active
  if s.imageState c = imStaged ∨ s.imageState c = imTrial then
    let n := s.boot.tries + 1
    if 3 < n then (s.setBootImage c imFailed, s.otherImage c)
    else
      let t := s.setBootImage c imTrial
      (t.setBoot { t.boot with tries := n }, some c)
  else (s, some c)

/-- Whether the ROM accepts image `i` (R438); an image of no octets is none. -/
def State.bootable (s : State) (i : Nat) : Bool :=
  let img := Tab.get [] s.boot.flash i
  decide (img ≠ []) && s.accepts img

/-- The image that the ROM starts (R521, 2), and FAILED for each that it refuses. -/
def State.choose (s : State) : State × Option Nat :=
  match s.candidate with
  | (t, none) => (t, none)
  | (t, some c) =>
    if t.bootable c then (t, some c)
    else
      let u := t.setBootImage c imFailed
      match u.otherImage c with
      | none => (u, none)
      | some d => if u.bootable d then (u, some d) else (u.setBootImage d imFailed, none)

/-- CODE of the BOOT record by PM_RSTC.CAUSE (R475, R516). -/
def bootCode (cause : Nat) : Nat := if cause = 1 then 1 else if cause = 6 then 3 else 2

/-- PROF (R443): from the fuses, or from the image header. -/
def State.bootProf (s : State) (h : Config.ImgHeader) : Nat :=
  let f := bits (s.rget (Reg.RK_FUSE 16)) 4 2
  if f = 1 then 1 else if f = 2 then h.prof % 4 else 0

/-- A retired part holds no key and no secret at any boot (R439). -/
def State.retire (s : State) : State :=
  { s with rook := { s.rook with keys := [] }, mem := { s.mem with sram := [] } }

/-- What the ROM starts: on a retired part nothing, only the maker's diagnostics (R439, R521, 3). -/
def State.toStart (s : State) : State × Option Nat :=
  if bits (s.rget (Reg.RK_FUSE 16)) 2 2 = 3 then (s.retire, none) else s.choose

/-- SECURE_BOOT (R438, R439, R521). -/
def runSecureBoot (s : State) : State :=
  if !s.boot.rom || s.boot.refused then s
  else
    let code := bootCode (s.fget Reg.PM_RSTC_CAUSE)
    match s.toStart with
    | (t, none) => (t.setBoot { t.boot with refused := true }).record tyBoot code 0 0 0
    | (t, some i) =>
      let h := Config.imageHeader (Tab.get [] t.boot.flash i)
      let t1 := (t.setBoot { t.boot with rom := false, done := 0 }).setDom 83 1
      let t2 := (t1.fset Reg.RK_PSTAT_IMG i).fset Reg.RK_PSTAT_PROF (t1.bootProf h)
      let t3 := (t2.rset Reg.RK_VER (BitVec.ofNat 36 h.version)).rset Reg.RK_MVEC (setBits h.vector 0 2 0)
      t3.record tyBoot code 0 i (t3.rget Reg.RK_VER)

/-! ## The configuration store (R451, R471) -/

/-- One stored value put in force at boot; SC_CFG.EN waits for its step (R578). -/
def State.applyStored (s : State) (x : Nat × List Word) : State :=
  let k := x.1
  if 2 ^ 46 ≤ k then
    let j := k - 2 ^ 46
    if j / 2 ^ 8 % 2 ^ 16 = 0x700 then
      s.setDict { s.dict with groups := Tab.set 0 s.dict.groups (j / 2 ^ 27) (x.2.headD 0).toNat }
    else s.setDict { s.dict with settings := Tab.set [] s.dict.settings j x.2 }
  else if 2 ^ 44 ≤ k then
    let a := k - 2 ^ 44
    let t := s.rset a (rwFields a (s.rget a) (x.2.headD 0))
    if a = Reg.SC_CFG then t.fset Reg.SC_CFG_EN 0 else t
  else s.setApp k x.2

/-- SC_CFG.EN as the configuration store holds it (R578). -/
def State.storedEn (s : State) : State :=
  if bitAt ((Tab.get [] s.dict.store (regKey Reg.SC_CFG)).headD 0) 0 then s.fset Reg.SC_CFG_EN 1 else s

/-- At boot the verifying area with the higher generation is applied; where neither verifies, defaults are used (R471). -/
def State.applyStore (s : State) : State :=
  let d := s.dict
  if d.gen = 0 ∧ d.gen2 = 0 then s.flag Reg.DX_EVT_CSERR Reg.DX_EVT_CSERR_MORE
  else
    let area := if d.gen < d.gen2 then d.area2 else d.area
    let t := (s.setDict { d with store := area }).rset Reg.DX_CSGEN (BitVec.ofNat 36 (Nat.max d.gen d.gen2))
    area.foldl State.applyStored t

/-- The fields of a register that a warm reset has reset take their stored values again (R451). -/
def warmStored (a : PWord) (w v : Word) : Word :=
  match regAt a with
  | some (r, _) =>
    r.fields.foldl (fun acc f => if f.acc = .rw && !f.keep then setBits acc f.lo f.width (bits v f.lo f.width) else acc) w
  | none => w

def State.reapplyStore (s : State) : State :=
  s.dict.store.foldl (fun t (k, ws) =>
    if 2 ^ 44 ≤ k ∧ k < 2 ^ 46 ∧ ¬ warmWhole (k - 2 ^ 44) then
      let u := t.rset (k - 2 ^ 44) (warmStored (k - 2 ^ 44) (t.rget (k - 2 ^ 44)) (ws.headD 0))
      if k - 2 ^ 44 = Reg.SC_CFG then u.fset Reg.SC_CFG_EN 0 else u
    else t) s

/-! ## The release of the blocks (R14, R518, R522, R523) -/

/-- Domains that come ON. -/
def State.domsOn (s : State) (ds : List Nat) : State := ds.foldl (fun t d => t.moveDom d 1) s

/-- Consecutive numbers from `a`. -/
def fromTo (a n : Nat) : List Nat := (List.range n).map (a + ·)

/-- The fitted ranks of a channel (R323). -/
def State.fittedRanks (s : State) (c : Nat) : List Nat := if s.fbit (Reg.MC_CHCFG_PR2 c) then [0, 1] else [0]

/-- The next action that brings up the DRAM channels (spec/11_dram_controller.md): INIT of each fitted rank, then ZERO of each
channel; none once every channel in use is ACTIVE. It waits for MC_RES.DONE. -/
def State.bringUp (s : State) : Option State :=
  if s.chList.all fun c => decide (s.chState c = chActive) then none
  else if !s.fbit Reg.MC_RES_DONE then some s
  else
    let inits := s.chList.flatMap fun c =>
      if s.chState c = chInit then
        ((s.fittedRanks c).filter fun r => !Tab.get false (s.chan c).initOk r).map fun r => (c, r)
      else []
    match inits with
    | (c, r) :: _ => some (runInit (BitVec.ofNat 3 c) (decide (r = 1)) s)
    | [] =>
      some ((s.chList.filter fun c => decide (s.chState c = chInit)).foldl (fun t c => runZero (BitVec.ofNat 3 c) false t) s)

/-- The stored LMAP of every channel (0801h). -/
def State.loadLmap (s : State) : State :=
  (List.range 6).foldl (fun t c => t.fset (Reg.MC_CHCFG_LMAP c) ((t.storedOf (entryKey 0 0x801 c)).headD 0).toNat) s

/-- Each pair gets the command of its stored mode (R299). -/
def State.startPairs (s : State) : State :=
  (List.range 24).foldl (fun t k =>
    let q := Fin.ofNat 24 k
    match ((Tab.get [] t.dict.apps (entryKey 0 0x802 k)).headD 1).toNat with
    | 1 => runLsLockstep q t
    | 2 => runLsSplit q t
    | _ => t) s

/-- Each lock whose stored entry is 1 is committed (R459). -/
def State.commitLocks (s : State) : State :=
  (List.range 16).foldl (fun t q => if bitAt ((t.storedOf (entryKey 0 0x200 q)).headD 0) 0 then t.setLock q true else t) s

/-- The setting pages hold the values of the active groups (R455). -/
def State.loadPages (s : State) : State := (List.range 16).foldl (fun t p => t.writePage p true) s

/-- The first pair of partition 0 in LOCKSTEP or SPLIT. -/
def State.firmwarePair (s : State) : Option Nat :=
  (List.range 24).find? fun k => decide (s.pairState k = lsLockstep ∨ s.pairState k = lsSplit) && decide (s.pairOwner k = 0)

/-- The boot firmware starts (R523): the lowest FREE context of partition 0 as class G, the firmware in DRAM, and RUN. -/
def State.startFirmware (s : State) (k : Nat) : State :=
  match s.lowestFree 0 with
  | none => s
  | some l =>
    let h := Config.imageHeader (Tab.get [] s.boot.flash (s.fget Reg.RK_PSTAT_IMG))
    let t := (runAlloc 0 0 1 s).engPut 15 none (wordsAt (h.fwAddr / 4) h.fw)
    runRun 0 (BitVec.ofNat 12 l) (BitVec.ofNat 20 (2 * k)) t

/-- Step 6 of R522: the locks and the pages once, then the firmware, as soon as a pair has passed its self-test; the release is then
over. -/
def State.lastStep (s : State) : State :=
  let ended (t : State) : State :=
    let u := (t.setBoot { t.boot with done := 6 }).setPow { t.pow with warm := false }
    if t.pow.warm then u.storedEn else u
  match s.firmwarePair with
  | some k => ended ((if s.pow.warm then s else s.commitLocks.loadPages).startFirmware k)
  | none =>
    if (List.range 24).any fun k => decide (s.pairState k = lsTest) then s
    else ended (if s.pow.warm then s else s.commitLocks.loadPages)

/-- BLOCK_RELEASE (R518, R522): the next step of the release, or its next action where a step takes several. -/
def runBlockRelease (s : State) : State :=
  let step (t : State) : State := t.setBoot { t.boot with done := t.boot.done + 1 }
  if s.boot.rom then s
  else match s.boot.done with
    | 0 =>
      if s.pow.warm then step s.reapplyStore
      else step ((s.applyStore).domsOn (80 :: fromTo 74 6))
    | 1 =>
      if s.pow.warm then
        step ((List.range 6).foldl (fun t c =>
          if (t.chan c).warmSref && decide (t.chState c = chSelfref) then runSrx (BitVec.ofNat 3 c) false t else t) s)
      else
        let t := (s.loadLmap).domsOn (fromTo 60 8 ++ fromTo 68 6)
        match t.bringUp with
        | some u => u
        | none => step t
    | 2 => step (if s.pow.warm then s else (s.domsOn [85, 86]).storedEn)
    | 3 => step (if s.pow.warm then s else (s.domsOn (fromTo 48 12)).startPairs)
    | 4 =>
      let t := if s.pow.warm then (s.pdRelease).traceRestart else s.domsOn [82, 81, 84]
      step (t.setPx { t.pcie with held := false })
    | 5 => s.lastStep
    | _ => s

end Sys2Proof.Machine
end

