-- ==== Sys2Proof/Machine/Frame.lean ====
section
/-! DEFINITION. What a received frame does (spec/12_network_ports_switch.md, R351 to R361): checks, redundancy, internal
consumers, forwarding and learning. -/

namespace Sys2Proof.Machine

/-- The row of R352 that a frame received on port `x` matches; 0 for a PAUSE frame. -/
def State.frameRow (s : State) (x : Nat) (f : Frame) : Nat :=
  let linkLocal := decide (f.dst.toNat / 16 = 0x0180C200000)
  let dxp := bitAt (s.rget Reg.NP_CFG) (16 + x)
  if f.etype = 0x8808 then 0
  else if linkLocal then 1
  else if f.etype = 0x88F7 ∧ f.dst = 0x011B19000000 then 2
  else if f.etype = 0x88FB ∧ (s.ringPair x).isSome then 3
  else if f.etype = 0x88BA ∨ f.etype = 0x88B8 then 4
  else match f.payload, dxp with
    | .udp ip port, true =>
      if ip.toNat = s.fget Reg.NP_DXADDR_IP ∧ port.toNat = s.fget Reg.NP_DXPORT_PORT then 5
      else if f.dst = s.macOf x ∨ frameMulticast f then 7 else 8
    | .arp true ip, true =>
      if ip.toNat = s.fget Reg.NP_DXADDR_IP then 6 else if f.dst = s.macOf x ∨ frameMulticast f then 7 else 8
    | _, _ => if f.dst = s.macOf x ∨ frameMulticast f then 7 else 8

/-- Whether a row's frame is forwarded by the table of R352: rows 1, 3, 5 and 6 are not, nor is one of row 7 to the port's own MAC. -/
def State.rowForwards (s : State) (x row : Nat) (f : Frame) : Bool :=
  decide (row = 2 ∨ row = 4 ∨ row = 8) || (decide (row = 7) && decide (f.dst ≠ s.macOf x))

/-- The static entry that matches a frame, by its MASK (R353). -/
def State.staticMask (s : State) (f : Frame) : Option Nat :=
  ((List.range 1024).find? fun e =>
    s.fbit (Reg.NP_STA_H_V e) &&
      decide (s.fget (Reg.NP_STA_H_MAC e) * 2 ^ 24 + s.fget (Reg.NP_STA_L_MAC e) = f.dst.toNat ∧ s.fget (Reg.NP_STA_L_VID e) = frameVid f)).map
    fun e => s.fget (Reg.NP_STA_H_MASK e)

/-- Whether the register file lists any valid static entry: an unlisted one is not valid. -/
def State.staticListed (s : State) : Bool :=
  s.regs.any fun (a, _) => decide (Reg.NP_STA_H 0 ≤ a ∧ a < Reg.NP_STA_H 1024)

/-- The ports a frame received on port `x` is forwarded to (R353). -/
def State.forwardPorts (s : State) (x : Nat) (f : Frame) : List Nat :=
  if !s.fbit Reg.NP_CFG_FWDEN || (s.ringPair x).isSome then []
  else
    let fixed := if s.staticListed then s.staticMask f else none
    let learned := Tab.get 0 s.net.learn f.dst.toNat
    let mask :=
      match fixed with
      | some m => m
      | none =>
        if !frameMulticast f ∧ learned ≠ 0 then 2 ^ (learned - 1)
        else if frameMulticast f ∧ ¬ s.fbit Reg.NP_CFG_FLOODMC then 0
        else 63
    (List.range 6).filter fun y =>
      decide (y ≠ x) && (BitVec.ofNat 36 mask).getLsbD y && bitAt (s.rget (Reg.NP_FWD x)) y && (s.ringPair y).isNone

/-- A frame is offered to the host queues of every partition (R374). -/
def State.toHosts (s : State) (x ns : Nat) (f : Frame) : State :=
  if s.pd.hold then s else (List.range 16).foldl (State.hostDeliver x ns f) s

/-- Whether a piece of the engine's work is a frame of its input queue. -/
def EngineJob.isFrame : EngineJob → Bool
  | .frame _ _ _ => true
  | _ => false

/-- A frame is offered to the process-data engine, whose input queue holds 64 (R384, R419, R421). -/
def State.toEngine (s : State) (ns : Nat) (f : Frame) : State :=
  if !s.fbit Reg.PD_CTL_EN || s.pd.hold || s.pdDown then s
  else if 64 ≤ (s.pd.jobs.filter EngineJob.isFrame).length then s.fadd Reg.PD_CQDROP_N 1
  else s.engineDo (.frame ns false f)

/-- A supervision frame reaches the supervision unit of pair `k` (R362). -/
def State.toSupervision (s : State) (k x : Nat) (f : Frame) : State :=
  match f.payload with
  | .supervision node =>
    if node = s.macOf (2 * k) then
      let b := setBits (BitVec.ofNat 36 (Tab.get 0 s.net.back k)) (x % 2) 1 1
      let s1 := s.setNet { s.net with back := Tab.set 0 s.net.back k b.toNat }
      if b.toNat = 3 then s1.fset (Reg.NP_RSTAT_OPEN k) 0 else s1
    else if (s.nodes k).contains node ∨ 256 ≤ (s.nodes k).length then s
    else s.setNodes k (s.nodes k ++ [node])
  | _ => s

/-- The internal consumer of a frame's row (R352). -/
def State.consume (s : State) (x row ns : Nat) (f : Frame) : State :=
  match row with
  | 1 =>
    match f.payload with
    | .ptp m => if f.dst = 0x0180C200000E ∧ f.etype = 0x88F7 then s.ptpMessage x ns m else s.toHosts x ns f
    | _ => s.toHosts x ns f
  | 2 =>
    match f.payload with
    | .ptp m => s.ptpMessage x ns m
    | _ => s
  | 3 =>
    match s.ringPair x with
    | some k => s.toSupervision k x f
    | none => s
  | 4 => s.toEngine ns f
  | 6 =>
    s.sendOwn x (s.classOf f x) none
      { dst := f.src, src := s.macOf x, tag := f.tag, etype := 0x0806, red := .none, len := 64, fcsOk := true,
        payload := .arp false (BitVec.ofNat 32 (s.fget Reg.NP_DXADDR_IP)), octets := [] }
  | 7 => s.toHosts x ns f
  | _ => s

/-- The source and sequence number by which a pair in mode `m` tells copies apart (R361): an HSR tag's, or a PRP trailer's that matches. -/
def copyKey (m : Nat) (f : Frame) : Option (BitVec 48 × BitVec 16) :=
  match f.red, m with
  | .hsr _ seq _, 1 => some (f.src, seq)
  | .prp _ seq true, 2 => some (f.src, seq)
  | _, _ => none

def isPtp (f : Frame) : Bool :=
  match f.payload with
  | .ptp _ => true
  | _ => false

/-- Whether pair `k` delivers a copy received on port `x`: the first of its source and sequence number is delivered, a later
one is discarded and counted (R361). -/
def State.firstCopy (s : State) (k x : Nat) (f : Frame) : State × Bool :=
  match copyKey (s.pairMode k) f with
  | none => (s, true)
  | some (src, seq) =>
    if isPtp f then (s, true)
    else
      let l := s.dups k
      match l.find? fun e => decide (e.src = src ∧ e.seq = seq) with
      | some e =>
        let s1 := if e.port = x then s else s.setDups k (l.filter fun d => decide (d ≠ e))
        (s1.fadd (Reg.NP_CDUP_N k) 1, false)
      | none =>
        let kept := if 4096 ≤ l.length then l.drop 1 else l
        (s.setDups k (kept ++ [{ src := src, seq := seq, port := x }]), true)

/-- The ring port that forwards a frame of port `x` of pair `k`, none where the frame stays (R359). -/
def State.ringOut (s : State) (k x : Nat) (f : Frame) : List Nat :=
  let y := 4 * k + 1 - x
  match f.red, s.pairMode k with
  | .hsr _ seq true, 1 =>
    if f.src = s.macOf x ∨ f.dst = s.macOf x ∨ (s.ringSent y).contains (f.src, seq) ∨ !s.portUp y then [] else [y]
  | _, _ => []

/-- HSR forwarding from one ring port to the other (R359). -/
def State.ringForward (s : State) (k x ns : Nat) (f : Frame) : State :=
  let y := 4 * k + 1 - x
  match f.red with
  | .hsr _ seq _ =>
    let key := (f.src, seq)
    let cls := s.classOf f x
    if f.src = s.macOf x ∨ f.dst = s.macOf x ∨ (s.ringSent y).contains key then s
    else if !s.portUp y || s.bufferFull cls (frameCells f) [y] then s.queueFrames x cls ns none [(y, f)]
    else
      let l := s.ringSent y
      (s.setRingSent y ((if 4096 ≤ l.length then l.drop 1 else l) ++ [key])).queueFrames x cls ns none [(y, f)]
  | _ => s

/-- A frame of port `x` of pair `k` in HSR or PRP (R359 to R361). -/
def State.ringReceived (s : State) (k x row ns : Nat) (f : Frame) : State :=
  let s1 := if s.pairMode k = 2 then s.fset (if x % 2 = 0 then Reg.NP_RSTAT_SILA k else Reg.NP_RSTAT_SILB k) 0 else s
  let wrongLan := match f.red with
    | .prp lanB _ true => decide (lanB ≠ decide (x % 2 = 1))
    | _ => false
  match f.red, s1.pairMode k with
  | .hsr _ _ false, 1 => s1.fadd (Reg.NP_CWRONG_N k) 1
  | .hsr _ seq true, 1 =>
    let s2 := s1.ringForward k x ns f
    if f.src = s2.macOf x then
      let s3 := if row = 3 then s2.consume x row ns f else s2
      if isPtp f then s3 else s3.fadd (Reg.NP_CDUP_N k) 1
    else
      let r := s2.firstCopy k x f
      let _ := seq
      if r.2 then r.1.consume x row ns f else r.1
  | _, 2 =>
    let s2 := if wrongLan then s1.fadd (Reg.NP_CWRONG_N k) 1 else s1
    let r := s2.firstCopy k x f
    if r.2 then r.1.consume x row ns f else r.1
  | _, _ => s1.consume x row ns f

/-- A frame of a port outside HSR and PRP: learned, delivered, forwarded (R352 to R354). -/
def State.plainReceived (s : State) (x row ns : Nat) (f : Frame) : State :=
  let s1 := if s.fget Reg.NP_CFG_AGE ≠ 0 ∧ ¬ frameMulticast f then s.learn x f.src else s
  let outs := if s1.rowForwards x row f then (s1.forwardPorts x f).filter s1.portUp else []
  if s1.bufferFull (s1.classOf f x) (frameCells f) outs then s1.bufferDrop x
  else (s1.consume x row ns f).queueFrames x (s1.classOf f x) ns none (outs.map fun y => (y, { f with red := .none }))

/-- The speed of port `x` in Mb/s (R348). -/
def State.portSpeed (s : State) (x : Nat) : Nat := if x < 4 then [0, 10000, 2500, 1000].getD (s.fget (Reg.NP_PCFG_MODE x)) 0 else 1000

/-- Whether port `y` forwards a class-7 frame of port `x` before its FCS is known (R357): it sends nothing else, at the same speed. -/
def State.cutsTo (s : State) (x y : Nat) : Bool :=
  s.portUp y && decide (s.portSpeed x = s.portSpeed y) && (s.nextQueue y).isNone

/-- A frame whose FCS proves bad: it is counted, and where R357 has begun to forward it, it goes on to those ports with its FCS bad. -/
def State.badFcs (s : State) (x : Nat) (f : Frame) : State :=
  let s1 := s.portErr x
  if s1.classOf f x ≠ 7 then s1
  else match s1.ringPair x with
    | some k => if s1.pairMode k = 1 && s1.cutsTo x (4 * k + 1 - x) then s1.ringForward k x s1.nowNs f else s1
    | none =>
      let outs := if s1.rowForwards x (s1.frameRow x f) f then (s1.forwardPorts x f).filter (s1.cutsTo x) else []
      s1.queueFrames x 7 s1.nowNs none (outs.map fun y => (y, { f with red := .none }))

/-- FRAME_RECEIVED (R15, R351, R352, R357): a frame on port `x`, its stamp that of this cycle. -/
def runFrameReceived (x : Fin 6) (f : Frame) (s : State) : State :=
  if !s.portUp x.val || decide (s.domState 80 ≠ 1) || decide (s.domState (74 + x.val) ≠ 1) then s
  else
    let s1 := s.fadd (Reg.NP_CRX_N x.val) 1
    if Nat.min (s1.fget (Reg.NP_PCFG_MAXLEN x.val)) 2048 < f.len ∨ f.len < 64 then s1.portErr x.val
    else if ¬ f.fcsOk then s1.badFcs x.val f
    else
      let row := s1.frameRow x.val f
      let cls := s1.classOf f x.val
      if row = 0 then s1
      else if s1.bufferFull cls (frameCells f) [] then s1.bufferDrop x.val
      else
        let free := s1.fget Reg.NP_FBSTAT_FREE
        let s2 := (s1.setFree (free - frameCells f)).setFree free
        let ns := s2.nowNs
        match s2.ringPair x.val with
        | some k => if s2.bufferFull cls (frameCells f) (s2.ringOut k x.val f) then s2.bufferDrop x.val else s2.ringReceived k x.val row ns f
        | none => s2.plainReceived x.val row ns f

end Sys2Proof.Machine
end

