-- ==== Sys2Proof/Machine/Carry.lean ====
section
/-! DEFINITION. What surrounds the effect of a command: nothing happens while the part is held in reset, what the change of state
brings with it, and what the command leaves to be done. -/

namespace Sys2Proof.Machine

/-! ## What a change of state brings with it -/

/-- Discrete outputs go off where the process-data engine has stopped (R417, R419). -/
def State.followOutputs (s t : State) : State := if t.pdDown && !s.pdDown then t.outputsOff else t

/-- Outputs follow their bindings (R407, R417). -/
def State.followBinds (s t : State) : State :=
  if (List.range 8).any fun n => decide (s.rget (Reg.PD_DOB n) ≠ t.rget (Reg.PD_DOB n)) then t.driveOutputs else t

/-- A pair that has entered HOLD is traced (R532). -/
def State.followHolds (s t : State) : State :=
  (List.range 24).foldl (fun u k =>
    if s.pairState k ≠ lsHold ∧ t.pairState k = lsHold then u.traceHold k else u) t

/-- HEALTHY of a pair whose conditions no longer hold becomes 0, and its drive stops (R364, R365). -/
def State.followBypass (t : State) : State :=
  [0, 1].foldl (fun u k => if u.fbit (Reg.NP_BYP_HEALTHY k) && !u.bypassHealthy k true then u.bypassOff k else u) t

/-- What follows from the change from `s` to `t`. -/
def State.follow (s t : State) : State := (s.followHolds (s.followBinds (s.followOutputs t))).followBypass

/-! ## What a command leaves to be done -/

/-- Outbound loads that PCIe gave up, a debugger's command, writes of the dictionary that wait for a register, the engine's
work that waited for memory, and a reset that a store asked for; nothing while the part is held. -/
def State.serve (s : State) : State := s.live fun t => (((((t.serveOut).serveDb).serveDx).work).showRings).serveReset

/-- The effect `f` of a command of block `b` with all that belongs to it; nothing while the part is held in reset or stopped (R510, R513,
R552), nor before Rook has released the block (R14). -/
def State.act (s : State) (b : Block) (f : State → State) : State :=
  if s.running && s.released b then (s.follow (f s)).serve else s

/-- The effect `f` of an event that reaches the part whatever holds it: the test access port, resets, the hold-up supply, the Moraine
writer and the sensors (R477, R512, R513, R540). -/
def State.actAlways (s : State) (f : State → State) : State := (s.follow (f s)).serve

/-- OUTPUT_BIND_STORE (R407): to PD_GPBn (0), PD_SPBn (1) or PD_DOBn (2); an offset that is no register gets an error response. -/
def State.bindStore (s : State) (req : Requester) (kind : Fin 3) (n : Fin 512) (v : Word) : State :=
  let a := if kind = 0 then Reg.PD_GPB n.val else if kind = 1 then Reg.PD_SPB n.val else Reg.PD_DOB n.val
  if (kind = 1 ∧ 64 ≤ n.val) ∨ (kind = 2 ∧ 8 ≤ n.val) then s.storeError req (addrWord a) 0
  else runOutputBindStore req (addrWord a) a v s

/-! ## Commands whose effect the trace unit or another block completes -/

/-- A run that an effect ends in slot `i`: END with its cause first (R533). -/
def State.endsRun (s : State) (i aux : Nat) (f : State → State) : State :=
  let t := f s
  if (s.slot i).ctx.isSome && (t.slot i).ctx.isNone then f (s.traceEnd i aux) else t

/-- STAGE_IN_COMPLETE with its count and its trace (R71, R203, R529). -/
def State.stageInDone (s : State) (port : Fin 12) : State :=
  let t := runStageInComplete port s
  match (s.port port.val).cur with
  | none => t
  | some x => if x.stageIn && decide ((t.slot x.slot).ctx = some x.ctx) then (t.perf x.slot 0o33).traceStage x.slot else t

/-- WRITE_BACK_VERDICT with its count (R72, R203); words of a lockstep pair that differ are a mismatch of KIND 6 (R303, R305). -/
def State.writeBackDone (s : State) (port : Fin 12) (agree : Bool) : State :=
  match (s.port port.val).cur with
  | none => s
  | some x =>
    let differ := !x.stageIn && !agree && decide (s.pairState (pairOf x.slot) = lsLockstep)
    if differ then (runWriteBackVerdict port agree s).mismatch (pairOf x.slot) 6 (x.slot % 8)
    else runWriteBackVerdict port agree (if x.stageIn then s else s.perf x.slot 0o34)

/-- EPOCH_BOUNDARY, with the resample sets whose reference it turns off (R60, R400). -/
def State.epochDone (s : State) : State := (runEpochBoundary s).setsOff

/-- SELF_TEST_VERDICT, of a self-test of DIAG (R548) or of the pair's own (R307). -/
def State.verdictDone (s : State) (k : Fin 24) (failM failC : Bool) : State :=
  if Tab.get 0 s.tap.selfTest k.val ≠ 0 then s.dcmdVerdict k.val failM failC else runSelfTestVerdict k failM failC s

end Sys2Proof.Machine
end

