-- ==== Sys2Proof/Machine/ExecAngle.lean ====
section
/-! DEFINITION. The meanings of the commands of the time base and the angle references, one for each row: the effect that its rule gives, with all that belongs to
it (Machine/Carry.lean). -/

namespace Sys2Proof.Machine

/-- PPS_EDGE (R38). -/
def execPpsEdge (rising : Bool) (s : State) : Host.Outcome State Fault Refusal := .next (s.act .angle (runPpsEdge rising))

/-- IRIG_B_FRAME (R37). -/
def execIrigBFrame (f : IrigFrame) (s : State) : Host.Outcome State Fault Refusal := .next (s.act .angle (runIrigBFrame f))

/-- TIME_SOURCE_LOST (R36). -/
def execTimeSourceLost (src : Fin 8) (s : State) : Host.Outcome State Fault Refusal :=
  .next (s.act .angle (runTimeSourceLost src))

/-- HOLDOVER_EXPIRY (R40). -/
def execHoldoverExpiry (s : State) : Host.Outcome State Fault Refusal := .next (s.act .angle runHoldoverExpiry)

/-- HOLDSPEC_EXPIRY (R48). -/
def execHoldspecExpiry (s : State) : Host.Outcome State Fault Refusal := .next (s.act .angle runHoldspecExpiry)

/-- AN_TB_CFG_STORE (R35). -/
def execAnTbCfgStore (req : Requester) (v : Word) (s : State) : Host.Outcome State Fault Refusal :=
  .next (s.act .angle (runAnTbCfgStore req (addrWord Reg.AN_TB_CFG) v))

/-- AN_SET_LO_STORE (R42). -/
def execAnSetLoStore (req : Requester) (v : Word) (s : State) : Host.Outcome State Fault Refusal :=
  .next (s.act .angle (runAnSetLoStore req (addrWord Reg.AN_SET_LO) v))

/-- AN_SNAP_STORE (R64). -/
def execAnSnapStore (s : State) : Host.Outcome State Fault Refusal := .next (s.act .angle runAnSnapStore)

/-- TIME_HI_READ (R64). -/
def execTimeHiRead (page : Option (Fin 16)) (s : State) : Host.Outcome State Fault Refusal :=
  .next (s.act .angle (runTimeHiRead page))

/-- PPS_OUT_PULSE (R39). -/
def execPpsOutPulse (s : State) : Host.Outcome State Fault Refusal := .next (s.act .angle runPpsOutPulse)

/-- LEAP_SECOND (R46). -/
def execLeapSecond (s : State) : Host.Outcome State Fault Refusal := .next (s.act .angle runLeapSecond)

/-- EPOCH_BOUNDARY (R60). -/
def execEpochBoundary (s : State) : Host.Outcome State Fault Refusal := .next (s.act .angle State.epochDone)

/-- REFERENCE_PHASOR_TIMEOUT (R54). -/
def execReferencePhasorTimeout (n : Fin 8) (s : State) : Host.Outcome State Fault Refusal :=
  .next (s.act .angle (runReferencePhasorTimeout n))

/-- REFERENCE_HOLD_EXPIRY (R54). -/
def execReferenceHoldExpiry (n : Fin 8) (s : State) : Host.Outcome State Fault Refusal :=
  .next (s.act .angle (runReferenceHoldExpiry n))

/-- AN_REF_CFG_STORE (R62). -/
def execAnRefCfgStore (req : Requester) (n : Fin 8) (v : Word) (s : State) : Host.Outcome State Fault Refusal :=
  .next (s.act .angle (runAnRefCfgStore req (addrWord (Reg.AN_REF_CFG n.val)) n v))

/-- AN_VIEW_STORE (R572). -/
def execAnViewStore (req : Requester) (p : Fin 16) (v : Word) (s : State) : Host.Outcome State Fault Refusal :=
  .next (s.act .angle (runAnViewStore req (addrWord (Reg.AN_VIEW p.val)) p v))

end Sys2Proof.Machine
end

