-- ==== Sys2Proof/Machine/ExecArch.lean ====
section
/-! DEFINITION. The meanings of the commands of the registers and the clocks, one for each row: the effect that its rule gives, with all that belongs to
it (Machine/Carry.lean). -/

namespace Sys2Proof.Machine

/-- REGISTER_WRITE (R4). -/
def execRegisterWrite (req : Requester) (addr : PWord) (value : Word) (hw : Word)
    (s : State) : Host.Outcome State Fault Refusal :=
  .next (s.act (regBlock addr) (runRegisterWrite req addr value hw))

/-- RC_READ (R7). -/
def execRcRead (req : Requester) (addr : PWord) (hw : Word) (s : State) : Host.Outcome State Fault Refusal :=
  .next (s.act (regBlock addr) (runRcRead req addr hw))

/-- CLOCK_MONITOR_WINDOW (R33). -/
def execClockMonitorWindow (clk : Clock) (count : Nat) (nominal : Nat) (unlocked : Bool)
    (s : State) : Host.Outcome State Fault Refusal :=
  .next (s.act .island (runClockMonitorWindow clk count nominal unlocked))

/-- PLL_RELOCK (R515). -/
def execPllRelock (clk : Clock) (s : State) : Host.Outcome State Fault Refusal := .next (s.act .island (runPllRelock clk))

end Sys2Proof.Machine
end

