-- ==== Sys2Proof/Machine/ExecCache.lean ====
section
/-! DEFINITION. The meanings of the commands of caches and coherence, one for each row: the effect that its rule gives, with all that belongs to
it (Machine/Carry.lean). -/

namespace Sys2Proof.Machine

/-- LOAD (R281). -/
def execLoad (tgt : BitVec 6) (s : State) : Host.Outcome State Fault Refusal := .next (s.act .memory (runLoad tgt))

/-- UNLOCK (R281). -/
def execUnlock (tgt : BitVec 6) (s : State) : Host.Outcome State Fault Refusal := .next (s.act .memory (runUnlock tgt))

/-- LOCK_LOAD_COMPLETE (R281). -/
def execLockLoadComplete (tgt : BitVec 6) (s : State) : Host.Outcome State Fault Refusal :=
  .next (s.act .memory (runLockLoadComplete tgt))

/-- LOCK_DRAIN_COMPLETE (R281). -/
def execLockDrainComplete (tgt : BitVec 6) (s : State) : Host.Outcome State Fault Refusal :=
  .next (s.act .memory (runLockDrainComplete tgt))

/-- SCRUB (R278). -/
def execScrub (src : Fin 20) (line : BitVec 32) (s : State) : Host.Outcome State Fault Refusal :=
  .next (s.act .memory (runScrub src line))

/-- RDS (R287). -/
def execRds (agent : Fin 16) (line : BitVec 32) (s : State) : Host.Outcome State Fault Refusal :=
  .next (s.act .memory (runRds agent line))

/-- RDX (R287). -/
def execRdx (agent : Fin 16) (line : BitVec 32) (s : State) : Host.Outcome State Fault Refusal :=
  .next (s.act .memory (runRdx agent line))

/-- UPG (R287). -/
def execUpg (agent : Fin 16) (line : BitVec 32) (s : State) : Host.Outcome State Fault Refusal :=
  .next (s.act .memory (runUpg agent line))

/-- WBD (R289). -/
def execWbd (agent : Fin 16) (line : BitVec 32) (s : State) : Host.Outcome State Fault Refusal :=
  .next (s.act .memory (runWbd agent line))

/-- EVN (R287). -/
def execEvn (agent : Fin 16) (line : BitVec 32) (s : State) : Host.Outcome State Fault Refusal :=
  .next (s.act .memory (runEvn agent line))

/-- WRH (R290). -/
def execWrh (agent : Fin 16) (line : BitVec 32) (words : List (Fin 16 × Word)) (target : Option (Fin 12))
    (s : State) : Host.Outcome State Fault Refusal :=
  .next (s.act .memory (runWrh agent line words target))

/-- SNOOP (R289). -/
def execSnoop (agent : Fin 16) (line : BitVec 32) (s : State) : Host.Outcome State Fault Refusal :=
  .next (s.act .memory (runSnoop agent line))

/-- SNOOP_ANSWER (R289). -/
def execSnoopAnswer (agent : Fin 16) (line : BitVec 32) (s : State) : Host.Outcome State Fault Refusal :=
  .next (s.act .memory (runSnoopAnswer agent line))

/-- DECLARE_DEAD (R291). -/
def execDeclareDead (agent : Fin 16) (s : State) : Host.Outcome State Fault Refusal :=
  .next (s.act .memory (runDeclareDead agent))

/-- DECLARE_LIVE (R293). -/
def execDeclareLive (agent : Fin 16) (s : State) : Host.Outcome State Fault Refusal :=
  .next (s.act .memory (runDeclareLive agent))

/-- AGENT_FAULT (R291). -/
def execAgentFault (agent : Fin 16) (s : State) : Host.Outcome State Fault Refusal :=
  .next (s.act .memory (runAgentFault agent))

/-- SWEEP_COMPLETE (R292). -/
def execSweepComplete (s : State) : Host.Outcome State Fault Refusal := .next (s.act .memory runSweepComplete)

end Sys2Proof.Machine
end

