-- ==== Sys2Proof/Machine/ExecControl.lean ====
section
/-! DEFINITION. The meanings of the commands of control transfers, one for each row: the effect that its rule gives, with all that belongs to
it (Machine/Carry.lean). -/

namespace Sys2Proof.Machine

/-- BEQ (R138). -/
def execBeq (slot : Fin 384) (f : BFields) (s : State) : Host.Outcome State Fault Refusal :=
  .next (s.act .cores (runBeq slot f))

/-- BNE (R138). -/
def execBne (slot : Fin 384) (f : BFields) (s : State) : Host.Outcome State Fault Refusal :=
  .next (s.act .cores (runBne slot f))

/-- BLT (R138). -/
def execBlt (slot : Fin 384) (f : BFields) (s : State) : Host.Outcome State Fault Refusal :=
  .next (s.act .cores (runBlt slot f))

/-- BGE (R138). -/
def execBge (slot : Fin 384) (f : BFields) (s : State) : Host.Outcome State Fault Refusal :=
  .next (s.act .cores (runBge slot f))

/-- BLTU (R138). -/
def execBltu (slot : Fin 384) (f : BFields) (s : State) : Host.Outcome State Fault Refusal :=
  .next (s.act .cores (runBltu slot f))

/-- BGEU (R138). -/
def execBgeu (slot : Fin 384) (f : BFields) (s : State) : Host.Outcome State Fault Refusal :=
  .next (s.act .cores (runBgeu slot f))

/-- CALL (R139). -/
def execCall (slot : Fin 384) (f : JFields) (s : State) : Host.Outcome State Fault Refusal :=
  .next (s.act .cores (runCall slot f))

/-- JREG (R139). -/
def execJreg (slot : Fin 384) (f : IFields) (s : State) : Host.Outcome State Fault Refusal :=
  .next (s.act .cores (runJreg slot f))

end Sys2Proof.Machine
end

