-- ==== Sys2Proof/Machine/ExecDebug.lean ====
section
/-! DEFINITION. The meanings of the commands of trace, debug and events within rules, one for each row: the effect that its rule gives, with all that belongs to
it (Machine/Carry.lean). -/

namespace Sys2Proof.Machine

/-- ROUTER_TAKE (R534). -/
def execRouterTake (s : State) : Host.Outcome State Fault Refusal := .next (s.act .trace runRouterTake)

/-- TAP_UPDATE_IR (R540). -/
def execTapUpdateIr (code : BitVec 8) (s : State) : Host.Outcome State Fault Refusal :=
  .next (s.actAlways (runTapUpdateIr code))

/-- EXTEST (R541). -/
def execExtest (cells : List (Cell × Bool)) (s : State) : Host.Outcome State Fault Refusal :=
  .next (s.actAlways (runExtest cells))

/-- SAMPLE_PRELOAD (R540). -/
def execSamplePreload (cells : List (Cell × Bool)) (s : State) : Host.Outcome State Fault Refusal :=
  .next (s.actAlways (runSamplePreload cells))

/-- IDCODE (R540). -/
def execIdcode (s : State) : Host.Outcome State Fault Refusal := .next (s.actAlways runIdcode)

/-- CLAMP (R541). -/
def execClamp (s : State) : Host.Outcome State Fault Refusal := .next (s.actAlways runClamp)

/-- HIGHZ (R541). -/
def execHighz (s : State) : Host.Outcome State Fault Refusal := .next (s.actAlways runHighz)

/-- BYPASS (R540). -/
def execBypass (s : State) : Host.Outcome State Fault Refusal := .next (s.actAlways runBypass)

/-- DBGACC (R542). -/
def execDbgacc (off : BitVec 12) (wr : Bool) (data : Word) (s : State) : Host.Outcome State Fault Refusal :=
  .next (s.actAlways (runDbgacc off wr data))

/-- DBGAUTH (R544). -/
def execDbgauth (proof : BitVec 128) (cred : Fin 64) (s : State) : Host.Outcome State Fault Refusal :=
  .next (s.actAlways (runDbgauth proof cred))

/-- DIAG (R540). -/
def execDiag (off : BitVec 12) (wr : Bool) (data : Word) (s : State) : Host.Outcome State Fault Refusal :=
  .next (s.actAlways (runDiag off wr data))

/-- HALT (R545). -/
def execHalt (s : State) : Host.Outcome State Fault Refusal := .next (s.act .cores runHalt)

/-- RESUME (R545). -/
def execResume (s : State) : Host.Outcome State Fault Refusal := .next (s.act .cores runResume)

/-- STEP (R545). -/
def execStep (s : State) : Host.Outcome State Fault Refusal := .next (s.act .cores runStep)

/-- RDREG (R545). -/
def execRdreg (s : State) : Host.Outcome State Fault Refusal := .next (s.act .cores runRdreg)

/-- WRREG (R545). -/
def execWrreg (s : State) : Host.Outcome State Fault Refusal := .next (s.act .cores runWrreg)

/-- RDMEM (R545). -/
def execRdmem (s : State) : Host.Outcome State Fault Refusal := .next (s.act .cores runRdmem)

/-- WRMEM (R545). -/
def execWrmem (s : State) : Host.Outcome State Fault Refusal := .next (s.act .cores runWrmem)

/-- RDPHY (R545). -/
def execRdphy (s : State) : Host.Outcome State Fault Refusal := .next (s.act .cores runRdphy)

/-- WRPHY (R545). -/
def execWrphy (s : State) : Host.Outcome State Fault Refusal := .next (s.act .cores runWrphy)

/-- DB_DCMD_SELF_TEST (R548). -/
def execDbDcmdSelfTest (pair : BitVec 5) (s : State) : Host.Outcome State Fault Refusal :=
  .next (s.act .cores (runDbDcmdSelfTest pair))

/-- SECURE_CORE_ANSWER (R433). -/
def execSecureCoreAnswer (slot : Fin 384) (s : State) : Host.Outcome State Fault Refusal :=
  .next (s.act .service (runSecureCoreAnswer slot))

/-- UPDATE_END (R447). -/
def execUpdateEnd (s : State) : Host.Outcome State Fault Refusal := .next (s.act .service runUpdateEnd)

/-- INIT_COMPLETE (R345). -/
def execInitComplete (failDev : Option (Fin 12)) (s : State) : Host.Outcome State Fault Refusal :=
  .next (s.act .memory (runInitComplete failDev))

/-- DRAM_COMMAND_ISSUE (R333). -/
def execDramCommandIssue (ch : Fin 6) (s : State) : Host.Outcome State Fault Refusal :=
  .next (s.act .memory (runDramCommandIssue ch))

/-- PCIE_LINK_UP (R484). -/
def execPcieLinkUp (speed : Fin 5) (lanes : Fin 9) (s : State) : Host.Outcome State Fault Refusal :=
  .next (s.act .pcie (runPcieLinkUp speed lanes))

/-- TESTEN_HIGH (R552). -/
def execTestenHigh (s : State) : Host.Outcome State Fault Refusal := .next (s.actAlways runTestenHigh)

end Sys2Proof.Machine
end

