-- ==== Sys2Proof/Machine/ExecDram.lean ====
section
/-! DEFINITION. The meanings of the commands of the DRAM controller, one for each row: the effect that its rule gives, with all that belongs to
it (Machine/Carry.lean). -/

namespace Sys2Proof.Machine

/-- INIT (R345). -/
def execInit (ch : BitVec 3) (rank : Bool) (s : State) : Host.Outcome State Fault Refusal :=
  .next (s.act .memory (runInit ch rank))

/-- ZERO (R345). -/
def execZero (ch : BitVec 3) (rank : Bool) (s : State) : Host.Outcome State Fault Refusal :=
  .next (s.act .memory (runZero ch rank))

/-- ZERO_COMPLETE (R326). -/
def execZeroComplete (ch : Fin 6) (s : State) : Host.Outcome State Fault Refusal := .next (s.act .memory (runZeroComplete ch))

/-- SRE (R342). -/
def execSre (ch : BitVec 3) (rank : Bool) (s : State) : Host.Outcome State Fault Refusal :=
  .next (s.act .memory (runSre ch rank))

/-- SRX (R326). -/
def execSrx (ch : BitVec 3) (rank : Bool) (s : State) : Host.Outcome State Fault Refusal :=
  .next (s.act .memory (runSrx ch rank))

/-- MEASURE (R331). -/
def execMeasure (ch : BitVec 3) (rank : Bool) (s : State) : Host.Outcome State Fault Refusal :=
  .next (s.act .memory (runMeasure ch rank))

/-- MEASURE_COMPLETE (R331). -/
def execMeasureComplete (ch : Fin 6) (eyes : List (Nat × Nat × Nat)) (s : State) : Host.Outcome State Fault Refusal :=
  .next (s.act .memory (runMeasureComplete ch eyes))

/-- MIGRATE (R340). -/
def execMigrate (ch : BitVec 3) (rank : Bool) (s : State) : Host.Outcome State Fault Refusal :=
  .next (s.act .memory (runMigrate ch rank))

/-- MIGRATION_COPY (R340). -/
def execMigrationCopy (ch : Fin 6) (s : State) : Host.Outcome State Fault Refusal :=
  .next (s.act .memory (runMigrationCopy ch))

/-- MC_MAP_STORE (R322). -/
def execMcMapStore (req : Requester) (v : Word) (s : State) : Host.Outcome State Fault Refusal :=
  .next (s.act .memory (runMcMapStore req (addrWord Reg.MC_MAP) v))

/-- MC_DLY_STORE (R328). -/
def execMcDlyStore (req : Requester) (ch : Fin 6) (rank : Fin 2) (dev : Fin 12) (v : Word)
    (s : State) : Host.Outcome State Fault Refusal :=
  .next (s.act .memory (runMcDlyStore req (addrWord (Reg.MC_DLY ch.val rank.val dev.val)) ch rank dev v))

/-- DRAM_READ_REQUEST (R332). -/
def execDramReadRequest (line : BitVec 32) (part : Fin 16) (s : State) : Host.Outcome State Fault Refusal :=
  .next (s.act .memory (runDramReadRequest line part))

/-- DRAM_WRITE_REQUEST (R332). -/
def execDramWriteRequest (line : BitVec 32) (s : State) : Host.Outcome State Fault Refusal :=
  .next (s.act .memory (runDramWriteRequest line))

/-- DRAM_READ_RETURN (R337). -/
def execDramReadReturn (ch : Fin 6) (s : State) : Host.Outcome State Fault Refusal :=
  .next (s.act .memory (runDramReadReturn ch))

/-- REFRESH_DUE (R335). -/
def execRefreshDue (ch : Fin 6) (rank : Fin 2) (s : State) : Host.Outcome State Fault Refusal :=
  .next (s.act .memory (runRefreshDue ch rank))

/-- RETRAINING_PAUSE (R329). -/
def execRetrainingPause (ch : Fin 6) (rank : Fin 2) (moves : List (Int × Int))
    (s : State) : Host.Outcome State Fault Refusal :=
  .next (s.act .memory (runRetrainingPause ch rank moves))

/-- NEIGHBOUR_REFRESH (R336). -/
def execNeighbourRefresh (ch : Fin 6) (s : State) : Host.Outcome State Fault Refusal :=
  .next (s.act .memory (runNeighbourRefresh ch))

/-- PATROL_SCRUB (R337). -/
def execPatrolScrub (ch : Fin 6) (s : State) : Host.Outcome State Fault Refusal := .next (s.act .memory (runPatrolScrub ch))

/-- MODE_REGISTER_POLL (R335). -/
def execModeRegisterPoll (ch : Fin 6) (rank : Fin 2) (need2x : Bool) (aboveLimit : Bool)
    (s : State) : Host.Outcome State Fault Refusal :=
  .next (s.act .memory (runModeRegisterPoll ch rank need2x aboveLimit))

/-- WRITE_BATCH_START (R334). -/
def execWriteBatchStart (ch : Fin 6) (s : State) : Host.Outcome State Fault Refusal :=
  .next (s.act .memory (runWriteBatchStart ch))

end Sys2Proof.Machine
end

