-- ==== Sys2Proof/Machine/ExecDx.lean ====
section
/-! DEFINITION. The meanings of the commands of the dictionary and the Moraine, one for each row: the effect that its rule gives, with all that belongs to
it (Machine/Carry.lean). -/

namespace Sys2Proof.Machine

/-- OPEN (R466). -/
def execOpenSession (tr : Transport) (role : BitVec 8) (part : BitVec 8) (cred : BitVec 8) (confReq : Bool) (nc : BitVec 128)
    (s : State) : Host.Outcome State Fault Refusal :=
  .next (s.act .service (runOpenSession tr role part cred confReq nc))

/-- PROVE (R466). -/
def execProve (tr : Transport) (sid : Fin 16) (proof : BitVec 256) (s : State) : Host.Outcome State Fault Refusal :=
  .next (s.act .service (runProve tr sid proof))

/-- PROVE_TIMEOUT (R466). -/
def execProveTimeout (sid : Fin 16) (s : State) : Host.Outcome State Fault Refusal :=
  .next (s.act .service (runProveTimeout sid))

/-- READ (R465). -/
def execRead (m : DxHead) (index : BitVec 16) (sub : BitVec 8) (group : BitVec 8) (offset : BitVec 32) (count : BitVec 16)
    (s : State) : Host.Outcome State Fault Refusal :=
  .next (s.act .service (runRead m index sub group offset count))

/-- WRITE (R470). -/
def execWrite (m : DxHead) (index : BitVec 16) (sub : BitVec 8) (group : BitVec 8) (offset : BitVec 32) (stage : Bool) (value : List (BitVec 8))
    (s : State) : Host.Outcome State Fault Refusal :=
  .next (s.act .service (runWrite m index sub group offset stage value))

/-- APPLY (R457). -/
def execApply (m : DxHead) (s : State) : Host.Outcome State Fault Refusal := .next (s.act .service (runApply m))

/-- CLOSE (R468). -/
def execClose (m : DxHead) (s : State) : Host.Outcome State Fault Refusal := .next (s.act .service (runClose m))

/-- PING (R465). -/
def execPing (m : DxHead) (s : State) : Host.Outcome State Fault Refusal := .next (s.act .service (runPing m))

/-- SESSION_IDLE_TIMEOUT (R468). -/
def execSessionIdleTimeout (sid : Fin 16) (s : State) : Host.Outcome State Fault Refusal :=
  .next (s.act .service (runSessionIdleTimeout sid))

/-- LOCKOUT_EXPIRY (R466). -/
def execLockoutExpiry (cred : Fin 64) (s : State) : Host.Outcome State Fault Refusal :=
  .next (s.act .service (runLockoutExpiry cred))

/-- FLIP (R456). -/
def execFlip (p : Fin 16) (s : State) : Host.Outcome State Fault Refusal := .next (s.act .service (runFlip p))

/-- CONFIGURATION_STORE_WRITE (R471). -/
def execConfigurationStoreWrite (s : State) : Host.Outcome State Fault Refusal :=
  .next (s.act .service runConfigurationStoreWrite)

/-- DX_MDB_STORE (R464). -/
def execDxMdbStore (req : Requester) (p : Fin 16) (v : Word) (s : State) : Host.Outcome State Fault Refusal :=
  .next (s.act .service (runDxMdbStore req p v))

/-- MAILBOX_RESPONSE (R464). -/
def execMailboxResponse (p : Fin 16) (s : State) : Host.Outcome State Fault Refusal :=
  .next (s.act .service (runMailboxResponse p))

/-- MORAINE_SLOT_WRITE (R474). -/
def execMoraineSlotWrite (ok : Bool) (s : State) : Host.Outcome State Fault Refusal :=
  .next (s.actAlways (runMoraineSlotWrite ok))

/-- MORAINE_SCAN_COMPLETE (R474). -/
def execMoraineScanComplete (s : State) : Host.Outcome State Fault Refusal := .next (s.act .island runMoraineScanComplete)

/-- MO_RSEL_LO_STORE (R480). -/
def execMoRselLoStore (req : Requester) (v : Word) (s : State) : Host.Outcome State Fault Refusal :=
  .next (s.act .island (runMoRselLoStore req (addrWord Reg.MO_RSEL_LO) v))

/-- MORAINE_READ_DONE (R480). -/
def execMoraineReadDone (s : State) : Host.Outcome State Fault Refusal := .next (s.act .island runMoraineReadDone)

end Sys2Proof.Machine
end

