-- ==== Sys2Proof/Machine/ExecInteger.lean ====
section
/-! DEFINITION. The meanings of the commands of the integer group, one for each row: the effect that its rule gives, with all that belongs to
it (Machine/Carry.lean). -/

namespace Sys2Proof.Machine

/-- ADD (R131). -/
def execAdd (slot : Fin 384) (f : RFields) (s : State) : Host.Outcome State Fault Refusal :=
  .next (s.act .cores (runAdd slot f))

/-- SUB (R131). -/
def execSub (slot : Fin 384) (f : RFields) (s : State) : Host.Outcome State Fault Refusal :=
  .next (s.act .cores (runSub slot f))

/-- AND (R131). -/
def execAnd (slot : Fin 384) (f : RFields) (s : State) : Host.Outcome State Fault Refusal :=
  .next (s.act .cores (runAnd slot f))

/-- OR (R131). -/
def execOr (slot : Fin 384) (f : RFields) (s : State) : Host.Outcome State Fault Refusal :=
  .next (s.act .cores (runOr slot f))

/-- XOR (R131). -/
def execXor (slot : Fin 384) (f : RFields) (s : State) : Host.Outcome State Fault Refusal :=
  .next (s.act .cores (runXor slot f))

/-- ANDN (R131). -/
def execAndn (slot : Fin 384) (f : RFields) (s : State) : Host.Outcome State Fault Refusal :=
  .next (s.act .cores (runAndn slot f))

/-- SLT (R131). -/
def execSlt (slot : Fin 384) (f : RFields) (s : State) : Host.Outcome State Fault Refusal :=
  .next (s.act .cores (runSlt slot f))

/-- SLTU (R131). -/
def execSltu (slot : Fin 384) (f : RFields) (s : State) : Host.Outcome State Fault Refusal :=
  .next (s.act .cores (runSltu slot f))

/-- SLL (R131). -/
def execSll (slot : Fin 384) (f : RFields) (s : State) : Host.Outcome State Fault Refusal :=
  .next (s.act .cores (runSll slot f))

/-- SRL (R131). -/
def execSrl (slot : Fin 384) (f : RFields) (s : State) : Host.Outcome State Fault Refusal :=
  .next (s.act .cores (runSrl slot f))

/-- SRA (R131). -/
def execSra (slot : Fin 384) (f : RFields) (s : State) : Host.Outcome State Fault Refusal :=
  .next (s.act .cores (runSra slot f))

/-- SLLI (R131). -/
def execSlli (slot : Fin 384) (f : RFields) (s : State) : Host.Outcome State Fault Refusal :=
  .next (s.act .cores (runSlli slot f))

/-- SRLI (R131). -/
def execSrli (slot : Fin 384) (f : RFields) (s : State) : Host.Outcome State Fault Refusal :=
  .next (s.act .cores (runSrli slot f))

/-- SRAI (R131). -/
def execSrai (slot : Fin 384) (f : RFields) (s : State) : Host.Outcome State Fault Refusal :=
  .next (s.act .cores (runSrai slot f))

/-- CLZ (R131). -/
def execClz (slot : Fin 384) (f : RFields) (s : State) : Host.Outcome State Fault Refusal :=
  .next (s.act .cores (runClz slot f))

/-- SXH (R131). -/
def execSxh (slot : Fin 384) (f : RFields) (s : State) : Host.Outcome State Fault Refusal :=
  .next (s.act .cores (runSxh slot f))

/-- SXN (R131). -/
def execSxn (slot : Fin 384) (f : RFields) (s : State) : Host.Outcome State Fault Refusal :=
  .next (s.act .cores (runSxn slot f))

/-- MIN (R131). -/
def execMin (slot : Fin 384) (f : RFields) (s : State) : Host.Outcome State Fault Refusal :=
  .next (s.act .cores (runMin slot f))

/-- MAX (R131). -/
def execMax (slot : Fin 384) (f : RFields) (s : State) : Host.Outcome State Fault Refusal :=
  .next (s.act .cores (runMax slot f))

/-- ADDI (R132). -/
def execAddi (slot : Fin 384) (f : IFields) (s : State) : Host.Outcome State Fault Refusal :=
  .next (s.act .cores (runAddi slot f))

/-- ANDI (R132). -/
def execAndi (slot : Fin 384) (f : IFields) (s : State) : Host.Outcome State Fault Refusal :=
  .next (s.act .cores (runAndi slot f))

/-- ORI (R132). -/
def execOri (slot : Fin 384) (f : IFields) (s : State) : Host.Outcome State Fault Refusal :=
  .next (s.act .cores (runOri slot f))

/-- XORI (R132). -/
def execXori (slot : Fin 384) (f : IFields) (s : State) : Host.Outcome State Fault Refusal :=
  .next (s.act .cores (runXori slot f))

/-- SLTI (R132). -/
def execSlti (slot : Fin 384) (f : IFields) (s : State) : Host.Outcome State Fault Refusal :=
  .next (s.act .cores (runSlti slot f))

/-- SLTIU (R132). -/
def execSltiu (slot : Fin 384) (f : IFields) (s : State) : Host.Outcome State Fault Refusal :=
  .next (s.act .cores (runSltiu slot f))

/-- SETH (R132). -/
def execSeth (slot : Fin 384) (f : HFields) (s : State) : Host.Outcome State Fault Refusal :=
  .next (s.act .cores (runSeth slot f))

/-- LEA (R132). -/
def execLea (slot : Fin 384) (f : IFields) (s : State) : Host.Outcome State Fault Refusal :=
  .next (s.act .cores (runLea slot f))

/-- MUL (R133). -/
def execMul (slot : Fin 384) (f : RFields) (s : State) : Host.Outcome State Fault Refusal :=
  .next (s.act .cores (runMul slot f))

/-- MULH (R133). -/
def execMulh (slot : Fin 384) (f : RFields) (s : State) : Host.Outcome State Fault Refusal :=
  .next (s.act .cores (runMulh slot f))

/-- MULHU (R133). -/
def execMulhu (slot : Fin 384) (f : RFields) (s : State) : Host.Outcome State Fault Refusal :=
  .next (s.act .cores (runMulhu slot f))

/-- DIV (R134). -/
def execDiv (slot : Fin 384) (f : RFields) (s : State) : Host.Outcome State Fault Refusal :=
  .next (s.act .cores (runDiv slot f))

/-- DIVU (R134). -/
def execDivu (slot : Fin 384) (f : RFields) (s : State) : Host.Outcome State Fault Refusal :=
  .next (s.act .cores (runDivu slot f))

/-- REM (R134). -/
def execRem (slot : Fin 384) (f : RFields) (s : State) : Host.Outcome State Fault Refusal :=
  .next (s.act .cores (runRem slot f))

/-- REMU (R134). -/
def execRemu (slot : Fin 384) (f : RFields) (s : State) : Host.Outcome State Fault Refusal :=
  .next (s.act .cores (runRemu slot f))

end Sys2Proof.Machine
end

