-- ==== Sys2Proof/Machine/ExecLockstep.lean ====
section
/-! DEFINITION. The meanings of the commands of lockstep pairs, one for each row: the effect that its rule gives, with all that belongs to
it (Machine/Carry.lean). -/

namespace Sys2Proof.Machine

/-- LS_LOCKSTEP (R315). -/
def execLsLockstep (k : Fin 24) (s : State) : Host.Outcome State Fault Refusal := .next (s.act .cores (runLsLockstep k))

/-- LS_SPLIT (R315). -/
def execLsSplit (k : Fin 24) (s : State) : Host.Outcome State Fault Refusal := .next (s.act .cores (runLsSplit k))

/-- LS_OFF (R299). -/
def execLsOff (k : Fin 24) (s : State) : Host.Outcome State Fault Refusal := .next (s.act .cores (runLsOff k))

/-- RETEST (R315). -/
def execRetest (k : Fin 24) (s : State) : Host.Outcome State Fault Refusal := .next (s.act .cores (runRetest k))

/-- INJECT (R316). -/
def execInject (k : Fin 24) (s : State) : Host.Outcome State Fault Refusal := .next (s.act .cores (runInject k))

/-- MISMATCH (R305). -/
def execMismatch (k : Fin 24) (kind : Fin 16) (slot : Fin 8) (s : State) : Host.Outcome State Fault Refusal :=
  .next (s.act .cores (runMismatch k kind slot))

/-- RECONCILE_COMPLETE (R306). -/
def execReconcileComplete (k : Fin 24) (differ : List (BitVec 32)) (s : State) : Host.Outcome State Fault Refusal :=
  .next (s.act .pairs (runReconcileComplete k differ))

/-- SELF_TEST_VERDICT (R307). -/
def execSelfTestVerdict (k : Fin 24) (failM : Bool) (failC : Bool) (s : State) : Host.Outcome State Fault Refusal :=
  .next (s.act .pairs (fun t => t.verdictDone k failM failC))

end Sys2Proof.Machine
end

