-- ==== Sys2Proof/Machine/ExecMemory.lean ====
section
/-! DEFINITION. The meanings of the commands of loads, stores and atomics, one for each row: the effect that its rule gives, with all that belongs to
it (Machine/Carry.lean). -/

namespace Sys2Proof.Machine

/-- LDW (R135). -/
def execLdw (slot : Fin 384) (f : IFields) (s : State) : Host.Outcome State Fault Refusal :=
  .next (s.act .cores (runLdw slot f))

/-- LDH (R135). -/
def execLdh (slot : Fin 384) (f : IFields) (s : State) : Host.Outcome State Fault Refusal :=
  .next (s.act .cores (runLdh slot f))

/-- LDHU (R135). -/
def execLdhu (slot : Fin 384) (f : IFields) (s : State) : Host.Outcome State Fault Refusal :=
  .next (s.act .cores (runLdhu slot f))

/-- LDN (R135). -/
def execLdn (slot : Fin 384) (f : IFields) (s : State) : Host.Outcome State Fault Refusal :=
  .next (s.act .cores (runLdn slot f))

/-- LDNU (R135). -/
def execLdnu (slot : Fin 384) (f : IFields) (s : State) : Host.Outcome State Fault Refusal :=
  .next (s.act .cores (runLdnu slot f))

/-- STW (R135). -/
def execStw (slot : Fin 384) (f : IFields) (s : State) : Host.Outcome State Fault Refusal :=
  .next (s.act .cores (runStw slot f))

/-- STH (R135). -/
def execSth (slot : Fin 384) (f : IFields) (s : State) : Host.Outcome State Fault Refusal :=
  .next (s.act .cores (runSth slot f))

/-- STN (R135). -/
def execStn (slot : Fin 384) (f : IFields) (s : State) : Host.Outcome State Fault Refusal :=
  .next (s.act .cores (runStn slot f))

/-- LDU (R136). -/
def execLdu (slot : Fin 384) (f : IFields) (s : State) : Host.Outcome State Fault Refusal :=
  .next (s.act .cores (runLdu slot f))

/-- STU (R136). -/
def execStu (slot : Fin 384) (f : IFields) (s : State) : Host.Outcome State Fault Refusal :=
  .next (s.act .cores (runStu slot f))

/-- SWAP (R137). -/
def execSwap (slot : Fin 384) (f : RFields) (s : State) : Host.Outcome State Fault Refusal :=
  .next (s.act .cores (runSwap slot f))

/-- CAS (R137). -/
def execCas (slot : Fin 384) (f : RFields) (s : State) : Host.Outcome State Fault Refusal :=
  .next (s.act .cores (runCas slot f))

/-- FADD (R137). -/
def execFadd (slot : Fin 384) (f : RFields) (s : State) : Host.Outcome State Fault Refusal :=
  .next (s.act .cores (runFadd slot f))

end Sys2Proof.Machine
end

