-- ==== Sys2Proof/Machine/ExecMmu.lean ====
section
/-! DEFINITION. The meanings of the commands of memory management, one for each row: the effect that its rule gives, with all that belongs to
it (Machine/Carry.lean). -/

namespace Sys2Proof.Machine

/-- TABLE_WALK (R245). -/
def execTableWalk (slot : Fin 384) (va : Word) (kind : Fin 3) (s : State) : Host.Outcome State Fault Refusal :=
  .next (s.act .cores (runTableWalk slot va kind))

/-- TLBI_ARRIVAL (R260). -/
def execTlbiArrival (core : Fin 48) (s : State) : Host.Outcome State Fault Refusal :=
  .next (s.act .cores (runTlbiArrival core))

/-- TLBI_ACK (R260). -/
def execTlbiAck (core : Fin 48) (s : State) : Host.Outcome State Fault Refusal := .next (s.act .cores (runTlbiAck core))

/-- PIN (R262). -/
def execPin (core : Fin 48) (s : State) : Host.Outcome State Fault Refusal := .next (s.act .cores (runPin core))

/-- UNPIN (R262). -/
def execUnpin (core : Fin 48) (s : State) : Host.Outcome State Fault Refusal := .next (s.act .cores (runUnpin core))

/-- UNPIN_ALL (R262). -/
def execUnpinAll (core : Fin 48) (s : State) : Host.Outcome State Fault Refusal := .next (s.act .cores (runUnpinAll core))

/-- TL_WB_STORE (R253). -/
def execTlWbStore (req : Requester) (p : Fin 16) (k : Fin 32) (v : Word) (s : State) : Host.Outcome State Fault Refusal :=
  .next (s.act .cores (runTlWbStore req (addrWord (Reg.TL_WB p.val k.val)) p k v))

/-- TL_WL_STORE (R254). -/
def execTlWlStore (req : Requester) (p : Fin 16) (k : Fin 32) (v : Word) (s : State) : Host.Outcome State Fault Refusal :=
  .next (s.act .cores (runTlWlStore req (addrWord (Reg.TL_WL p.val k.val)) p k v))

/-- WPEND_CLEAR (R254). -/
def execWpendClear (s : State) : Host.Outcome State Fault Refusal := .next (s.act .cores runWpendClear)

end Sys2Proof.Machine
end

