-- ==== Sys2Proof/Machine/ExecNet.lean ====
section
/-! DEFINITION. The meanings of the commands of the switch and the ports, one for each row: the effect that its rule gives, with all that belongs to
it (Machine/Carry.lean). -/

namespace Sys2Proof.Machine

/-- FRAME_RECEIVED (R352). -/
def execFrameReceived (port : Fin 6) (f : Frame) (s : State) : Host.Outcome State Fault Refusal :=
  .next (s.act .net (runFrameReceived port f))

/-- FRAME_TRANSMIT (R356). -/
def execFrameTransmit (port : Fin 6) (s : State) : Host.Outcome State Fault Refusal :=
  .next (s.act .net (runFrameTransmit port))

/-- LINK_UP (R376). -/
def execLinkUp (port : Fin 6) (s : State) : Host.Outcome State Fault Refusal := .next (s.act .net (runLinkUp port))

/-- LINK_DOWN (R376). -/
def execLinkDown (port : Fin 6) (midFrame : Bool) (s : State) : Host.Outcome State Fault Refusal :=
  .next (s.act .net (runLinkDown port midFrame))

/-- LEARNING_AGE (R354). -/
def execLearningAge (mac : BitVec 48) (s : State) : Host.Outcome State Fault Refusal :=
  .next (s.act .net (runLearningAge mac))

/-- FLUSH (R354). -/
def execFlush (s : State) : Host.Outcome State Fault Refusal := .next (s.act .net runFlush)

/-- DISCARD_ENTRY_FORGET (R361). -/
def execDiscardEntryForget (pair : Fin 2) (src : BitVec 48) (seq : BitVec 16)
    (s : State) : Host.Outcome State Fault Refusal :=
  .next (s.act .net (runDiscardEntryForget pair src seq))

/-- SUPERVISION_SEND (R362). -/
def execSupervisionSend (pair : Fin 2) (s : State) : Host.Outcome State Fault Refusal :=
  .next (s.act .net (runSupervisionSend pair))

/-- RING_STATUS_TIMEOUT (R362). -/
def execRingStatusTimeout (pair : Fin 2) (which : Fin 3) (s : State) : Host.Outcome State Fault Refusal :=
  .next (s.act .net (runRingStatusTimeout pair which))

/-- NODE_ENTRY_AGE (R362). -/
def execNodeEntryAge (pair : Fin 2) (node : BitVec 48) (s : State) : Host.Outcome State Fault Refusal :=
  .next (s.act .net (runNodeEntryAge pair node))

/-- PDELAY_REQ_SEND (R369). -/
def execPdelayReqSend (port : Fin 6) (s : State) : Host.Outcome State Fault Refusal :=
  .next (s.act .net (runPdelayReqSend port))

/-- PTP_TIMEOUT (R371). -/
def execPtpTimeout (port : Fin 6) (announce : Bool) (s : State) : Host.Outcome State Fault Refusal :=
  .next (s.act .net (runPtpTimeout port announce))

/-- ERROR_RATE_SECOND (R376). -/
def execErrorRateSecond (s : State) : Host.Outcome State Fault Refusal := .next (s.act .net runErrorRateSecond)

/-- BYPASS_HEALTH_CHANGE (R364). -/
def execBypassHealthChange (pair : Fin 2) (marker : Bool) (s : State) : Host.Outcome State Fault Refusal :=
  .next (s.act .net (runBypassHealthChange pair marker))

/-- HOLDDLY_EXPIRY (R365). -/
def execHolddlyExpiry (pair : Fin 2) (s : State) : Host.Outcome State Fault Refusal :=
  .next (s.act .net (runHolddlyExpiry pair))

/-- BYPASS_DRIVE_FAULT (R367). -/
def execBypassDriveFault (pair : Fin 2) (short : Bool) (s : State) : Host.Outcome State Fault Refusal :=
  .next (s.act .net (runBypassDriveFault pair short))

/-- NP_HTXK_STORE (R375). -/
def execNpHtxkStore (_req : Requester) (p : Fin 16) (s : State) : Host.Outcome State Fault Refusal :=
  .next (s.act .net (runNpHtxkStore p))

/-- NP_PCFG_STORE (R350). -/
def execNpPcfgStore (req : Requester) (x : Fin 6) (v : Word) (s : State) : Host.Outcome State Fault Refusal :=
  .next (s.act .net (runNpPcfgStore req (addrWord (Reg.NP_PCFG x.val)) x v))

/-- NP_CFG_STORE (R363). -/
def execNpCfgStore (req : Requester) (v : Word) (s : State) : Host.Outcome State Fault Refusal :=
  .next (s.act .net (runNpCfgStore req (addrWord Reg.NP_CFG) v))

end Sys2Proof.Machine
end

