-- ==== Sys2Proof/Machine/ExecPcie.lean ====
section
/-! DEFINITION. The meanings of the commands of the PCIe endpoint, one for each row: the effect that its rule gives, with all that belongs to
it (Machine/Carry.lean). -/

namespace Sys2Proof.Machine

/-- CONFIGURATION_REQUEST (R486). -/
def execConfigurationRequest (f : Fin 17) (dw : Fin 1024) (write : Option (BitVec 32 × BitVec 4))
    (s : State) : Host.Outcome State Fault Refusal :=
  .next (s.act .pcie (runConfigurationRequest f dw write))

/-- INBOUND_READ (R493). -/
def execInboundRead (f : Fin 17) (form : InForm) (bar : Bar) (off : BitVec 40) (len : Fin 4097)
    (s : State) : Host.Outcome State Fault Refusal :=
  .next (s.act .pcie (runInboundRead f form bar off len))

/-- INBOUND_WRITE (R493). -/
def execInboundWrite (f : Fin 17) (form : InForm) (bar : Bar) (off : BitVec 40) (octets : List (Option (BitVec 8)))
    (s : State) : Host.Outcome State Fault Refusal :=
  .next (s.act .pcie (runInboundWrite f form bar off octets))

/-- OUTBOUND_COMPLETION (R500). -/
def execOutboundCompletion (slot : Fin 384) (status : Fin 3) (ep : Bool) (data : BitVec 64)
    (s : State) : Host.Outcome State Fault Refusal :=
  .next (s.act .pcie (runOutboundCompletion slot status ep data))

/-- COMPLETION_TIMEOUT (R500). -/
def execCompletionTimeout (slot : Fin 384) (s : State) : Host.Outcome State Fault Refusal :=
  .next (s.act .pcie (runCompletionTimeout slot))

/-- PX_FIRQ_STORE (R497). -/
def execPxFirqStore (_req : Requester) (f : Fin 17) (v : Word) (s : State) : Host.Outcome State Fault Refusal :=
  .next (s.act .pcie (runPxFirqStore f v))

/-- INTERRUPT_MESSAGE_SEND (R497). -/
def execInterruptMessageSend (s : State) : Host.Outcome State Fault Refusal := .next (s.act .pcie runInterruptMessageSend)

/-- PX_IWA_STORE (R492). -/
def execPxIwaStore (req : Requester) (f : Fin 17) (w : Fin 8) (v : Word) (s : State) : Host.Outcome State Fault Refusal :=
  .next (s.act .pcie (runPxIwaStore req (addrWord (Reg.PX_IWA f.val w.val)) f w v))

/-- FLR (R501). -/
def execFlr (f : Fin 17) (s : State) : Host.Outcome State Fault Refusal := .next (s.act .pcie (runFlr f))

/-- HOT_RESET (R501). -/
def execHotReset (how : Fin 3) (s : State) : Host.Outcome State Fault Refusal := .next (s.act .pcie (runHotReset how))

end Sys2Proof.Machine
end

