-- ==== Sys2Proof/Machine/ExecPd.lean ====
section
/-! DEFINITION. The meanings of the commands of process data, one for each row: the effect that its rule gives, with all that belongs to
it (Machine/Carry.lean). -/

namespace Sys2Proof.Machine

/-- PD_ENABLE (R382). -/
def execPdEnable (tbl : BitVec 3) (idx : BitVec 12) (s : State) : Host.Outcome State Fault Refusal :=
  .next (s.act .engine (runPdEnable tbl idx))

/-- PD_DISABLE (R382). -/
def execPdDisable (tbl : BitVec 3) (idx : BitVec 12) (s : State) : Host.Outcome State Fault Refusal :=
  .next (s.act .engine (runPdDisable tbl idx))

/-- SV_TIMEOUT (R389). -/
def execSvTimeout (i : Fin 1024) (s : State) : Host.Outcome State Fault Refusal := .next (s.act .engine (runSvTimeout i))

/-- GOOSE_DEADLINE (R404). -/
def execGooseDeadline (i : Fin 4096) (s : State) : Host.Outcome State Fault Refusal :=
  .next (s.act .engine (runGooseDeadline i))

/-- RESAMPLE_POINT (R396). -/
def execResamplePoint (i : Fin 1024) (s : State) : Host.Outcome State Fault Refusal :=
  .next (s.act .engine (runResamplePoint i))

/-- LABEL_REACHED (R398). -/
def execLabelReached (i : Fin 1024) (s : State) : Host.Outcome State Fault Refusal :=
  .next (s.act .engine (runLabelReached i))

/-- PUBLICATION_RELEASE (R408). -/
def execPublicationRelease (s : State) : Host.Outcome State Fault Refusal := .next (s.act .engine runPublicationRelease)

/-- GOOSE_RETRANSMISSION (R410). -/
def execGooseRetransmission (g : Fin 512) (s : State) : Host.Outcome State Fault Refusal :=
  .next (s.act .engine (runGooseRetransmission g))

/-- DISCRETE_INPUT_CHANGE (R415). -/
def execDiscreteInputChange (n : Fin 16) (level : Bool) (s : State) : Host.Outcome State Fault Refusal :=
  .next (s.act .engine (runDiscreteInputChange n level))

/-- MINON_EXPIRY (R417). -/
def execMinonExpiry (n : Fin 8) (s : State) : Host.Outcome State Fault Refusal := .next (s.act .engine (runMinonExpiry n))

/-- DEADMAN_EXPIRY (R417). -/
def execDeadmanExpiry (n : Fin 8) (s : State) : Host.Outcome State Fault Refusal := .next (s.act .engine (runDeadmanExpiry n))

/-- RAIL_READBACK (R418). -/
def execRailReadback (n : Fin 8) (high : Bool) (low : Bool) (s : State) : Host.Outcome State Fault Refusal :=
  .next (s.act .engine (runRailReadback n high low))

/-- OUTPUT_BIND_STORE (R407). -/
def execOutputBindStore (req : Requester) (kind : Fin 3) (n : Fin 512) (v : Word)
    (s : State) : Host.Outcome State Fault Refusal :=
  .next (s.act .engine (fun t => t.bindStore req kind n v))

end Sys2Proof.Machine
end

