-- ==== Sys2Proof/Machine/ExecPower.lean ====
section
/-! DEFINITION. The meanings of the commands of power, reset and start-up, one for each row: the effect that its rule gives, with all that belongs to
it (Machine/Carry.lean). -/

namespace Sys2Proof.Machine

/-- PM_ON (R505). -/
def execPmOn (req : Requester) (domain : BitVec 7) (s : State) : Host.Outcome State Fault Refusal :=
  .next (s.act .island (runPmOn req domain))

/-- PM_CLKOFF (R505). -/
def execPmClkoff (req : Requester) (domain : BitVec 7) (s : State) : Host.Outcome State Fault Refusal :=
  .next (s.act .island (runPmClkoff req domain))

/-- PM_OFF (R505). -/
def execPmOff (req : Requester) (domain : BitVec 7) (s : State) : Host.Outcome State Fault Refusal :=
  .next (s.act .island (runPmOff req domain))

/-- DOMAIN_TRANSITION_COMPLETE (R506). -/
def execDomainTransitionComplete (s : State) : Host.Outcome State Fault Refusal :=
  .next (s.act .island runDomainTransitionComplete)

/-- DOMAIN_LOST (R508). -/
def execDomainLost (d : Fin 87) (s : State) : Host.Outcome State Fault Refusal := .next (s.act .island (runDomainLost d))

/-- RAIL_EXCURSION (R511). -/
def execRailExcursion (r : Fin 12) (mv : BitVec 12) (s : State) : Host.Outcome State Fault Refusal :=
  .next (s.act .island (runRailExcursion r mv))

/-- RAIL_BACK (R511). -/
def execRailBack (r : Fin 12) (mv : BitVec 12) (s : State) : Host.Outcome State Fault Refusal :=
  .next (s.act .island (runRailBack r mv))

/-- SENSOR_READ (R512). -/
def execSensorRead (sensor : Fin 16) (temp : BitVec 12) (s : State) : Host.Outcome State Fault Refusal :=
  .next (s.actAlways (runSensorRead sensor temp))

/-- POWER_FAIL (R513). -/
def execPowerFail (rail : Option (Fin 12)) (s : State) : Host.Outcome State Fault Refusal :=
  .next (s.act .island (runPowerFail rail))

/-- HOLD_UP_END (R513). -/
def execHoldUpEnd (s : State) : Host.Outcome State Fault Refusal := .next (s.actAlways runHoldUpEnd)

/-- POWER_ON_RESET_RELEASE (R510). -/
def execPowerOnResetRelease (refsel : Bool) (s : State) : Host.Outcome State Fault Refusal :=
  .next (s.actAlways (runPowerOnResetRelease refsel))

/-- RESET_N_LOW (R516). -/
def execResetNLow (s : State) : Host.Outcome State Fault Refusal := .next (s.actAlways runResetNLow)

/-- PM_RST_WARM (R518). -/
def execPmRstWarm (req : Requester) (s : State) : Host.Outcome State Fault Refusal :=
  .next (s.act .island (runPmRstWarm req (addrWord Reg.PM_RST)))

/-- PM_RST_COLD (R516). -/
def execPmRstCold (req : Requester) (s : State) : Host.Outcome State Fault Refusal :=
  .next (s.act .island (runPmRstCold req (addrWord Reg.PM_RST)))

/-- BLOCK_RELEASE (R522). -/
def execBlockRelease (s : State) : Host.Outcome State Fault Refusal := .next (s.act .island runBlockRelease)

end Sys2Proof.Machine
end

