-- ==== Sys2Proof/Machine/ExecRook.lean ====
section
/-! DEFINITION. The meanings of the commands of the secure world, one for each row: the effect that its rule gives, with all that belongs to
it (Machine/Carry.lean). -/

namespace Sys2Proof.Machine

/-- VERSION (R429). -/
def execVersion (slot : Fin 384) (s : State) : Host.Outcome State Fault Refusal := .next (s.act .cores (runVersion slot))

/-- SHWRITE (R430). -/
def execShwrite (slot : Fin 384) (s : State) : Host.Outcome State Fault Refusal := .next (s.act .cores (runShwrite slot))

/-- KEYSTAT (R429). -/
def execKeystat (slot : Fin 384) (s : State) : Host.Outcome State Fault Refusal := .next (s.act .cores (runKeystat slot))

/-- CRYPT (R434). -/
def execCrypt (slot : Fin 384) (s : State) : Host.Outcome State Fault Refusal := .next (s.act .cores (runCrypt slot))

/-- CRYPT_JOB_DONE (R434). -/
def execCryptJobDone (p : Fin 16) (s : State) : Host.Outcome State Fault Refusal := .next (s.act .service (runCryptJobDone p))

/-- UPDATE (R524). -/
def execUpdate (slot : Fin 384) (s : State) : Host.Outcome State Fault Refusal := .next (s.act .cores (runUpdate slot))

/-- HOLD (R440). -/
def execHold (slot : Fin 384) (s : State) : Host.Outcome State Fault Refusal := .next (s.act .cores (runHold slot))

/-- PREDCLR (R442). -/
def execPredclr (slot : Fin 384) (s : State) : Host.Outcome State Fault Refusal := .next (s.act .cores (runPredclr slot))

/-- MONITOR_CALL_TIMEOUT (R433). -/
def execMonitorCallTimeout (slot : Fin 384) (s : State) : Host.Outcome State Fault Refusal :=
  .next (s.act .cores (runMonitorCallTimeout slot))

/-- KEY_EXPIRY (R436). -/
def execKeyExpiry (keyid : Fin 1024) (s : State) : Host.Outcome State Fault Refusal :=
  .next (s.act .service (runKeyExpiry keyid))

/-- SECURE_WATCHDOG_EXPIRY (R444). -/
def execSecureWatchdogExpiry (s : State) : Host.Outcome State Fault Refusal := .next (s.act .island runSecureWatchdogExpiry)

/-- RK_WDKICK_STORE (R444). -/
def execRkWdkickStore (req : Option Requester) (v : Word) (s : State) : Host.Outcome State Fault Refusal :=
  .next (s.act .island (runRkWdkickStore req (addrWord Reg.RK_WDKICK) v))

/-- RK_PCLR_STORE (R442). -/
def execRkPclrStore (req : Requester) (v : Word) (s : State) : Host.Outcome State Fault Refusal :=
  .next (s.act .cores (runRkPclrStore req (addrWord Reg.RK_PCLR) v))

/-- SECURE_BOOT (R521). -/
def execSecureBoot (s : State) : Host.Outcome State Fault Refusal := .next (s.act .island runSecureBoot)

/-- HANDOVER (R525). -/
def execHandover (s : State) : Host.Outcome State Fault Refusal := .next (s.act .service runHandover)

end Sys2Proof.Machine
end

