-- ==== Sys2Proof/Machine/ExecSched.lean ====
section
/-! DEFINITION. The meanings of the commands of contexts and the scheduler, one for each row: the effect that its rule gives, with all that belongs to
it (Machine/Carry.lean). -/

namespace Sys2Proof.Machine

/-- ALLOC (R109). -/
def execAlloc (p : Fin 16) (ctx : BitVec 12) (arg : BitVec 20) (s : State) : Host.Outcome State Fault Refusal :=
  .next (s.act .sched (fun t => runAlloc p ctx arg (t.hardwareFirst p ctx)))

/-- FREE (R109). -/
def execFree (p : Fin 16) (ctx : BitVec 12) (arg : BitVec 20) (s : State) : Host.Outcome State Fault Refusal :=
  .next (s.act .sched (fun t => runFree p ctx arg (t.hardwareFirst p ctx)))

/-- ENABLE (R80). -/
def execEnable (p : Fin 16) (ctx : BitVec 12) (arg : BitVec 20) (s : State) : Host.Outcome State Fault Refusal :=
  .next (s.act .sched (fun t => runEnable p ctx arg (t.hardwareFirst p ctx)))

/-- DISABLE (R86). -/
def execDisable (p : Fin 16) (ctx : BitVec 12) (arg : BitVec 20) (s : State) : Host.Outcome State Fault Refusal :=
  .next (s.act .sched (fun t => runDisable p ctx arg (t.hardwareFirst p ctx)))

/-- RUN (R107). -/
def execRun (p : Fin 16) (ctx : BitVec 12) (arg : BitVec 20) (s : State) : Host.Outcome State Fault Refusal :=
  .next (s.act .sched (fun t => runRun p ctx arg (t.hardwareFirst p ctx)))

/-- STOP (R107). -/
def execStop (p : Fin 16) (ctx : BitVec 12) (arg : BitVec 20) (s : State) : Host.Outcome State Fault Refusal :=
  .next (s.act .sched (fun t => runStop p ctx arg (t.hardwareFirst p ctx)))

/-- SETCLASS (R21). -/
def execSetclass (p : Fin 16) (ctx : BitVec 12) (arg : BitVec 20) (s : State) : Host.Outcome State Fault Refusal :=
  .next (s.act .sched (fun t => runSetclass p ctx arg (t.hardwareFirst p ctx)))

/-- RESET (R86). -/
def execReset (p : Fin 16) (ctx : BitVec 12) (arg : BitVec 20) (s : State) : Host.Outcome State Fault Refusal :=
  .next (s.act .sched (fun t => runReset p ctx arg (t.hardwareFirst p ctx)))

/-- SC_EVRAISE_STORE (R85). -/
def execScEvraiseStore (p : Fin 16) (src : BitVec 10) (s : State) : Host.Outcome State Fault Refusal :=
  .next (s.act .sched (runScEvraiseStore p src))

/-- STAGE_DECISION (R91). -/
def execStageDecision (ctx : Fin 4096) (s : State) : Host.Outcome State Fault Refusal :=
  .next (s.act .sched (runStageDecision ctx))

/-- SLOT_BECOMES_FREE (R97). -/
def execSlotBecomesFree (slot : Fin 384) (s : State) : Host.Outcome State Fault Refusal :=
  .next (s.act .sched (runSlotBecomesFree slot))

/-- DISPLACEMENT (R92). -/
def execDisplacement (slot : Fin 384) (s : State) : Host.Outcome State Fault Refusal :=
  .next (s.act .sched (runDisplacement slot))

/-- PORT_GRANT (R76). -/
def execPortGrant (port : Fin 12) (s : State) : Host.Outcome State Fault Refusal := .next (s.act .sched (runPortGrant port))

/-- STAGE_IN_COMPLETE (R71). -/
def execStageInComplete (port : Fin 12) (s : State) : Host.Outcome State Fault Refusal :=
  .next (s.act .sched (fun t => t.stageInDone port))

/-- FIRST_GROUP_FETCHED (R86). -/
def execFirstGroupFetched (slot : Fin 384) (s : State) : Host.Outcome State Fault Refusal :=
  .next (s.act .sched (runFirstGroupFetched slot))

/-- DUE_CYCLE (R93). -/
def execDueCycle (ctx : Fin 4096) (s : State) : Host.Outcome State Fault Refusal := .next (s.act .sched (runDueCycle ctx))

/-- ANGLE_DUE_POINT (R78). -/
def execAngleDuePoint (ctx : Fin 4096) (s : State) : Host.Outcome State Fault Refusal :=
  .next (s.act .sched (runAngleDuePoint ctx))

/-- TIME_DUE_POINT (R81). -/
def execTimeDuePoint (ctx : Fin 4096) (s : State) : Host.Outcome State Fault Refusal :=
  .next (s.act .sched (runTimeDuePoint ctx))

/-- RUN_BUDGET_EXPIRY (R96). -/
def execRunBudgetExpiry (slot : Fin 384) (s : State) : Host.Outcome State Fault Refusal :=
  .next (s.act .sched (fun t => t.endsRun slot.val 4 (runRunBudgetExpiry slot)))

/-- WRITE_BACK_REQUEST (R71). -/
def execWriteBackRequest (slot : Fin 384) (s : State) : Host.Outcome State Fault Refusal :=
  .next (s.act .sched (runWriteBackRequest slot))

/-- WRITE_BACK_VERDICT (R72). -/
def execWriteBackVerdict (port : Fin 12) (agree : Bool) (s : State) : Host.Outcome State Fault Refusal :=
  .next (s.act .sched (fun t => t.writeBackDone port agree))

/-- COMMIT_RELEASE (R102). -/
def execCommitRelease (ctx : Fin 4096) (s : State) : Host.Outcome State Fault Refusal :=
  .next (s.act .sched (runCommitRelease ctx))

/-- INTERLOCK_ANSWER (R104). -/
def execInterlockAnswer (release : Bool) (s : State) : Host.Outcome State Fault Refusal :=
  .next (s.act .sched (runInterlockAnswer release))

/-- INTERLOCK_TIMEOUT (R446). -/
def execInterlockTimeout (s : State) : Host.Outcome State Fault Refusal := .next (s.act .sched runInterlockTimeout)

/-- FIRN_APERTURE_ACCESS (R73). -/
def execFirnApertureAccess (req : Requester) (c : Fin 4096) (w : Fin 256) (store : Option Word)
    (s : State) : Host.Outcome State Fault Refusal :=
  .next (s.act .sched (runFirnApertureAccess req (addrWord (paFirn / 4 + 256 * c.val + w.val)) c w store))

/-- SC_OPAGE_STORE (R106). -/
def execScOpageStore (req : Requester) (n : Fin 256) (isC : Bool) (v : Word)
    (s : State) : Host.Outcome State Fault Refusal :=
  .next (s.act .sched (runScOpageStore req (addrWord (if isC then Reg.SC_OPAGE_C n.val else Reg.SC_OPAGE_F n.val)) n isC v))

/-- SC_PRANGE_STORE (R112). -/
def execScPrangeStore (req : Requester) (p : Fin 16) (v : Word) (s : State) : Host.Outcome State Fault Refusal :=
  .next (s.act .sched (runScPrangeStore req (addrWord (Reg.SC_PRANGE p.val)) p v))

/-- ENTRY_WORD_STORE (R110). -/
def execEntryWordStore (req : Requester) (p : Fin 16) (i : Fin 4096) (j : Fin 8) (v : Word)
    (s : State) : Host.Outcome State Fault Refusal :=
  .next (s.act .sched (runEntryWordStore req (addrWord (Reg.SC_CFG + 32768 + 32768 * p.val + 8 * i.val + j.val)) p i j v))

end Sys2Proof.Machine
end

