-- ==== Sys2Proof/Machine/ExecSignal.lean ====
section
/-! DEFINITION. The meanings of the commands of the signal extensions, one for each row: the effect that its rule gives, with all that belongs to
it (Machine/Carry.lean). -/

namespace Sys2Proof.Machine

/-- AGLD (R170). -/
def execAgld (slot : Fin 384) (f : RFields) (s : State) : Host.Outcome State Fault Refusal :=
  .next (s.act .cores (runAgld slot f))

/-- AGST (R170). -/
def execAgst (slot : Fin 384) (f : RFields) (s : State) : Host.Outcome State Fault Refusal :=
  .next (s.act .cores (runAgst slot f))

/-- AGADR (R170). -/
def execAgadr (slot : Fin 384) (f : RFields) (s : State) : Host.Outcome State Fault Refusal :=
  .next (s.act .cores (runAgadr slot f))

/-- AGADV (R170). -/
def execAgadv (slot : Fin 384) (f : RFields) (s : State) : Host.Outcome State Fault Refusal :=
  .next (s.act .cores (runAgadv slot f))

/-- AGRD (R170). -/
def execAgrd (slot : Fin 384) (f : RFields) (s : State) : Host.Outcome State Fault Refusal :=
  .next (s.act .cores (runAgrd slot f))

/-- AGWR (R170). -/
def execAgwr (slot : Fin 384) (f : RFields) (s : State) : Host.Outcome State Fault Refusal :=
  .next (s.act .cores (runAgwr slot f))

/-- MAC (R171). -/
def execMac (slot : Fin 384) (acc1 : Bool) (f : RFields) (s : State) : Host.Outcome State Fault Refusal :=
  .next (s.act .cores (runMac slot acc1 f))

/-- MSU (R171). -/
def execMsu (slot : Fin 384) (acc1 : Bool) (f : RFields) (s : State) : Host.Outcome State Fault Refusal :=
  .next (s.act .cores (runMsu slot acc1 f))

/-- MACL (R171). -/
def execMacl (slot : Fin 384) (acc1 : Bool) (f : RFields) (s : State) : Host.Outcome State Fault Refusal :=
  .next (s.act .cores (runMacl slot acc1 f))

/-- MACD (R171). -/
def execMacd (slot : Fin 384) (acc1 : Bool) (f : RFields) (s : State) : Host.Outcome State Fault Refusal :=
  .next (s.act .cores (runMacd slot acc1 f))

/-- ACCRND (R171). -/
def execAccrnd (slot : Fin 384) (acc1 : Bool) (f : RFields) (s : State) : Host.Outcome State Fault Refusal :=
  .next (s.act .cores (runAccrnd slot acc1 f))

/-- ACCHI (R171). -/
def execAcchi (slot : Fin 384) (acc1 : Bool) (f : RFields) (s : State) : Host.Outcome State Fault Refusal :=
  .next (s.act .cores (runAcchi slot acc1 f))

/-- ACCLO (R171). -/
def execAcclo (slot : Fin 384) (acc1 : Bool) (f : RFields) (s : State) : Host.Outcome State Fault Refusal :=
  .next (s.act .cores (runAcclo slot acc1 f))

/-- ACCSET (R171). -/
def execAccset (slot : Fin 384) (acc1 : Bool) (f : RFields) (s : State) : Host.Outcome State Fault Refusal :=
  .next (s.act .cores (runAccset slot acc1 f))

/-- MACR (R172). -/
def execMacr (slot : Fin 384) (acc1 : Bool) (f : RFields) (s : State) : Host.Outcome State Fault Refusal :=
  .next (s.act .cores (runMacr slot acc1 f))

/-- SPRD (R171). -/
def execSprd (slot : Fin 384) (acc1 : Bool) (f : RFields) (s : State) : Host.Outcome State Fault Refusal :=
  .next (s.act .cores (runSprd slot acc1 f))

/-- SPWR (R171). -/
def execSpwr (slot : Fin 384) (acc1 : Bool) (f : RFields) (s : State) : Host.Outcome State Fault Refusal :=
  .next (s.act .cores (runSpwr slot acc1 f))

/-- CIS (R173). -/
def execCis (slot : Fin 384) (f : RFields) (s : State) : Host.Outcome State Fault Refusal :=
  .next (s.act .cores (runCis slot f))

/-- ROT (R173). -/
def execRot (slot : Fin 384) (f : RFields) (s : State) : Host.Outcome State Fault Refusal :=
  .next (s.act .cores (runRot slot f))

/-- SDFT (R173). -/
def execSdft (slot : Fin 384) (f : RFields) (s : State) : Host.Outcome State Fault Refusal :=
  .next (s.act .cores (runSdft slot f))

/-- MAG (R173). -/
def execMag (slot : Fin 384) (f : RFields) (s : State) : Host.Outcome State Fault Refusal :=
  .next (s.act .cores (runMag slot f))

/-- ANG (R173). -/
def execAng (slot : Fin 384) (f : RFields) (s : State) : Host.Outcome State Fault Refusal :=
  .next (s.act .cores (runAng slot f))

/-- CUBI (R174). -/
def execCubi (slot : Fin 384) (f : RFields) (s : State) : Host.Outcome State Fault Refusal :=
  .next (s.act .cores (runCubi slot f))

/-- DFTR (R175). -/
def execDftr (slot : Fin 384) (f : RFields) (s : State) : Host.Outcome State Fault Refusal :=
  .next (s.act .cores (runDftr slot f))

end Sys2Proof.Machine
end

