-- ==== Sys2Proof/Machine/ExecSystem.lean ====
section
/-! DEFINITION. The meanings of the commands of windows, blocks and the system group, one for each row: the effect that its rule gives, with all that belongs to
it (Machine/Carry.lean). -/

namespace Sys2Proof.Machine

/-- SAVE (R140). -/
def execSave (slot : Fin 384) (f : IFields) (s : State) : Host.Outcome State Fault Refusal :=
  .next (s.act .cores (runSave slot f))

/-- RESTORE (R140). -/
def execRestore (slot : Fin 384) (f : IFields) (s : State) : Host.Outcome State Fault Refusal :=
  .next (s.act .cores (runRestore slot f))

/-- SAVEL (R143). -/
def execSavel (slot : Fin 384) (f : RFields) (s : State) : Host.Outcome State Fault Refusal :=
  .next (s.act .cores (runSavel slot f))

/-- SAVEU (R144). -/
def execSaveu (slot : Fin 384) (f : RFields) (s : State) : Host.Outcome State Fault Refusal :=
  .next (s.act .cores (runSaveu slot f))

/-- RESTL (R145). -/
def execRestl (slot : Fin 384) (f : RFields) (s : State) : Host.Outcome State Fault Refusal :=
  .next (s.act .cores (runRestl slot f))

/-- RESTU (R147). -/
def execRestu (slot : Fin 384) (f : RFields) (s : State) : Host.Outcome State Fault Refusal :=
  .next (s.act .cores (runRestu slot f))

/-- MOVB (R149). -/
def execMovb (slot : Fin 384) (f : RFields) (s : State) : Host.Outcome State Fault Refusal :=
  .next (s.act .cores (runMovb slot f))

/-- YIELD (R150). -/
def execYield (slot : Fin 384) (f : RFields) (s : State) : Host.Outcome State Fault Refusal :=
  .next (s.act .cores (runYield slot f))

/-- SWAPCTX (R152). -/
def execSwapctx (slot : Fin 384) (f : RFields) (s : State) : Host.Outcome State Fault Refusal :=
  .next (s.act .cores (runSwapctx slot f))

/-- ERET (R155). -/
def execEret (slot : Fin 384) (f : RFields) (s : State) : Host.Outcome State Fault Refusal :=
  .next (s.act .cores (runEret slot f))

/-- TRAPDONE (R157). -/
def execTrapdone (slot : Fin 384) (f : RFields) (s : State) : Host.Outcome State Fault Refusal :=
  .next (s.act .cores (runTrapdone slot f))

/-- FENCE (R158). -/
def execFence (slot : Fin 384) (f : RFields) (s : State) : Host.Outcome State Fault Refusal :=
  .next (s.act .cores (runFence slot f))

/-- IFENCE (R158). -/
def execIfence (slot : Fin 384) (f : RFields) (s : State) : Host.Outcome State Fault Refusal :=
  .next (s.act .cores (runIfence slot f))

/-- TSYNC (R158). -/
def execTsync (slot : Fin 384) (f : RFields) (s : State) : Host.Outcome State Fault Refusal :=
  .next (s.act .cores (runTsync slot f))

/-- TLBI (R159). -/
def execTlbi (slot : Fin 384) (f : RFields) (s : State) : Host.Outcome State Fault Refusal :=
  .next (s.act .cores (runTlbi slot f))

/-- PBAR (R160). -/
def execPbar (slot : Fin 384) (f : RFields) (s : State) : Host.Outcome State Fault Refusal :=
  .next (s.act .cores (runPbar slot f))

/-- PFLUSH (R160). -/
def execPflush (slot : Fin 384) (f : RFields) (s : State) : Host.Outcome State Fault Refusal :=
  .next (s.act .cores (runPflush slot f))

/-- RDCTL (R161). -/
def execRdctl (slot : Fin 384) (f : RFields) (s : State) : Host.Outcome State Fault Refusal :=
  .next (s.act .cores (runRdctl slot f))

/-- WRCTL (R161). -/
def execWrctl (slot : Fin 384) (f : RFields) (s : State) : Host.Outcome State Fault Refusal :=
  .next (s.act .cores (runWrctl slot f))

/-- SYSCALL (R153). -/
def execSyscall (slot : Fin 384) (f : IFields) (s : State) : Host.Outcome State Fault Refusal :=
  .next (s.act .cores (runSyscall slot f))

/-- FIRMWARE_CALL (R429). -/
def execFirmwareCall (slot : Fin 384) (f : IFields) (s : State) : Host.Outcome State Fault Refusal :=
  .next (s.act .cores (runFirmwareCall slot f))

end Sys2Proof.Machine
end

