-- ==== Sys2Proof/Machine/ExecThread.lean ====
section
/-! DEFINITION. The meanings of the commands of the pipeline, traps and counters, one for each row: the effect that its rule gives, with all that belongs to
it (Machine/Carry.lean). -/

namespace Sys2Proof.Machine

/-- LONG_OPERATION_COMPLETE (R179). -/
def execLongOperationComplete (slot : Fin 384) (s : State) : Host.Outcome State Fault Refusal :=
  .next (s.act .cores (runLongOperationComplete slot))

/-- STORE_DRAIN (R192). -/
def execStoreDrain (slot : Fin 384) (s : State) : Host.Outcome State Fault Refusal :=
  .next (s.act .cores (runStoreDrain slot))

/-- ASYNC_STORE_ERROR_TRAP (R227). -/
def execAsyncStoreErrorTrap (slot : Fin 384) (s : State) : Host.Outcome State Fault Refusal :=
  .next (s.act .cores (runAsyncStoreErrorTrap slot))

/-- PREFETCH (R189). -/
def execPrefetch (slot : Fin 384) (va : Word) (s : State) : Host.Outcome State Fault Refusal :=
  .next (s.act .cores (runPrefetch slot va))

/-- FETCH_RETURN (R187). -/
def execFetchReturn (slot : Fin 384) (va : Word) (s : State) : Host.Outcome State Fault Refusal :=
  .next (s.act .cores (runFetchReturn slot va))

/-- LOAD_RETURN (R182). -/
def execLoadReturn (slot : Fin 384) (s : State) : Host.Outcome State Fault Refusal :=
  .next (s.act .cores (runLoadReturn slot))

/-- INTERRUPT_DELIVERY (R230). -/
def execInterruptDelivery (slot : Fin 384) (s : State) : Host.Outcome State Fault Refusal :=
  .next (s.act .cores (runInterruptDelivery slot))

/-- WAKE_STAGING (R231). -/
def execWakeStaging (p : Fin 16) (line : Fin 64) (s : State) : Host.Outcome State Fault Refusal :=
  .next (s.act .cores (runWakeStaging p line))

/-- COUNTER_OVERFLOW_TRAP (R232). -/
def execCounterOverflowTrap (slot : Fin 384) (s : State) : Host.Outcome State Fault Refusal :=
  .next (s.act .cores (runCounterOverflowTrap slot))

/-- COUNTER_WRAP (R206). -/
def execCounterWrap (slot : Fin 384) (j : Fin 8) (s : State) : Host.Outcome State Fault Refusal :=
  .next (s.act .cores (runCounterWrap slot j))

end Sys2Proof.Machine
end

