-- ==== Sys2Proof/Machine/Dispatch.lean ====
section
/-! DEFINITION. The dispatch: one arm for each command, a call of its meaning. -/

namespace Sys2Proof.Machine

def exec (i : Instr) (s : State) : Host.Outcome State Fault Refusal :=
  match i with
  | .registerWrite req addr value hw => Sys2Proof.Machine.execRegisterWrite req addr value hw s
  | .rcRead req addr hw => Sys2Proof.Machine.execRcRead req addr hw s
  | .clockMonitorWindow clk count nominal unlocked => Sys2Proof.Machine.execClockMonitorWindow clk count nominal unlocked s
  | .pllRelock clk => Sys2Proof.Machine.execPllRelock clk s
  | .ppsEdge rising => Sys2Proof.Machine.execPpsEdge rising s
  | .irigBFrame f => Sys2Proof.Machine.execIrigBFrame f s
  | .timeSourceLost src => Sys2Proof.Machine.execTimeSourceLost src s
  | .holdoverExpiry => Sys2Proof.Machine.execHoldoverExpiry s
  | .holdspecExpiry => Sys2Proof.Machine.execHoldspecExpiry s
  | .anTbCfgStore req v => Sys2Proof.Machine.execAnTbCfgStore req v s
  | .anSetLoStore req v => Sys2Proof.Machine.execAnSetLoStore req v s
  | .anSnapStore => Sys2Proof.Machine.execAnSnapStore s
  | .timeHiRead page => Sys2Proof.Machine.execTimeHiRead page s
  | .ppsOutPulse => Sys2Proof.Machine.execPpsOutPulse s
  | .leapSecond => Sys2Proof.Machine.execLeapSecond s
  | .epochBoundary => Sys2Proof.Machine.execEpochBoundary s
  | .referencePhasorTimeout n => Sys2Proof.Machine.execReferencePhasorTimeout n s
  | .referenceHoldExpiry n => Sys2Proof.Machine.execReferenceHoldExpiry n s
  | .anRefCfgStore req n v => Sys2Proof.Machine.execAnRefCfgStore req n v s
  | .anViewStore req p v => Sys2Proof.Machine.execAnViewStore req p v s
  | .alloc p ctx arg => Sys2Proof.Machine.execAlloc p ctx arg s
  | .free p ctx arg => Sys2Proof.Machine.execFree p ctx arg s
  | .enable p ctx arg => Sys2Proof.Machine.execEnable p ctx arg s
  | .disable p ctx arg => Sys2Proof.Machine.execDisable p ctx arg s
  | .run p ctx arg => Sys2Proof.Machine.execRun p ctx arg s
  | .stop p ctx arg => Sys2Proof.Machine.execStop p ctx arg s
  | .setclass p ctx arg => Sys2Proof.Machine.execSetclass p ctx arg s
  | .reset p ctx arg => Sys2Proof.Machine.execReset p ctx arg s
  | .scEvraiseStore p src => Sys2Proof.Machine.execScEvraiseStore p src s
  | .stageDecision ctx => Sys2Proof.Machine.execStageDecision ctx s
  | .slotBecomesFree slot => Sys2Proof.Machine.execSlotBecomesFree slot s
  | .displacement slot => Sys2Proof.Machine.execDisplacement slot s
  | .portGrant port => Sys2Proof.Machine.execPortGrant port s
  | .stageInComplete port => Sys2Proof.Machine.execStageInComplete port s
  | .firstGroupFetched slot => Sys2Proof.Machine.execFirstGroupFetched slot s
  | .dueCycle ctx => Sys2Proof.Machine.execDueCycle ctx s
  | .angleDuePoint ctx => Sys2Proof.Machine.execAngleDuePoint ctx s
  | .timeDuePoint ctx => Sys2Proof.Machine.execTimeDuePoint ctx s
  | .runBudgetExpiry slot => Sys2Proof.Machine.execRunBudgetExpiry slot s
  | .writeBackRequest slot => Sys2Proof.Machine.execWriteBackRequest slot s
  | .writeBackVerdict port agree => Sys2Proof.Machine.execWriteBackVerdict port agree s
  | .commitRelease ctx => Sys2Proof.Machine.execCommitRelease ctx s
  | .interlockAnswer release => Sys2Proof.Machine.execInterlockAnswer release s
  | .interlockTimeout => Sys2Proof.Machine.execInterlockTimeout s
  | .firnApertureAccess req c w store => Sys2Proof.Machine.execFirnApertureAccess req c w store s
  | .scOpageStore req n isC v => Sys2Proof.Machine.execScOpageStore req n isC v s
  | .scPrangeStore req p v => Sys2Proof.Machine.execScPrangeStore req p v s
  | .entryWordStore req p x j v => Sys2Proof.Machine.execEntryWordStore req p x j v s
  | .add slot f => Sys2Proof.Machine.execAdd slot f s
  | .sub slot f => Sys2Proof.Machine.execSub slot f s
  | .and slot f => Sys2Proof.Machine.execAnd slot f s
  | .or slot f => Sys2Proof.Machine.execOr slot f s
  | .xor slot f => Sys2Proof.Machine.execXor slot f s
  | .andn slot f => Sys2Proof.Machine.execAndn slot f s
  | .slt slot f => Sys2Proof.Machine.execSlt slot f s
  | .sltu slot f => Sys2Proof.Machine.execSltu slot f s
  | .sll slot f => Sys2Proof.Machine.execSll slot f s
  | .srl slot f => Sys2Proof.Machine.execSrl slot f s
  | .sra slot f => Sys2Proof.Machine.execSra slot f s
  | .slli slot f => Sys2Proof.Machine.execSlli slot f s
  | .srli slot f => Sys2Proof.Machine.execSrli slot f s
  | .srai slot f => Sys2Proof.Machine.execSrai slot f s
  | .clz slot f => Sys2Proof.Machine.execClz slot f s
  | .sxh slot f => Sys2Proof.Machine.execSxh slot f s
  | .sxn slot f => Sys2Proof.Machine.execSxn slot f s
  | .min slot f => Sys2Proof.Machine.execMin slot f s
  | .max slot f => Sys2Proof.Machine.execMax slot f s
  | .addi slot f => Sys2Proof.Machine.execAddi slot f s
  | .andi slot f => Sys2Proof.Machine.execAndi slot f s
  | .ori slot f => Sys2Proof.Machine.execOri slot f s
  | .xori slot f => Sys2Proof.Machine.execXori slot f s
  | .slti slot f => Sys2Proof.Machine.execSlti slot f s
  | .sltiu slot f => Sys2Proof.Machine.execSltiu slot f s
  | .seth slot f => Sys2Proof.Machine.execSeth slot f s
  | .lea slot f => Sys2Proof.Machine.execLea slot f s
  | .mul slot f => Sys2Proof.Machine.execMul slot f s
  | .mulh slot f => Sys2Proof.Machine.execMulh slot f s
  | .mulhu slot f => Sys2Proof.Machine.execMulhu slot f s
  | .div slot f => Sys2Proof.Machine.execDiv slot f s
  | .divu slot f => Sys2Proof.Machine.execDivu slot f s
  | .rem slot f => Sys2Proof.Machine.execRem slot f s
  | .remu slot f => Sys2Proof.Machine.execRemu slot f s
  | .ldw slot f => Sys2Proof.Machine.execLdw slot f s
  | .ldh slot f => Sys2Proof.Machine.execLdh slot f s
  | .ldhu slot f => Sys2Proof.Machine.execLdhu slot f s
  | .ldn slot f => Sys2Proof.Machine.execLdn slot f s
  | .ldnu slot f => Sys2Proof.Machine.execLdnu slot f s
  | .stw slot f => Sys2Proof.Machine.execStw slot f s
  | .sth slot f => Sys2Proof.Machine.execSth slot f s
  | .stn slot f => Sys2Proof.Machine.execStn slot f s
  | .ldu slot f => Sys2Proof.Machine.execLdu slot f s
  | .stu slot f => Sys2Proof.Machine.execStu slot f s
  | .swap slot f => Sys2Proof.Machine.execSwap slot f s
  | .cas slot f => Sys2Proof.Machine.execCas slot f s
  | .fadd slot f => Sys2Proof.Machine.execFadd slot f s
  | .beq slot f => Sys2Proof.Machine.execBeq slot f s
  | .bne slot f => Sys2Proof.Machine.execBne slot f s
  | .blt slot f => Sys2Proof.Machine.execBlt slot f s
  | .bge slot f => Sys2Proof.Machine.execBge slot f s
  | .bltu slot f => Sys2Proof.Machine.execBltu slot f s
  | .bgeu slot f => Sys2Proof.Machine.execBgeu slot f s
  | .call slot f => Sys2Proof.Machine.execCall slot f s
  | .jreg slot f => Sys2Proof.Machine.execJreg slot f s
  | .save slot f => Sys2Proof.Machine.execSave slot f s
  | .restore slot f => Sys2Proof.Machine.execRestore slot f s
  | .savel slot f => Sys2Proof.Machine.execSavel slot f s
  | .saveu slot f => Sys2Proof.Machine.execSaveu slot f s
  | .restl slot f => Sys2Proof.Machine.execRestl slot f s
  | .restu slot f => Sys2Proof.Machine.execRestu slot f s
  | .movb slot f => Sys2Proof.Machine.execMovb slot f s
  | .yield slot f => Sys2Proof.Machine.execYield slot f s
  | .swapctx slot f => Sys2Proof.Machine.execSwapctx slot f s
  | .eret slot f => Sys2Proof.Machine.execEret slot f s
  | .trapdone slot f => Sys2Proof.Machine.execTrapdone slot f s
  | .fence slot f => Sys2Proof.Machine.execFence slot f s
  | .ifence slot f => Sys2Proof.Machine.execIfence slot f s
  | .tsync slot f => Sys2Proof.Machine.execTsync slot f s
  | .tlbi slot f => Sys2Proof.Machine.execTlbi slot f s
  | .pbar slot f => Sys2Proof.Machine.execPbar slot f s
  | .pflush slot f => Sys2Proof.Machine.execPflush slot f s
  | .rdctl slot f => Sys2Proof.Machine.execRdctl slot f s
  | .wrctl slot f => Sys2Proof.Machine.execWrctl slot f s
  | .syscall slot f => Sys2Proof.Machine.execSyscall slot f s
  | .firmwareCall slot f => Sys2Proof.Machine.execFirmwareCall slot f s
  | .agld slot f => Sys2Proof.Machine.execAgld slot f s
  | .agst slot f => Sys2Proof.Machine.execAgst slot f s
  | .agadr slot f => Sys2Proof.Machine.execAgadr slot f s
  | .agadv slot f => Sys2Proof.Machine.execAgadv slot f s
  | .agrd slot f => Sys2Proof.Machine.execAgrd slot f s
  | .agwr slot f => Sys2Proof.Machine.execAgwr slot f s
  | .mac slot acc1 f => Sys2Proof.Machine.execMac slot acc1 f s
  | .msu slot acc1 f => Sys2Proof.Machine.execMsu slot acc1 f s
  | .macl slot acc1 f => Sys2Proof.Machine.execMacl slot acc1 f s
  | .macd slot acc1 f => Sys2Proof.Machine.execMacd slot acc1 f s
  | .accrnd slot acc1 f => Sys2Proof.Machine.execAccrnd slot acc1 f s
  | .acchi slot acc1 f => Sys2Proof.Machine.execAcchi slot acc1 f s
  | .acclo slot acc1 f => Sys2Proof.Machine.execAcclo slot acc1 f s
  | .accset slot acc1 f => Sys2Proof.Machine.execAccset slot acc1 f s
  | .macr slot acc1 f => Sys2Proof.Machine.execMacr slot acc1 f s
  | .sprd slot acc1 f => Sys2Proof.Machine.execSprd slot acc1 f s
  | .spwr slot acc1 f => Sys2Proof.Machine.execSpwr slot acc1 f s
  | .cis slot f => Sys2Proof.Machine.execCis slot f s
  | .rot slot f => Sys2Proof.Machine.execRot slot f s
  | .sdft slot f => Sys2Proof.Machine.execSdft slot f s
  | .mag slot f => Sys2Proof.Machine.execMag slot f s
  | .ang slot f => Sys2Proof.Machine.execAng slot f s
  | .cubi slot f => Sys2Proof.Machine.execCubi slot f s
  | .dftr slot f => Sys2Proof.Machine.execDftr slot f s
  | .longOperationComplete slot => Sys2Proof.Machine.execLongOperationComplete slot s
  | .storeDrain slot => Sys2Proof.Machine.execStoreDrain slot s
  | .asyncStoreErrorTrap slot => Sys2Proof.Machine.execAsyncStoreErrorTrap slot s
  | .prefetch slot va => Sys2Proof.Machine.execPrefetch slot va s
  | .fetchReturn slot va => Sys2Proof.Machine.execFetchReturn slot va s
  | .loadReturn slot => Sys2Proof.Machine.execLoadReturn slot s
  | .interruptDelivery slot => Sys2Proof.Machine.execInterruptDelivery slot s
  | .wakeStaging p line => Sys2Proof.Machine.execWakeStaging p line s
  | .counterOverflowTrap slot => Sys2Proof.Machine.execCounterOverflowTrap slot s
  | .counterWrap slot j => Sys2Proof.Machine.execCounterWrap slot j s
  | .tableWalk slot va kind => Sys2Proof.Machine.execTableWalk slot va kind s
  | .tlbiArrival core => Sys2Proof.Machine.execTlbiArrival core s
  | .tlbiAck core => Sys2Proof.Machine.execTlbiAck core s
  | .pin core => Sys2Proof.Machine.execPin core s
  | .unpin core => Sys2Proof.Machine.execUnpin core s
  | .unpinAll core => Sys2Proof.Machine.execUnpinAll core s
  | .tlWbStore req p k v => Sys2Proof.Machine.execTlWbStore req p k v s
  | .tlWlStore req p k v => Sys2Proof.Machine.execTlWlStore req p k v s
  | .wpendClear => Sys2Proof.Machine.execWpendClear s
  | .load tgt => Sys2Proof.Machine.execLoad tgt s
  | .unlock tgt => Sys2Proof.Machine.execUnlock tgt s
  | .lockLoadComplete tgt => Sys2Proof.Machine.execLockLoadComplete tgt s
  | .lockDrainComplete tgt => Sys2Proof.Machine.execLockDrainComplete tgt s
  | .scrub src line => Sys2Proof.Machine.execScrub src line s
  | .rds agent line => Sys2Proof.Machine.execRds agent line s
  | .rdx agent line => Sys2Proof.Machine.execRdx agent line s
  | .upg agent line => Sys2Proof.Machine.execUpg agent line s
  | .wbd agent line => Sys2Proof.Machine.execWbd agent line s
  | .evn agent line => Sys2Proof.Machine.execEvn agent line s
  | .wrh agent line words target => Sys2Proof.Machine.execWrh agent line words target s
  | .snoop agent line => Sys2Proof.Machine.execSnoop agent line s
  | .snoopAnswer agent line => Sys2Proof.Machine.execSnoopAnswer agent line s
  | .declareDead agent => Sys2Proof.Machine.execDeclareDead agent s
  | .declareLive agent => Sys2Proof.Machine.execDeclareLive agent s
  | .agentFault agent => Sys2Proof.Machine.execAgentFault agent s
  | .sweepComplete => Sys2Proof.Machine.execSweepComplete s
  | .lsLockstep k => Sys2Proof.Machine.execLsLockstep k s
  | .lsSplit k => Sys2Proof.Machine.execLsSplit k s
  | .lsOff k => Sys2Proof.Machine.execLsOff k s
  | .retest k => Sys2Proof.Machine.execRetest k s
  | .inject k => Sys2Proof.Machine.execInject k s
  | .mismatch k kind slot => Sys2Proof.Machine.execMismatch k kind slot s
  | .reconcileComplete k differ => Sys2Proof.Machine.execReconcileComplete k differ s
  | .selfTestVerdict k failM failC => Sys2Proof.Machine.execSelfTestVerdict k failM failC s
  | .init ch rank => Sys2Proof.Machine.execInit ch rank s
  | .zero ch rank => Sys2Proof.Machine.execZero ch rank s
  | .zeroComplete ch => Sys2Proof.Machine.execZeroComplete ch s
  | .sre ch rank => Sys2Proof.Machine.execSre ch rank s
  | .srx ch rank => Sys2Proof.Machine.execSrx ch rank s
  | .measure ch rank => Sys2Proof.Machine.execMeasure ch rank s
  | .measureComplete ch eyes => Sys2Proof.Machine.execMeasureComplete ch eyes s
  | .migrate ch rank => Sys2Proof.Machine.execMigrate ch rank s
  | .migrationCopy ch => Sys2Proof.Machine.execMigrationCopy ch s
  | .mcMapStore req v => Sys2Proof.Machine.execMcMapStore req v s
  | .mcDlyStore req ch rank dev v => Sys2Proof.Machine.execMcDlyStore req ch rank dev v s
  | .dramReadRequest line part => Sys2Proof.Machine.execDramReadRequest line part s
  | .dramWriteRequest line => Sys2Proof.Machine.execDramWriteRequest line s
  | .dramReadReturn ch => Sys2Proof.Machine.execDramReadReturn ch s
  | .refreshDue ch rank => Sys2Proof.Machine.execRefreshDue ch rank s
  | .retrainingPause ch rank moves => Sys2Proof.Machine.execRetrainingPause ch rank moves s
  | .neighbourRefresh ch => Sys2Proof.Machine.execNeighbourRefresh ch s
  | .patrolScrub ch => Sys2Proof.Machine.execPatrolScrub ch s
  | .modeRegisterPoll ch rank need2x aboveLimit => Sys2Proof.Machine.execModeRegisterPoll ch rank need2x aboveLimit s
  | .writeBatchStart ch => Sys2Proof.Machine.execWriteBatchStart ch s
  | .frameReceived port f => Sys2Proof.Machine.execFrameReceived port f s
  | .frameTransmit port => Sys2Proof.Machine.execFrameTransmit port s
  | .linkUp port => Sys2Proof.Machine.execLinkUp port s
  | .linkDown port midFrame => Sys2Proof.Machine.execLinkDown port midFrame s
  | .learningAge mac => Sys2Proof.Machine.execLearningAge mac s
  | .flush => Sys2Proof.Machine.execFlush s
  | .discardEntryForget pair src seq => Sys2Proof.Machine.execDiscardEntryForget pair src seq s
  | .supervisionSend pair => Sys2Proof.Machine.execSupervisionSend pair s
  | .ringStatusTimeout pair which => Sys2Proof.Machine.execRingStatusTimeout pair which s
  | .nodeEntryAge pair node => Sys2Proof.Machine.execNodeEntryAge pair node s
  | .pdelayReqSend port => Sys2Proof.Machine.execPdelayReqSend port s
  | .ptpTimeout port announce => Sys2Proof.Machine.execPtpTimeout port announce s
  | .errorRateSecond => Sys2Proof.Machine.execErrorRateSecond s
  | .bypassHealthChange pair marker => Sys2Proof.Machine.execBypassHealthChange pair marker s
  | .holddlyExpiry pair => Sys2Proof.Machine.execHolddlyExpiry pair s
  | .bypassDriveFault pair short => Sys2Proof.Machine.execBypassDriveFault pair short s
  | .npHtxkStore req p => Sys2Proof.Machine.execNpHtxkStore req p s
  | .npPcfgStore req x v => Sys2Proof.Machine.execNpPcfgStore req x v s
  | .npCfgStore req v => Sys2Proof.Machine.execNpCfgStore req v s
  | .pdEnable tbl idx => Sys2Proof.Machine.execPdEnable tbl idx s
  | .pdDisable tbl idx => Sys2Proof.Machine.execPdDisable tbl idx s
  | .svTimeout x => Sys2Proof.Machine.execSvTimeout x s
  | .gooseDeadline x => Sys2Proof.Machine.execGooseDeadline x s
  | .resamplePoint x => Sys2Proof.Machine.execResamplePoint x s
  | .labelReached x => Sys2Proof.Machine.execLabelReached x s
  | .publicationRelease => Sys2Proof.Machine.execPublicationRelease s
  | .gooseRetransmission g => Sys2Proof.Machine.execGooseRetransmission g s
  | .discreteInputChange n level => Sys2Proof.Machine.execDiscreteInputChange n level s
  | .minonExpiry n => Sys2Proof.Machine.execMinonExpiry n s
  | .deadmanExpiry n => Sys2Proof.Machine.execDeadmanExpiry n s
  | .railReadback n high low => Sys2Proof.Machine.execRailReadback n high low s
  | .outputBindStore req kind n v => Sys2Proof.Machine.execOutputBindStore req kind n v s
  | .version slot => Sys2Proof.Machine.execVersion slot s
  | .shwrite slot => Sys2Proof.Machine.execShwrite slot s
  | .keystat slot => Sys2Proof.Machine.execKeystat slot s
  | .crypt slot => Sys2Proof.Machine.execCrypt slot s
  | .cryptJobDone p => Sys2Proof.Machine.execCryptJobDone p s
  | .update slot => Sys2Proof.Machine.execUpdate slot s
  | .hold slot => Sys2Proof.Machine.execHold slot s
  | .predclr slot => Sys2Proof.Machine.execPredclr slot s
  | .monitorCallTimeout slot => Sys2Proof.Machine.execMonitorCallTimeout slot s
  | .keyExpiry keyid => Sys2Proof.Machine.execKeyExpiry keyid s
  | .secureWatchdogExpiry => Sys2Proof.Machine.execSecureWatchdogExpiry s
  | .rkWdkickStore req v => Sys2Proof.Machine.execRkWdkickStore req v s
  | .rkPclrStore req v => Sys2Proof.Machine.execRkPclrStore req v s
  | .secureBoot => Sys2Proof.Machine.execSecureBoot s
  | .handover => Sys2Proof.Machine.execHandover s
  | .openSession tr role part cred confReq nc => Sys2Proof.Machine.execOpenSession tr role part cred confReq nc s
  | .prove tr sid proof => Sys2Proof.Machine.execProve tr sid proof s
  | .proveTimeout sid => Sys2Proof.Machine.execProveTimeout sid s
  | .read m index sub group offset count => Sys2Proof.Machine.execRead m index sub group offset count s
  | .write m index sub group offset stage value => Sys2Proof.Machine.execWrite m index sub group offset stage value s
  | .apply m => Sys2Proof.Machine.execApply m s
  | .close m => Sys2Proof.Machine.execClose m s
  | .ping m => Sys2Proof.Machine.execPing m s
  | .sessionIdleTimeout sid => Sys2Proof.Machine.execSessionIdleTimeout sid s
  | .lockoutExpiry cred => Sys2Proof.Machine.execLockoutExpiry cred s
  | .flip p => Sys2Proof.Machine.execFlip p s
  | .configurationStoreWrite => Sys2Proof.Machine.execConfigurationStoreWrite s
  | .dxMdbStore req p v => Sys2Proof.Machine.execDxMdbStore req p v s
  | .mailboxResponse p => Sys2Proof.Machine.execMailboxResponse p s
  | .moraineSlotWrite ok => Sys2Proof.Machine.execMoraineSlotWrite ok s
  | .moraineScanComplete => Sys2Proof.Machine.execMoraineScanComplete s
  | .moRselLoStore req v => Sys2Proof.Machine.execMoRselLoStore req v s
  | .moraineReadDone => Sys2Proof.Machine.execMoraineReadDone s
  | .configurationRequest f dw write => Sys2Proof.Machine.execConfigurationRequest f dw write s
  | .inboundRead f form bar off len => Sys2Proof.Machine.execInboundRead f form bar off len s
  | .inboundWrite f form bar off octets => Sys2Proof.Machine.execInboundWrite f form bar off octets s
  | .outboundCompletion slot status ep data => Sys2Proof.Machine.execOutboundCompletion slot status ep data s
  | .completionTimeout slot => Sys2Proof.Machine.execCompletionTimeout slot s
  | .pxFirqStore req f v => Sys2Proof.Machine.execPxFirqStore req f v s
  | .interruptMessageSend => Sys2Proof.Machine.execInterruptMessageSend s
  | .pxIwaStore req f w v => Sys2Proof.Machine.execPxIwaStore req f w v s
  | .flr f => Sys2Proof.Machine.execFlr f s
  | .hotReset how => Sys2Proof.Machine.execHotReset how s
  | .pmOn req domain => Sys2Proof.Machine.execPmOn req domain s
  | .pmClkoff req domain => Sys2Proof.Machine.execPmClkoff req domain s
  | .pmOff req domain => Sys2Proof.Machine.execPmOff req domain s
  | .domainTransitionComplete => Sys2Proof.Machine.execDomainTransitionComplete s
  | .domainLost d => Sys2Proof.Machine.execDomainLost d s
  | .railExcursion r mv => Sys2Proof.Machine.execRailExcursion r mv s
  | .railBack r mv => Sys2Proof.Machine.execRailBack r mv s
  | .sensorRead sensor temp => Sys2Proof.Machine.execSensorRead sensor temp s
  | .powerFail rail => Sys2Proof.Machine.execPowerFail rail s
  | .holdUpEnd => Sys2Proof.Machine.execHoldUpEnd s
  | .powerOnResetRelease refsel => Sys2Proof.Machine.execPowerOnResetRelease refsel s
  | .resetNLow => Sys2Proof.Machine.execResetNLow s
  | .pmRstWarm req => Sys2Proof.Machine.execPmRstWarm req s
  | .pmRstCold req => Sys2Proof.Machine.execPmRstCold req s
  | .blockRelease => Sys2Proof.Machine.execBlockRelease s
  | .routerTake => Sys2Proof.Machine.execRouterTake s
  | .tapUpdateIr code => Sys2Proof.Machine.execTapUpdateIr code s
  | .extest cells => Sys2Proof.Machine.execExtest cells s
  | .samplePreload cells => Sys2Proof.Machine.execSamplePreload cells s
  | .idcode => Sys2Proof.Machine.execIdcode s
  | .clamp => Sys2Proof.Machine.execClamp s
  | .highz => Sys2Proof.Machine.execHighz s
  | .bypass => Sys2Proof.Machine.execBypass s
  | .dbgacc off wr data => Sys2Proof.Machine.execDbgacc off wr data s
  | .dbgauth proof cred => Sys2Proof.Machine.execDbgauth proof cred s
  | .diag off wr data => Sys2Proof.Machine.execDiag off wr data s
  | .halt => Sys2Proof.Machine.execHalt s
  | .resume => Sys2Proof.Machine.execResume s
  | .step => Sys2Proof.Machine.execStep s
  | .rdreg => Sys2Proof.Machine.execRdreg s
  | .wrreg => Sys2Proof.Machine.execWrreg s
  | .rdmem => Sys2Proof.Machine.execRdmem s
  | .wrmem => Sys2Proof.Machine.execWrmem s
  | .rdphy => Sys2Proof.Machine.execRdphy s
  | .wrphy => Sys2Proof.Machine.execWrphy s
  | .dbDcmdSelfTest pair => Sys2Proof.Machine.execDbDcmdSelfTest pair s
  | .secureCoreAnswer slot => Sys2Proof.Machine.execSecureCoreAnswer slot s
  | .updateEnd => Sys2Proof.Machine.execUpdateEnd s
  | .initComplete failDev => Sys2Proof.Machine.execInitComplete failDev s
  | .dramCommandIssue ch => Sys2Proof.Machine.execDramCommandIssue ch s
  | .pcieLinkUp speed lanes => Sys2Proof.Machine.execPcieLinkUp speed lanes s
  | .testenHigh => Sys2Proof.Machine.execTestenHigh s

end Sys2Proof.Machine
end

