-- ==== Sys2Proof/Safety.lean ====
section
/-! DEFINITION. What counts as a safe run, and the conditions in whose terms statements about commands are made. -/

namespace Sys2Proof

/-- The outcome is a next state. -/
def goesOn (o : Host.Outcome Machine.State Machine.Fault Machine.Refusal) : Bool :=
  match o with
  | .next _ => true
  | _ => false

/-- A state is safe where its next step goes on. -/
def safe (s : Machine.State) : Prop := goesOn (Machine.step s) = true

namespace Machine

/-- The command `c` goes on to a next state of which `P` holds. -/
def Completes (c : Instr) (s : State) (P : State → Prop) : Prop := ∃ t, exec c s = .next t ∧ P t

/-- A session waits for no register to show a completion (R453). -/
def Session.still (x : Session) : Bool :=
  match x.wait with
  | .reg _ => false
  | _ => true

/-- Whether the drive of a bypass relay that is held closed has its conditions (R364, R365). -/
def State.relayDue (s : State) (k : Nat) : Bool := s.fbit (Reg.NP_BYP_HEALTHY k) && !s.bypassHealthy k true

/-- Nothing that an earlier command left waits to be carried out with the next one: no outbound load that PCIe gave up, no debugger's
command, no write of the dictionary that waits for a register, no work of the engine and no trace packet that waits for memory, no reset
that a store asked for, no relay to be let go. -/
def State.settled (s : State) : Bool :=
  s.pcie.failed.isEmpty && s.tap.cmd.isNone && decide (s.pow.rstReq = 0) &&
    (s.dict.sess.all fun (_, x) => (x.map Session.still).getD true) &&
    s.pd.jobs.isEmpty && s.trc.vis.isEmpty && !s.relayDue 0 && !s.relayDue 1

/-- Rook has released every block (R14, R522). -/
def State.booted (s : State) : Bool := !s.boot.rom && decide (6 ≤ s.boot.done)

/-- The part runs past its boot and nothing waits to be carried out. -/
def State.calm (s : State) : Bool := s.running && s.booted && s.settled

/-- The state on which the operation of the instruction at PC of a ready slot works: the instruction has issued in this cycle, and `mem`
says that it uses the port. -/
def State.begun (s : State) (i : Nat) (mem : Bool := false) : State := s.startIssue i mem

/-- The word at an address stands, good, in the group at the head of a fetch buffer. -/
def Slot.hasWord (x : Slot) (va : Word) : Bool :=
  match x.fetch with
  | [] => false
  | g :: _ => decide (g.group = fetchGroup va) && (match g.words.getD (va.toNat % 16 / 4) (.err 0) with
    | .word _ => true
    | .err _ => false)

/-- The thread in slot `i` issues the instruction at PC in this cycle (R17, R183, R184): it holds a context whose gate is open, the cycle
is one of its own and neither it nor its port has been used, no data of an earlier access hold it, no event waits at the boundary, the
instruction stands in the fetch buffer, the run's budget is not reached, no debugger steps the slot, and the instruction before it has
been reported. -/
def State.ready (s : State) (i : Nat) : Bool :=
  let x := s.slot i
  s.mayIssue i && decide (s.cyc % 8 = i % 8 ∧ x.next ≤ s.cyc ∧ x.judged ≤ s.cyc ∧ x.portAt ≤ s.cyc) && x.retire.isNone &&
    x.hostData.isEmpty && decide (s.tap.stepSlot ≠ some i) && !(s.begun i).overBudget i && (s.boundary i).isNone &&
    x.hasWord (s.img i iwPc)

/-- No long operation in flight writes one of the places that an instruction names (R180). -/
def State.clear (s : State) (i : Nat) (ps : List Place) : Bool := decide (dueOf ps (s.slot i).long ≤ s.cyc)

/-- A register that a long operation may name as its destination (R179). -/
def Place.register (p : Place) : Bool :=
  match p with
  | .img w => decide (16 ≤ w ∧ w < 166)
  | .win .. => true
  | .zero => true
  | _ => false

/-- Every long operation in flight writes registers of its own slot and nothing else. -/
def State.opsInRegisters (s : State) : Bool :=
  s.core.slots.all fun (_, x) => x.long.all fun o => o.writes.all fun (p, _) => p.register

/-- The frame of an instruction that works on the registers of slot `i` alone: nothing outside the cores changes, no other slot, no
save set, and of the slot's own words none but the place written, PC, NPC and RUNCYC (which a first issue sets to 0). -/
def Keeps (s t : State) (i : Nat) (p : Place) : Prop :=
  t = { s with core := t.core } ∧ t.core.save = s.core.save ∧
    (∀ j, j ≠ i → t.slot j = s.slot j) ∧ (∀ j w, j ≠ i → w < 256 → t.img j w = s.img j w) ∧
    (∀ w, w < 256 → w ≠ iwPc → w ≠ iwNpc → w ≠ iwRuncyc → p ≠ .img w → t.img i w = s.img i w) ∧
    (∀ j l k, l < 4 → k < 8 → (j ≠ i ∨ p ≠ .win l k) → t.win j l k = s.win j l k)

/-- PC and NPC have moved to the next instruction (R126). -/
def Advanced (s t : State) (i : Nat) : Prop :=
  t.img i iwPc = s.img i iwNpc ∧ t.img i iwNpc = s.img i iwNpc + 4

/-- The command writes `v` to GPR[rd] of slot `i` and to no other register; a write to c0 is discarded (R115). -/
def WritesReg (c : Instr) (s : State) (i : Nat) (rd : BitVec 5) (v : Word) : Prop :=
  Completes c s fun t =>
    t.reg i rd = (if rd = 0 then 0 else v) ∧ (∀ r, r ≠ rd → t.reg i r = s.reg i r) ∧ Advanced s t i ∧ Keeps s t i (s.place i rd)

/-- The command issues a long operation that will write these words and set these bits of SPSTAT `n` cycles later, and writes no register
yet (R179). -/
def IssuesLong (c : Instr) (s : State) (i n : Nat) (o : LongOp) : Prop :=
  Completes c s fun t =>
    (t.slot i).long = (s.slot i).long ++ [{ o with due := s.cyc + n }] ∧ (∀ r, t.reg i r = s.reg i r) ∧ Advanced s t i ∧
      Keeps s t i .zero

/-- The control transfer `c` of a slot: PC takes NPC, and NPC the target where it is taken, else the word after; one that is not taken
and annuls its delay slot skips it (R126 to R128). Of the registers it writes GPR[rd] alone. -/
def TransfersTo (c : Instr) (s : State) (i : Nat) (taken annul : Bool) (target : Word) (rd : BitVec 5) (link : Word) : Prop :=
  Completes c s fun t =>
    t.img i iwPc = (if taken || !annul then s.img i iwNpc else s.img i iwNpc + 4) ∧
    t.img i iwNpc = (if taken then target else if annul then s.img i iwNpc + 8 else s.img i iwNpc + 4) ∧
    (t.slot i).dslot = (taken || !annul) ∧
    t.reg i rd = (if rd = 0 then 0 else link) ∧ (∀ r, r ≠ rd → t.reg i r = s.reg i r) ∧ Keeps s t i (s.place i rd)

/-! ## Accesses to memory -/

/-- An entry of the core's first-level TLB translates the access of `n` nonets at `va` and allows it (R245, R248 to R250). -/
def State.allows (s : State) (i : Nat) (asU : Bool) (k : Kind) (n : Nat) (va : Word) (e : TlbEntry) : Bool :=
  let w := s.who i asU
  bitAt w.root 35 && (s.tlb (i / 8)).all (fun x => !x.ue) &&
    decide ((s.tlb (i / 8)).find? (fun x => x.matches w va) = some e) && (if k = .fetch then e.inI else e.inD) &&
    (s.accessFault e w k va (e.pa va)).isNone && (typeFault k n (e.pa va) e.attr va).isNone

/-- The L1D (or L1I) of a slot's core holds the word of DRAM at a physical address, good, and its slice has not been lost. -/
def State.near (s : State) (i : Nat) (fetch : Bool) (pa : Nat) (v : Word) : Bool :=
  decide (pa < paDramEnd) && !s.sliceLost (pa / 64) && s.inL1 (i / 8) fetch (pa / 64) &&
    decide (readSealed ((s.l1Way (i / 8) fetch (pa / 64)).words.getD (pa / 4 % 16) 0) = .good v)

/-- The cluster of a slot may write the line of DRAM at a physical address: it holds it in E or M, and no request for it waits. -/
def State.owned (s : State) (i pa : Nat) : Bool :=
  decide (pa < paDramEnd) && !s.sliceLost (pa / 64) && (s.agentSt (i / 32) (pa / 64)).suffices true &&
    decide (s.lineQ (pa / 64) = LineQ.idle)

/-- The word of DRAM at a physical address that the L2 of a cluster holds, good, where no L1D of it has a newer one and no request for
its line waits. -/
def State.l2Word (s : State) (a pa : Nat) : Option Word :=
  let line := pa / 64
  if pa < paDramEnd ∧ s.sliceLost line = false ∧ s.lineQ line = LineQ.idle ∧ (s.agentSt a line).holds = true ∧
      ((clusterCores a).all fun n => decide ((s.l1Way n false line).st ≠ .m)) = true then
    match readSealed ((s.agentLine a line).words.getD (pa / 4 % 16) 0) with
    | .good v => some v
    | _ => none
  else none

/-- The entry that a walk of `va` finds where the L2 of the cluster holds every table word that it reads, each of which the requester
reaches; `n` bounds the levels left (R240 to R245). -/
def State.l2From (s : State) (a : Nat) (w : Who) (va : Word) : Nat → Nat → Nat → Bool → Option TlbEntry
  | 0, _, _, _ => none
  | n + 1, t, lvl, coded =>
    let pa := t + 4 * vaIndex va lvl
    match (if s.reachable w pa 1 then s.l2Word a pa else none) with
    | none => none
    | some e =>
      match readPte lvl coded e with
      | .pointer f d => State.l2From s a w va n (f * 4096) (lvl + 1) (if lvl = 2 then d else coded)
      | .leaf z pb => some (leafEntry w va e z pb)
      | _ => none

/-- The entry that a walk finds so under a root in force. -/
def State.l2Walk (s : State) (a : Nat) (w : Who) (va : Word) : Option TlbEntry :=
  if bitAt w.root 35 then State.l2From s a w va 3 (bits w.root 0 32 * 64) 1 false else none

/-- Nothing that a slot's context has stored stands between it and memory at `n` nonets: no capture, no entry of the store buffer. -/
def State.unbuffered (s : State) (i pa n : Nat) : Bool :=
  (s.captured i pa).isNone && (s.slot i).sb.all fun x => !x.overlaps pa n

/-- The data that an access of the slot reads at `va`, where its TLB and its L1 hold what it needs: no walk, no miss. -/
def State.reads (s : State) (i n : Nat) (asU : Bool) (va : Word) (e : TlbEntry) (v : Word) : Bool :=
  s.allows i asU .load n va e && decide (e.attr < 2) && s.near i false (e.pa va) v && s.unbuffered i (e.pa va) n

/-- A store of the slot at `va` goes to memory, and the cluster may write the line (R191, R192). -/
def State.mayStore (s : State) (i n : Nat) (asU : Bool) (va : Word) (e : TlbEntry) : Bool :=
  s.allows i asU .store n va e && decide (e.attr < 2) && s.owned i (e.pa va) && (s.targetOf i (e.pa va)).isNone

/-- Nothing of memory changes but when its lines were last used. -/
def SameMemory (s t : State) : Prop :=
  t.dram = s.dram ∧ t.mem.dirs = s.mem.dirs ∧ t.mem.sram = s.mem.sram ∧ (∀ c f l, t.l1Way c f l = s.l1Way c f l) ∧
    ∀ a l, (t.agentLine a l).st = (s.agentLine a l).st ∧ (t.agentLine a l).words = (s.agentLine a l).words

/-- What an instruction that reads memory leaves of all but the registers. -/
def ReadsOnly (s t : State) : Prop := t = { s with core := t.core, mem := t.mem } ∧ SameMemory s t

/-- The nonet at `off` of a word. -/
def nonetAt (v : Word) (off : Nat) : BitVec 9 := v.extractLsb' (9 * off) 9

/-- The load `c` of `n` nonets at GPR[ra] + `imm`. With `u` the state in which it has issued: where its address is aligned, its access is
allowed and not PCIe's, and its data come, GPR[rd] takes them, extended; no other register changes, and memory is as the read itself
leaves it. Where the TLB and the L1 hold what it needs, or the store buffer holds every nonet, that is so for the state and the
operands alone. -/
def LoadsAs (c : Instr) (s : State) (i : Nat) (rd ra : BitVec 5) (imm : Word) (n : Nat) (signed asU : Bool) : Prop :=
  ∀ (u : State) (ea : Word), u = s.begun i true → s.clear i (s.places i [rd, ra]) = true → ea = s.reg i ra + imm → ea.toNat % n = 0 →
    (∀ (e : TlbEntry) (v : Word), s.reads i n asU ea e v = true →
      Completes c s fun w =>
        w.reg i rd = (if rd = 0 then 0 else
          if signed then BitVec.ofInt 36 (sint (bits v (9 * (e.pa ea % 4)) (9 * n)) (9 * n))
          else BitVec.ofNat 36 (bits v (9 * (e.pa ea % 4)) (9 * n))) ∧
        (∀ r, r ≠ rd → w.reg i r = s.reg i r) ∧ Advanced s w i ∧ ReadsOnly s w) ∧
    (∀ e : TlbEntry, s.allows i asU .load n ea e = true → e.attr < 2 → isOutbound (e.pa ea) = false →
      (s.captured i (e.pa ea)).isNone = true → (∀ k, k < n → (s.buffered i (e.pa ea + k)).isSome = true) →
      Completes c s fun w =>
        (∀ k, k < n → rd ≠ 0 → nonetAt (w.reg i rd) k = (s.buffered i (e.pa ea + k)).getD 0) ∧
        (∀ r, r ≠ rd → w.reg i r = s.reg i r) ∧ Advanced s w i ∧ ReadsOnly s w) ∧
    (∀ (t q : State) (pa attr : Nat) (v : Word), u.resolve i (u.who i asU) .load n ea = (t, .ok (pa, attr)) →
      isOutbound pa = false → t.loadData i pa attr n ea = (q, .ok v) → q.settled = true →
      Completes c s fun w =>
        w.getPlace i (u.place i rd) =
          (if rd = 0 then 0 else if signed then BitVec.ofInt 36 (sint v.toNat (9 * n)) else v) ∧
        (∀ r, r ≠ rd → w.getPlace i (u.place i r) = q.getPlace i (u.place i r)) ∧ Advanced q w i ∧
        w.mem = q.mem ∧ w.dram = q.dram ∧ w.sch = q.sch)

/-- The store `c` of the low `n` nonets of GPR[rd] at GPR[ra] + `imm`, to memory that is no captured target, while the store buffer
has room: the buffer holds the bytes at the address the access resolves to and is as before elsewhere; no register changes, and
memory is as the request for the line leaves it (R192). Where the TLB holds the entry and the cluster may write the line, no word of
memory changes. -/
def StoresAs (c : Instr) (s : State) (i : Nat) (rd ra : BitVec 5) (imm : Word) (n : Nat) (asU : Bool) : Prop :=
  ∀ (u : State) (ea : Word), u = s.begun i true → s.clear i (s.places i [rd, ra]) = true → ea = s.reg i ra + imm → ea.toNat % n = 0 →
    (∀ e : TlbEntry, s.mayStore i n asU ea e = true → e.pa ea % n = 0 → (s.slot i).sb.length < 4 →
      Completes c s fun w =>
        (∀ a, w.buffered i a =
          if e.pa ea ≤ a ∧ a < e.pa ea + n then some (nonetAt (s.reg i rd) (a - e.pa ea)) else s.buffered i a) ∧
        (∀ r, w.reg i r = s.reg i r) ∧ Advanced s w i ∧ ReadsOnly s w) ∧
    (∀ (t q : State) (pa attr : Nat), u.resolve i (u.who i asU) .store n ea = (t, .ok (pa, attr)) → pa % n = 0 →
      isMemory (16 * (pa / 16)) = true → t.targetOf i pa = none → (t.slot i).sb.length < 4 → q = t.askLine i pa attr →
      q.settled = true →
      Completes c s fun w =>
        (∀ a, w.buffered i a = if pa ≤ a ∧ a < pa + n then some (nonetAt (u.reg i rd) (a - pa)) else t.buffered i a) ∧
        (∀ r, w.getPlace i (u.place i r) = t.getPlace i (u.place i r)) ∧ Advanced t w i ∧
        w.mem = q.mem ∧ w.dram = q.dram ∧ w.sch = q.sch)

/-- The atomic `c` on the aligned word at GPR[ra], where nothing waits in the store buffer, the access is allowed and the target is not
captured: GPR[rd] takes the old word, and memory is as the access that reads it and writes `new` of it leaves it. Where the TLB and the
L1D hold what it needs and the cluster may write the line, the L1D holds the new word, and every other word as before. -/
def SwapsAs (c : Instr) (s : State) (i : Nat) (rd ra rb : BitVec 5) (new : State → Word → Option Word) : Prop :=
  ∀ (u : State) (ea : Word), u = s.begun i true → s.clear i (s.places i [rd, ra, rb]) = true → ea = s.reg i ra → ea.toNat % 4 = 0 →
    (s.slot i).sb = [] →
    (∀ (e : TlbEntry) (old : Word), s.allows i false .atomic 4 ea e = true → e.attr < 2 → s.targetOf i (e.pa ea) = none →
      s.near i false (e.pa ea) old = true → s.owned i (e.pa ea) = true → s.pageBars (s.slot i).ctx (e.pa ea) = false →
      Completes c s fun w =>
        w.reg i rd = (if rd = 0 then 0 else old) ∧ (∀ r, r ≠ rd → w.reg i r = s.reg i r) ∧ Advanced s w i ∧
        w.near i false (e.pa ea) ((new s old).getD old) = true ∧
        (∀ k, k ≠ e.pa ea / 4 % 16 →
          (w.l1Way (i / 8) false (e.pa ea / 64)).words.getD k 0 = (s.l1Way (i / 8) false (e.pa ea / 64)).words.getD k 0) ∧
        w.mem.dirs = s.mem.dirs ∧ w.mem.sram = s.mem.sram ∧ w = { s with core := w.core, mem := w.mem }) ∧
    (∀ (t q : State) (pa attr : Nat) (old : Word), u.resolve i (u.who i) .atomic 4 ea = (t, .ok (pa, attr)) → t.targetOf i pa = none →
      (t.late i false (some 9)).swapWord i pa attr ea (new u) = (q, .ok old) → q.settled = true →
      Completes c s fun w =>
        w.getPlace i (u.place i rd) = (if rd = 0 then 0 else old) ∧
        (∀ r, r ≠ rd → w.getPlace i (u.place i r) = q.getPlace i (u.place i r)) ∧ Advanced q w i ∧
        w.mem = q.mem ∧ w.dram = q.dram)

/-- The registers of the lockstep, power and trace blocks and the save registers of the partitions, whose stores and reads have no effect
but on their own word. -/
def plainReg (a : PWord) : Bool :=
  decide (Reg.CP_SVBASE 0 0 ≤ a ∧ a < Reg.TL_WB 0 0) && (irqOf a).isNone ||
  decide (Reg.LS_EVT ≤ a ∧ a < Reg.MC_MAP) && (arrIndex a (Reg.LS_CMD 0) 8 24).isNone ||
  decide (Reg.PM_REQ < a ∧ a < Reg.TR_CTL ∧ a ≠ Reg.PM_RST) ||
  decide (Reg.TR_CTL ≤ a ∧ a < Reg.DB_TGT) && (arrIndex a (Reg.TR_CCFG 0) 64 48).isNone

/-- Flag `f`, with its MORE bit, as an event of hardware leaves it (R11). -/
def State.flagged (s t : State) (f more : Field) : Prop :=
  t.fbit f = true ∧ (s.fbit f = true → t.fbit more = true) ∧ (s.fbit f = false → t.fget more = s.fget more)

/-- What a cold or watchdog reset of `s` for a cause leaves (R516, R517): the cores, caches, controllers and the scheduler as after
power-on, the secure core in its ROM; the Moraine, the boot flash and the fuses are kept. -/
def State.coldStarted (s t : State) (cause : Nat) : Prop :=
  t.fget Reg.PM_RSTC_CAUSE = cause ∧ t.boot.rom = true ∧ t.boot.refused = false ∧ t.core = State.reset.core ∧
    t.mem = State.reset.mem ∧ t.dram = State.reset.dram ∧ t.sch = State.reset.sch ∧ t.net = State.reset.net ∧
    t.pcie = State.reset.pcie ∧ t.mor.ring = s.mor.ring ∧ t.mor.ff = s.mor.ff ∧ t.boot.flash = s.boot.flash ∧
    t.boot.st = s.boot.st ∧ ∀ n, n ≤ 20 → t.rget (Reg.RK_FUSE n) = s.rget (Reg.RK_FUSE n)

/-- A message that passes step 1 of R470: it comes by its session's transport to an open session that has no request in progress, with
the next number, its trailer and tag verify, and the session's credential stands (R467, R468, R472). -/
def State.accepted (s : State) (m : DxHead) (mtype : Nat) (payload : List (BitVec 8)) (x : Session) : Bool :=
  s.arrives m.tr && decide (s.sess m.sid.val = some x) && decide (s.sessState m.sid.val = 2) && decide (x.wait = .none) &&
    decide (payload.length ≤ 1400) && (match x.tr with
      | some t => sameTransport t m.tr
      | none => false) &&
    !(decide (m.seq.toNat = x.seqIn) && decide (x.seqIn ≠ 0) && decide (m.trailer = x.lastTrailer)) &&
    decide (m.seq.toNat = (x.seqIn + 1) % 2 ^ 32) && decide (m.trailer = x.trailerOf m mtype payload) && (!m.conf || m.tagOk) &&
    (!s.fbit (Reg.DX_SESS_CONF m.sid.val) || m.conf) && !s.credGone m.sid.val x

/-- The state in which an accepted message is carried out: its session has its number and trailer, and is no longer idle. -/
def State.heard (s : State) (m : DxHead) (mtype : Nat) (x : Session) : State :=
  (s.setSess m.sid.val (some { x with tr := some m.tr, seqIn := m.seq.toNat, lastTrailer := m.trailer, mtype := mtype })).fset
    (Reg.DX_SESS_IDLE m.sid.val) 0

/-- The memory is in its canonical form: the lines of the LLC, of the agents and of the L1s, the secure SRAM and ROM, and DRAM. -/
def Memory.wf (m : Mem) (d : Dram) : Bool :=
  Tab.wf (fun _ => DirEntry.none) m.dirs && Tab.wf (fun _ => AgentLine.none) m.agents && Tab.wf (fun _ => L1Set.none) m.l1 &&
    Tab.wf (fun _ => 0) m.sram && Tab.wf (fun _ => 0) d.cells

/-- The stores of words are in their canonical form: the registers, the thread images, the Firn, and memory. -/
def State.canonical (s : State) : Bool :=
  Tab.wf regReset s.regs && Tab.wf (fun _ => 0) s.core.image && Tab.wf (fun _ => 0) s.sch.firn && Memory.wf s.mem s.dram

/-- The block whose command it is, none for what reaches the part whatever holds it (R14, R510). -/
def commandBlock (c : Instr) : Option Block :=
  match c with
  | .moraineSlotWrite .. | .sensorRead .. | .holdUpEnd .. | .powerOnResetRelease .. | .resetNLow .. | .tapUpdateIr .. | .extest ..
  | .samplePreload .. | .idcode .. | .clamp .. | .highz .. | .bypass .. | .dbgacc .. | .dbgauth .. | .diag .. | .testenHigh .. => none
  | .clockMonitorWindow .. | .pllRelock .. | .secureWatchdogExpiry .. | .rkWdkickStore .. | .secureBoot .. | .moraineScanComplete ..
  | .moRselLoStore .. | .moraineReadDone .. | .pmOn .. | .pmClkoff .. | .pmOff .. | .domainTransitionComplete .. | .domainLost ..
  | .railExcursion .. | .railBack .. | .powerFail .. | .pmRstWarm .. | .pmRstCold .. | .blockRelease .. => some .island
  | .cryptJobDone .. | .keyExpiry .. | .handover .. | .openSession .. | .prove .. | .proveTimeout .. | .read .. | .write ..
  | .apply .. | .close .. | .ping .. | .sessionIdleTimeout .. | .lockoutExpiry .. | .flip .. | .configurationStoreWrite ..
  | .dxMdbStore .. | .mailboxResponse .. | .secureCoreAnswer .. | .updateEnd .. => some .service
  | .frameReceived .. | .frameTransmit .. | .linkUp .. | .linkDown .. | .learningAge .. | .flush .. | .discardEntryForget ..
  | .supervisionSend .. | .ringStatusTimeout .. | .nodeEntryAge .. | .pdelayReqSend .. | .ptpTimeout .. | .errorRateSecond ..
  | .bypassHealthChange .. | .holddlyExpiry .. | .bypassDriveFault .. | .npHtxkStore .. | .npPcfgStore .. | .npCfgStore ..
  => some .net
  | .ppsEdge .. | .irigBFrame .. | .timeSourceLost .. | .holdoverExpiry .. | .holdspecExpiry .. | .anTbCfgStore .. | .anSetLoStore ..
  | .anSnapStore .. | .timeHiRead .. | .ppsOutPulse .. | .leapSecond .. | .epochBoundary .. | .referencePhasorTimeout ..
  | .referenceHoldExpiry .. | .anRefCfgStore .. | .anViewStore .. => some .angle
  | .load .. | .unlock .. | .lockLoadComplete .. | .lockDrainComplete .. | .scrub .. | .rds .. | .rdx .. | .upg .. | .wbd .. | .evn ..
  | .wrh .. | .snoop .. | .snoopAnswer .. | .declareDead .. | .declareLive .. | .agentFault .. | .sweepComplete .. | .init ..
  | .zero .. | .zeroComplete .. | .sre .. | .srx .. | .measure .. | .measureComplete .. | .migrate .. | .migrationCopy ..
  | .mcMapStore .. | .mcDlyStore .. | .dramReadRequest .. | .dramWriteRequest .. | .dramReadReturn .. | .refreshDue ..
  | .retrainingPause .. | .neighbourRefresh .. | .patrolScrub .. | .modeRegisterPoll .. | .writeBatchStart .. | .initComplete ..
  | .dramCommandIssue .. => some .memory
  | .alloc .. | .free .. | .enable .. | .disable .. | .run .. | .stop .. | .setclass .. | .reset .. | .scEvraiseStore ..
  | .stageDecision .. | .slotBecomesFree .. | .displacement .. | .portGrant .. | .stageInComplete .. | .firstGroupFetched ..
  | .dueCycle .. | .angleDuePoint .. | .timeDuePoint .. | .runBudgetExpiry .. | .writeBackRequest .. | .writeBackVerdict ..
  | .commitRelease .. | .interlockAnswer .. | .interlockTimeout .. | .firnApertureAccess .. | .scOpageStore .. | .scPrangeStore ..
  | .entryWordStore .. => some .sched
  | .reconcileComplete .. | .selfTestVerdict .. => some .pairs
  | .pdEnable .. | .pdDisable .. | .svTimeout .. | .gooseDeadline .. | .resamplePoint .. | .labelReached .. | .publicationRelease ..
  | .gooseRetransmission .. | .discreteInputChange .. | .minonExpiry .. | .deadmanExpiry .. | .railReadback .. | .outputBindStore ..
  => some .engine
  | .configurationRequest .. | .inboundRead .. | .inboundWrite .. | .outboundCompletion .. | .completionTimeout .. | .pxFirqStore ..
  | .interruptMessageSend .. | .pxIwaStore .. | .flr .. | .hotReset .. | .pcieLinkUp .. => some .pcie
  | .routerTake .. => some .trace
  | .add .. | .sub .. | .and .. | .or .. | .xor .. | .andn .. | .slt .. | .sltu .. | .sll .. | .srl .. | .sra .. | .slli .. | .srli ..
  | .srai .. | .clz .. | .sxh .. | .sxn .. | .min .. | .max .. | .addi .. | .andi .. | .ori .. | .xori .. | .slti .. | .sltiu ..
  | .seth .. | .lea .. | .mul .. | .mulh .. | .mulhu .. | .div .. | .divu .. | .rem .. | .remu .. | .ldw .. | .ldh .. | .ldhu ..
  | .ldn .. | .ldnu .. | .stw .. | .sth .. | .stn .. | .ldu .. | .stu .. | .swap .. | .cas .. | .fadd .. | .beq .. | .bne .. | .blt ..
  | .bge .. | .bltu .. | .bgeu .. | .call .. | .jreg .. | .save .. | .restore .. | .savel .. | .saveu .. | .restl .. | .restu ..
  | .movb .. | .yield .. | .swapctx .. | .eret .. | .trapdone .. | .fence .. | .ifence .. | .tsync .. | .tlbi .. | .pbar ..
  | .pflush .. | .rdctl .. | .wrctl .. | .syscall .. | .firmwareCall .. | .agld .. | .agst .. | .agadr .. | .agadv .. | .agrd ..
  | .agwr .. | .mac .. | .msu .. | .macl .. | .macd .. | .accrnd .. | .acchi .. | .acclo .. | .accset .. | .macr .. | .sprd ..
  | .spwr .. | .cis .. | .rot .. | .sdft .. | .mag .. | .ang .. | .cubi .. | .dftr .. | .longOperationComplete .. | .storeDrain ..
  | .asyncStoreErrorTrap .. | .prefetch .. | .fetchReturn .. | .loadReturn .. | .interruptDelivery .. | .wakeStaging ..
  | .counterOverflowTrap .. | .counterWrap .. | .tableWalk .. | .tlbiArrival .. | .tlbiAck .. | .pin .. | .unpin .. | .unpinAll ..
  | .tlWbStore .. | .tlWlStore .. | .wpendClear .. | .lsLockstep .. | .lsSplit .. | .lsOff .. | .retest .. | .inject .. | .mismatch ..
  | .version .. | .shwrite .. | .keystat .. | .crypt .. | .update .. | .hold .. | .predclr .. | .monitorCallTimeout ..
  | .rkPclrStore .. | .halt .. | .resume .. | .step .. | .rdreg .. | .wrreg .. | .rdmem .. | .wrmem .. | .rdphy .. | .wrphy ..
  | .dbDcmdSelfTest .. => some .cores
  | .registerWrite _ a _ _ => some (regBlock a)
  | .rcRead _ a _ => some (regBlock a)

/-- A sealed word that reads without correction and without an error that DRAM reports: good, poisoned or lost (R272, R337). -/
def quietWord (w : Sealed) : Bool :=
  match readSealed w with
  | .corrected _ _ => false
  | .bad _ => false
  | _ => true

end Machine

end Sys2Proof
end

