-- ==== Sys2Proof/WellFormed.lean ====
section
/-! DEFINITION. Which commands are well formed: what an operand's type leaves open and the rule of its row fixes. A command outside
these bounds stands for nothing that the part can meet; `exec` gives it a meaning all the same. -/

namespace Sys2Proof

/-- A word address of the 38-bit physical space (R4, R237). -/
def addrOk (a : PWord) : Bool := decide (a < 2 ^ 36)

/-- No element occurs twice. -/
def noRepeat {α : Type} [DecidableEq α] : List α → Bool
  | [] => true
  | x :: xs => !xs.contains x && noRepeat xs

/-- A date and time that an IRIG-B frame can carry; second 60 is a leap second (R37). -/
def irigOk (f : IrigFrame) : Bool :=
  decide (1 ≤ f.day ∧ f.day ≤ 366 ∧ f.hour < 24 ∧ f.minute < 60 ∧ f.second ≤ 60) &&
    (match f.ext with
     | some x => decide (-31 ≤ x.offsetHalfHours ∧ x.offsetHalfHours ≤ 31 ∧ x.quality < 16)
     | none => true)

/-- A frame's length is that of its octets (R351). -/
def frameOk (f : Frame) : Bool := decide (f.octets.length = f.len ∧ 14 ≤ f.len)

/-- A message's payload has at most 1,400 octets (R465), 9 of which are WRITE's own. -/
def payloadOk (v : List (BitVec 8)) : Bool := decide (v.length ≤ 1391)

/-- The registers of OUTPUT_BIND_STORE: 512 PD_GPB, 64 PD_SPB, 8 PD_DOB (R407). -/
def bindOk (kind : Fin 3) (n : Fin 512) : Bool := decide ((kind = 1 → n.val < 64) ∧ (kind = 2 → n.val < 8))

/-- The well-formed commands. -/
def Instr.wf : Instr → Bool
  | .registerWrite _ a _ _ => addrOk a
  | .rcRead _ a _ => addrOk a
  | .clockMonitorWindow _ _ nominal _ => decide (0 < nominal)
  | .irigBFrame f => irigOk f
  | .wrh _ _ words _ => noRepeat (words.map (·.1)) && !words.isEmpty
  | .reconcileComplete _ differ => noRepeat differ
  | .measureComplete _ eyes => decide (eyes.length = 12)
  | .retrainingPause _ _ moves => decide (moves.length = 12)
  | .frameReceived _ f => frameOk f
  | .outputBindStore _ kind n _ => bindOk kind n
  | .write _ _ _ _ _ _ v => payloadOk v
  | .inboundWrite _ _ _ _ octets => decide (octets.length ≤ 256)
  | .extest cells => noRepeat (cells.map (·.1))
  | .samplePreload cells => noRepeat (cells.map (·.1))
  | .pmOn _ d => decide (d.toNat < 87)
  | .pmClkoff _ d => decide (d.toNat < 87)
  | .pmOff _ d => decide (d.toNat < 87)
  | _ => true

end Sys2Proof
end

