-- ==== Sys2Proof/Certificates/Slice0/Obligations.lean ====
section
/-! DEFINITION. The statements for the provers. A statement about a command says that `exec` answers a next state, under conditions on the
state and the operands alone, and which; `calm` says that the part runs and that nothing earlier waits to be carried out. -/

open Sys2Proof Sys2Proof.Machine

/-- A step with a command at the front of the queue is that command on the state with the queue's rest, and every command answers a next
state. -/
def Obligations.StepRunsFrontCommand : Prop :=
  ∀ (c : Instr) (rest : List Instr) (s : State), s.pending = c :: rest →
    step s = exec c { s with pending := rest } ∧ ∃ t, exec c { s with pending := rest } = .next t

/-- A step on an empty queue is one core cycle: the common cycle count adds one; once the angle unit is released, the time base adds
AN_TB_INC and every reference its AN_REFn_INC (R14, R34, R56, R202), and before that they stand; a part that is held does not change
(R510, R513). That a step on an empty queue is a cycle is the model's choice (log 6). -/
def Obligations.IdleStepIsOneCycle : Prop :=
  (∀ s : State, s.pending = [] → s.running = true →
    ∃ t, step s = .next t ∧ t.cyc = s.cyc + 1 ∧ t.pending = [] ∧
      t.tb = (if s.released .angle then s.tb + s.fget Reg.AN_TB_INC_INC else s.tb) ∧
      ∀ n, n < 8 → (t.ref n).acc =
        (if s.released .angle then (s.ref n).acc + BitVec.ofNat 72 (s.fget (Reg.AN_REF_INC_INC n)) else (s.ref n).acc)) ∧
  (∀ s : State, s.pending = [] → s.running = false → step s = .next s)

/-- A part that is held in reset or stopped by a power fail carries out no command but those of the test access port, resets, the
hold-up supply, the Moraine writer and the sensors (R477, R510, R512, R513, R540, R552), and a block that Rook has not released carries
out none of its commands (R14, R518, R522). -/
def Obligations.HeldPartDoesNothing : Prop :=
  (∀ (c : Instr) (s : State), s.running = false → commandBlock c ≠ none → exec c s = .next s) ∧
  (∀ (c : Instr) (s : State) (b : Block), commandBlock c = some b → s.released b = false → exec c s = .next s)

/-- Entering a state of the time base (R40, R48, R66, R576): STATE and TBCHG show it, FREERUN and HOLDOVER have no source in use, HOLDOVER
counts its seconds from 0 and holds the frequency of the servo's integral term, LOCKED clears REFLOSS. What the markers, the sources
and the stores of the time base do (R35 to R43, R46, R48, R64). -/
def Obligations.TimeBaseCommands : Prop :=
  (∀ (s : State) (st : Fin 4), let t := s.enterTb st.val
     t.tbState = st.val ∧
     (st = 0 ∨ st = 3 → t.fget Reg.AN_TB_STAT_ACT = 0) ∧
     (st = 1 ∨ st = 2 → t.fget Reg.AN_TB_STAT_ACT = s.fget Reg.AN_TB_STAT_ACT) ∧
     (st = 3 → t.fget Reg.AN_TB_STAT_HSEC = 0 ∧ t.fget Reg.AN_TB_INC_INC = incFor s.ang.servoI) ∧
     (st = 2 → t.fbit Reg.AN_TB_STAT_REFLOSS = false) ∧
     t.fbit Reg.AN_EVT_TBCHG = true ∧
     t.fget Reg.AN_TB_STAT_QUAL =
       (if s.fbit Reg.AN_TB_STAT_SET = false then 3 else if st = 2 then 0
        else if st = 3 ∧ 0 < s.fget Reg.AN_TB_HOLD_HOLDSPEC ∧ s.fbit Reg.AN_TB_STAT_REFLOSS = false then 1 else 2) ∧
     t.tb = s.tb ∧ t.cyc = s.cyc) ∧
  (∀ s : State, s.calm = true →
     -- PPS_EDGE where PRI is PPS, in use and LOCKED: the edge is stamped and, within OFFLIM, its offset steers the servo
     (∀ (rising : Bool) (ns : Nat) (o : Int) (u : Rat), rising ≠ s.fbit Reg.AN_TB_CFG_PPSEDGE →
       ns = s.nowNs - s.fget Reg.AN_TB_INDLY_INDLY → o = secOffset ns → u = (o : Rat) / 1000000000 →
       s.priSrc = 4 → s.secSrc ≠ 2 → s.tbState = 2 → s.fbit Reg.AN_TB_STAT_SET = true → s.fget Reg.AN_TB_STAT_ACT = 4 →
       Completes (.ppsEdge rising) s fun t =>
         t.rget Reg.AN_PPS_HI = (time72 ns (s.fget Reg.AN_TB_STAT_QUAL)).1 ∧
         t.rget Reg.AN_PPS_LO = (time72 ns (s.fget Reg.AN_TB_STAT_QUAL)).2 ∧
         sint (t.fget Reg.AN_TB_OFFS_OFFS) 36 = (if o * 256 < -(2 ^ 35) then -(2 ^ 35) else if 2 ^ 35 ≤ o * 256 then 2 ^ 35 - 1 else o * 256) ∧
         t.tbState = 2 ∧ t.tb = s.tb ∧ t.cyc = s.cyc ∧
         (o.natAbs ≤ s.fget Reg.AN_TB_LIM_OFFLIM →
           t.usable 4 = true ∧ t.ang.servoI = clampPpm (s.ang.servoI - u / (2 ^ s.fget Reg.AN_TB_CFG_KI : Nat)) ∧
           t.fget Reg.AN_TB_INC_INC = incFor (clampPpm (t.ang.servoI - u / (2 ^ s.fget Reg.AN_TB_CFG_KP : Nat)))) ∧
         (s.fget Reg.AN_TB_LIM_OFFLIM < o.natAbs →
           t.fbit Reg.AN_EVT_REJ = true ∧ t.ang.servoI = s.ang.servoI ∧ t.fget Reg.AN_TB_INC_INC = s.fget Reg.AN_TB_INC_INC)) ∧
     -- and where neither source in use is PPS or IRIG-B with PPS it is stamped alone
     (∀ rising : Bool, rising ≠ s.fbit Reg.AN_TB_CFG_PPSEDGE → s.priSrc ≠ 2 → s.priSrc ≠ 4 → s.secSrc ≠ 2 → s.secSrc ≠ 4 →
       exec (.ppsEdge rising) s =
         .next ((s.rset Reg.AN_PPS_HI (time72 (s.nowNs - s.fget Reg.AN_TB_INDLY_INDLY) (s.fget Reg.AN_TB_STAT_QUAL)).1).rset
           Reg.AN_PPS_LO (time72 (s.nowNs - s.fget Reg.AN_TB_INDLY_INDLY) (s.fget Reg.AN_TB_STAT_QUAL)).2)) ∧
     -- IRIG_B_FRAME with a year and no extension: its marker is stamped, its second noted for PPS edges, and sampled where PRI is IRIG-B
     (∀ (f : IrigFrame) (y ns : Nat) (sec : Int), f.good = true → f.year = some y → f.ext = none → 1970 ≤ y → 1 ≤ f.day →
       ns = s.nowNs - s.fget Reg.AN_TB_INDLY_INDLY →
       sec = (daysToYear y + (f.day - 1) : Nat) * 86400 + f.hour * 3600 + f.minute * 60 + f.second + sint (s.fget Reg.AN_UTC_OFFS) 18 →
       0 ≤ sec → s.fbit Reg.AN_TB_STAT_SET = true →
       Completes (.irigBFrame f) s fun t =>
         t.rget Reg.AN_IRIG_HI = (time72 ns (s.fget Reg.AN_TB_STAT_QUAL)).1 ∧
         t.rget Reg.AN_IRIG_LO = (time72 ns (s.fget Reg.AN_TB_STAT_QUAL)).2 ∧
         t.ang.irig = some (some sec.toNat, s.cyc) ∧ t.cyc = s.cyc ∧
         (s.priSrc = 3 → s.tbState = 2 → s.fget Reg.AN_TB_STAT_ACT = 3 →
           ((ns : Int) - sec * 1000000000).natAbs ≤ s.fget Reg.AN_TB_LIM_OFFLIM →
           t.usable 3 = true ∧ t.ang.servoI =
             clampPpm (s.ang.servoI - (((ns : Int) - sec * 1000000000 : Int) : Rat) / 1000000000 / (2 ^ s.fget Reg.AN_TB_CFG_KI : Nat)))) ∧
     -- and one that does not decode rejects a sample of IRIG-B
     (∀ f : IrigFrame, f.good = false → f.year.isSome = true ∨ s.fbit Reg.AN_TB_STAT_SET = true →
       Completes (.irigBFrame f) s fun t =>
         t.rget Reg.AN_IRIG_HI = (time72 (s.nowNs - s.fget Reg.AN_TB_INDLY_INDLY) (s.fget Reg.AN_TB_STAT_QUAL)).1 ∧
         t.ang.irig = some (none, s.cyc) ∧ (s.priSrc = 3 ∨ s.secSrc = 3 → t.fbit Reg.AN_EVT_REJ = true) ∧
         t.fget Reg.AN_TB_INC_INC = s.fget Reg.AN_TB_INC_INC ∧ t.tb = s.tb) ∧
     -- TIME_SOURCE_LOST once no sample has been accepted for LOSST seconds: the source is no longer usable; one in use gives way to the
     -- other, else to HOLDOVER
     (∀ (src : Fin 8) (lim : Nat), lim = (if s.fget Reg.AN_TB_CFG_LOSST = 0 then 1 else s.fget Reg.AN_TB_CFG_LOSST) →
       s.usable src.val = true → lim * 1600000000 ≤ s.cyc - Tab.get 0 s.ang.lastOk src.val → s.tbState = 2 →
       src.val = s.priSrc ∨ src.val = s.secSrc →
       Completes (.timeSourceLost src) s fun t =>
         t.usable src.val = false ∧ t.tb = s.tb ∧ t.cyc = s.cyc ∧
         (src.val ≠ s.fget Reg.AN_TB_STAT_ACT → t.tbState = 2 ∧ t.fget Reg.AN_TB_STAT_ACT = s.fget Reg.AN_TB_STAT_ACT) ∧
         (∀ other : Nat, src.val = s.fget Reg.AN_TB_STAT_ACT →
           other = (if src.val = s.priSrc then s.secSrc else s.priSrc) → other ≠ src.val →
           (s.usable other = true → t.tbState = 1 ∧ t.fget Reg.AN_TB_STAT_ACT = other) ∧
           (s.usable other = false → t.tbState = 3 ∧ t.fget Reg.AN_TB_STAT_ACT = 0))) ∧
     -- HOLDOVER_EXPIRY
     (s.tbState = 3 → s.fget Reg.AN_TB_HOLD_HOLDMAX ≤ s.fget Reg.AN_TB_STAT_HSEC → exec .holdoverExpiry s = .next (s.enterTb 0)) ∧
     -- HOLDSPEC_EXPIRY
     (s.tbState = 3 → s.fget Reg.AN_TB_HOLD_HOLDSPEC ≤ s.fget Reg.AN_TB_STAT_HSEC →
       exec .holdspecExpiry s = .next (s.fset Reg.AN_TB_STAT_QUAL (if s.fbit Reg.AN_TB_STAT_SET then 2 else 3))) ∧
     -- AN_SET_LO_STORE in FREERUN loads the time base
     (∀ (req : Requester) (v : Word), s.storeGuard req.level Reg.AN_SET_LO = none → s.tbState = 0 → bits v 2 30 < 1000000000 →
       Completes (.anSetLoStore req v) s fun t =>
         t.tb = ((s.rget Reg.AN_SET_HI).toNat * 16 + bits v 32 4) * 1000000000 * 2 ^ 32 + bits v 2 30 * 2 ^ 32 ∧
         t.fbit Reg.AN_TB_STAT_SET = true ∧ t.fbit Reg.AN_EVT_TBSTEP = true ∧ t.cyc = s.cyc) ∧
     -- and elsewhere only tells
     (∀ (req : Requester) (v : Word), s.storeGuard req.level Reg.AN_SET_LO = none → s.tbState ≠ 0 →
       exec (.anSetLoStore req v) s =
         .next ((s.rset Reg.AN_SET_LO (s.storedWord req.level Reg.AN_SET_LO v 0)).flag Reg.AN_EVT_SETREF Reg.AN_EVT_SETREF_MORE)))


/-- Reading the time, the second's pulse, the leap second, and a store that names the same sources (R35, R39, R46, R64). -/
def Obligations.TimeReadings : Prop :=
  ∀ s : State, s.calm = true →
    -- AN_TB_CFG_STORE that names no other source, and leaves the one in use named
    (∀ (req : Requester) (v : Word), s.storeGuard req.level Reg.AN_TB_CFG = none →
      (s.rset Reg.AN_TB_CFG (s.storedWord req.level Reg.AN_TB_CFG v 0)).priSrc = s.priSrc →
      (s.rset Reg.AN_TB_CFG (s.storedWord req.level Reg.AN_TB_CFG v 0)).secSrc = s.secSrc →
      (s.fget Reg.AN_TB_STAT_ACT = 0 ∨ s.fget Reg.AN_TB_STAT_ACT = s.priSrc ∨ s.fget Reg.AN_TB_STAT_ACT = s.secSrc) →
      exec (.anTbCfgStore req v) s =
        .next (s.rset Reg.AN_TB_CFG (s.storedWord req.level Reg.AN_TB_CFG v 0)).refreshUtc) ∧
    -- AN_SNAP_STORE
    (Completes .anSnapStore s fun t =>
      (∀ n, n < 8 → t.rget (Reg.AN_SNAP_A n) = (s.ref n).acc.extractLsb' 36 36) ∧
      t.rget Reg.AN_SNAP_HI = s.stamp.1 ∧ t.rget Reg.AN_SNAP_LO = s.stamp.2 ∧
      (∀ a, a ≠ Reg.AN_SNAP_HI → a ≠ Reg.AN_SNAP_LO → (∀ n, n < 8 → a ≠ Reg.AN_SNAP_A n) → t.rget a = s.rget a) ∧
      t = { s with regs := t.regs }) ∧
    -- TIME_HI_READ of AN_TIME_HI and of a view page
    (exec (.timeHiRead none) s = .next { s.rset Reg.AN_TIME_LO s.stamp.2 with rdata := s.stamp.1 }) ∧
    (∀ p : Fin 16, exec (.timeHiRead (some p)) s = .next { s.rset (Reg.AN_VP_LO p.val) s.stamp.2 with rdata := s.stamp.1 }) ∧
    -- PPS_OUT_PULSE: 1 µs is 1,600 core cycles
    (s.fbit Reg.AN_TB_CFG_PPSOUT = true → s.fbit Reg.AN_TB_STAT_SET = true →
      exec .ppsOutPulse s = .next { s with ang := { s.ang with ppsOutEnd := s.cyc + 1600 } }) ∧
    -- LEAP_SECOND with LEAP61 set
    (s.fbit Reg.AN_UTC_LEAP61 = true → s.fbit Reg.AN_UTC_LEAP59 = false → sint (s.fget Reg.AN_UTC_OFFS) 18 < 131071 →
      Completes .leapSecond s fun t =>
        sint (t.fget Reg.AN_UTC_OFFS) 18 = sint (s.fget Reg.AN_UTC_OFFS) 18 + 1 ∧ t.fbit Reg.AN_UTC_LEAP61 = false ∧
        t.fbit Reg.AN_EVT_LEAP = true ∧ t.tb = s.tb)

/-- The references at an epoch boundary and where phasors stay out, and the stores that configure them (R54, R60, R62, R65, R572). -/
def Obligations.ReferenceCommands : Prop :=
  ∀ s : State, s.calm = true →
    -- EPOCH_BOUNDARY, every 1,024 cycles, hands on the time and the angles it finds; a LOCKED measured reference whose phasors come and
    -- whose configuration stands applies its loop's frequency in the coming epoch
    (s.cyc % 1024 = 0 → Completes .epochBoundary s fun t =>
      (t.ang.epochs.head?.map (·.tb)) = some s.tb ∧ (t.ang.epochs.head?.map (·.tbInc)) = some (s.fget Reg.AN_TB_INC_INC) ∧
      (t.ang.epochs.head?.map (·.angles)) = some ((List.range 8).map fun n => (t.ref n).acc) ∧
      t.tb = s.tb ∧ t.cyc = s.cyc ∧
      ∀ n, n < 8 → cfgEn (s.ref n).cfg = true → cfgNom (s.ref n).cfg = false → s.refState n = 2 → s.aligned n = true →
        (s.ref n).alignNow = none → s.phasorTimeout n = false → s.rget (Reg.AN_REF_CFG n) = (s.ref n).cfg →
        s.fget (Reg.AN_REF_PHOFF_PHOFF n) = (s.ref n).phoff →
        t.refState n = 2 ∧ (t.ref n).acc = (s.ref n).acc ∧
        t.fget (Reg.AN_REF_INC_INC n) =
          (rnd (clampHz (s.ref n).freq * s.fget Reg.AN_TB_INC_INC * (2 ^ 28 : Nat) / 1000000000)).toNat % 2 ^ 36) ∧
    -- REFERENCE_PHASOR_TIMEOUT takes a MEAS reference to HOLDOVER at a boundary
    (∀ n : Fin 8, s.refState n.val = 2 ∨ s.refState n.val = 5 → cfgNom (s.ref n.val).cfg = false → s.phasorTimeout n.val = true →
      s.cyc % 1024 = 0 →
      Completes (.referencePhasorTimeout n) s fun t =>
        t.refState n.val = 3 ∧ t.fget (Reg.AN_REF_STAT_HMS n.val) = 0 ∧ t.fbit ⟨Reg.AN_EVT, 12 + n.val, 1⟩ = true ∧
        (t.ref n.val).acc = (s.ref n.val).acc ∧ (t.ang.epochs.head?.map (·.tb)) = some s.tb ∧
        ∀ m, m < 8 → m ≠ n.val → t.refState m = s.refState m ∧ t.ref m = s.ref m) ∧
    -- REFERENCE_HOLD_EXPIRY takes it on to FREERUN
    (∀ n : Fin 8, s.refState n.val = 3 → cfgNom (s.ref n.val).cfg = false →
      s.fget (Reg.AN_REF_HOLD_HOLDMS n.val) ≤ s.fget (Reg.AN_REF_STAT_HMS n.val) → s.cyc % 1024 = 0 →
      Completes (.referenceHoldExpiry n) s fun t =>
        t.refState n.val = 4 ∧ t.fbit ⟨Reg.AN_EVT, 12 + n.val, 1⟩ = true ∧ (t.ref n.val).acc = (s.ref n.val).acc ∧
        t.fget (Reg.AN_REF_STAT_HMS n.val) = s.fget (Reg.AN_REF_STAT_HMS n.val) ∧
        ∀ m, m < 8 → m ≠ n.val → t.refState m = s.refState m ∧ t.ref m = s.ref m) ∧
    -- AN_REF_CFG_STORE where no enabled entry is bound to the reference
    (∀ (req : Requester) (n : Fin 8) (v : Word), s.storeGuard req.level (Reg.AN_REF_CFG n.val) = none → s.refBound n.val = false →
      exec (.anRefCfgStore req n v) s =
        .next (s.rset (Reg.AN_REF_CFG n.val) (s.storedWord req.level (Reg.AN_REF_CFG n.val) v 0))) ∧
    -- AN_VIEW_STORE that moves no reference in use
    (∀ (req : Requester) (p : Fin 16) (v : Word), s.storeGuard req.level (Reg.AN_VIEW p.val) = none →
      s.viewBreaks p.val (s.storedWord req.level (Reg.AN_VIEW p.val) v 0) = false →
      exec (.anViewStore req p v) s =
        .next (s.rset (Reg.AN_VIEW p.val) (s.storedWord req.level (Reg.AN_VIEW p.val) v 0)))

/-- The commands of SC_CMD where they are accepted (R21, R77, R86, R87, R107 to R109): `c` is the global context that the local number
names, and `u` the state in which what the hardware does with its entry in this cycle has taken effect. One that is refused (R13, R108):
BUSY while DONE is 0, BAD_ARG beyond the partition's range; nothing but the result and the report changes. -/
def Obligations.SchedulerCommands : Prop :=
  (∀ (s u : State) (p : Fin 16) (ctx : BitVec 12) (arg : BitVec 20) (c : Nat), s.calm = true → u = s.hardwareFirst p ctx →
     u.settled = true → u.fbit (Reg.SC_RESULT_DONE p.val) = true →
     -- ALLOC takes the lowest FREE context, whatever the command names
     (∀ l : Nat, u.lowestFree p.val = some l →
       Completes (.alloc p ctx arg) s fun t =>
         (t.entry (16 * u.fget (Reg.SC_PRANGE_BASE p.val) + l)).state = stIdle ∧
         (t.entry (16 * u.fget (Reg.SC_PRANGE_BASE p.val) + l)).classG = arg.getLsbD 0 ∧
         (t.entry (16 * u.fget (Reg.SC_PRANGE_BASE p.val) + l)).en = false ∧
         (∀ w, w < 256 → w ≠ 14 → t.firn (16 * u.fget (Reg.SC_PRANGE_BASE p.val) + l) w = 0) ∧
         t.fget (Reg.SC_RESULT_STATUS p.val) = 0 ∧ t.fget (Reg.SC_RESULT_CTX p.val) = l % 4096 ∧
         (∀ d, d ≠ 16 * u.fget (Reg.SC_PRANGE_BASE p.val) + l → t.entry d = u.entry d)) ∧
     (ctx.toNat < 16 * u.fget (Reg.SC_PRANGE_COUNT p.val) → c = 16 * u.fget (Reg.SC_PRANGE_BASE p.val) + ctx.toNat →
     -- FREE of an IDLE entry
     ((u.entry c).state = stIdle →
       Completes (.free p ctx arg) s fun t =>
         (t.entry c).state = stFree ∧ (t.entry c).en = false ∧ (∀ w, w < 256 → t.firn c w = 0) ∧
         t.fget (Reg.SC_RESULT_STATUS p.val) = 0 ∧
         (∀ n, n < 256 → u.fget (Reg.SC_OPAGE_C_CTX n) = c → t.fbit (Reg.SC_OPAGE_F_V n) = false) ∧
         (∀ d, d ≠ c → t.entry d = u.entry d)) ∧
     -- ENABLE of an IDLE class-D time entry with a budget
     ((u.entry c).state = stIdle → (u.entry c).classG = false → (u.entry c).ttype = 2 → (u.entry c).budget ≠ 0 →
       exec (.enable p ctx arg) s =
         .next (((u.unkeep c).setEntry c
           { ((u.entry c).setState stArmed).setEn true with pend := false, agreed := false }).scResult p.val 0 ctx.toNat)) ∧
     -- DISABLE of an ARMED or WAITING class-D entry
     ((u.entry c).state = stArmed ∨ (u.entry c).state = stWaiting → (u.entry c).classG = false →
       exec (.disable p ctx arg) s =
         .next ((u.setEntry c (({ u.entry c with pend := false, agreed := false }.setState stIdle).setEn false)).scResult p.val 0
           ctx.toNat)) ∧
     -- RUN of an IDLE or PARKED class-G context, 63 naming any core
     (∀ i : Nat, (u.entry c).classG = true → (u.entry c).state = stIdle ∨ (u.entry c).state = stParked → arg.toNat % 64 = 63 →
       (u.slotsG p.val).find? (u.freeFor c) = some i →
       Completes (.run p ctx arg) s fun t =>
         (t.entry c).state = stStaging ∧ (t.entry c).slot = i % 512 ∧ (t.slot i).resv = some c ∧
         (t.port (portOf i)).queue.getLast?.map (fun x => (x.ctx, x.slot, x.stageIn)) = some (c, i, true) ∧
         t.fget (Reg.SC_RESULT_STATUS p.val) = 0) ∧
     -- STOP of a running class-G context at U or S
     ((u.entry c).classG = true → (u.entry c).state = stRunning → u.level (u.entry c).slot < 2 →
       (u.slot (u.entry c).slot).parkReq = false → (u.slot (u.entry c).slot).stopped = false →
       exec (.stop p ctx arg) s =
         .next ((u.setSlot (u.entry c).slot { u.slot (u.entry c).slot with parkReq := true }).scResult p.val 0 ctx.toNat)) ∧
     -- SETCLASS
     ((u.entry c).state = stIdle ∨ (u.entry c).state = stParked ∨ (u.entry c).state = stUnavail →
       Completes (.setclass p ctx arg) s fun t =>
         (t.entry c).classG = arg.getLsbD 0 ∧ (t.entry c).state = (u.entry c).state ∧
         t.fget (Reg.SC_RESULT_STATUS p.val) = 0) ∧
     -- RESET of an UNAVAIL entry
     ((u.entry c).state = stUnavail →
       exec (.reset p ctx arg) s =
         .next ((u.setEntry c ((((u.entry c).setState stIdle).setUcause 0).setEn false)).scResult p.val 0 ctx.toNat)))) ∧
  (∀ (s u : State) (p : Fin 16) (ctx : BitVec 12) (arg : BitVec 20), s.calm = true → u = s.hardwareFirst p ctx → u.settled = true →
     (u.fbit (Reg.SC_RESULT_DONE p.val) = false →
       exec (.enable p ctx arg) s =
         .next ((u.flag (Reg.SC_RESULT_BUSYHIT p.val) (Reg.SC_RESULT_BUSYHIT_MORE p.val)).refusal stsBusy p.val 0o7777 blkSC 3
           arg.toNat)) ∧
     (s.fbit (Reg.SC_RESULT_DONE p.val) = true → 16 * s.fget (Reg.SC_PRANGE_COUNT p.val) ≤ ctx.toNat →
       exec (.enable p ctx arg) s =
         .next ((s.refusal stsBadArg p.val 0o7777 blkSC 3 arg.toNat).scResult p.val stsBadArg ctx.toNat)))


/-- Due points, stage decisions and releases (R78, R81, R88, R90 to R93, R97); stores to the scheduler's words, the Firn aperture and
software event sources (R73, R85, R106, R110, R112, R113). -/
def Obligations.SchedulerEvents : Prop :=
  (∀ s : State, s.calm = true →
     -- ANGLE_DUE_POINT and TIME_DUE_POINT, of a point that is not pending: it is pending, or missed where SC_CFG.EN lets it pass
     (∀ (c : Fin 4096) (e : Entry), e = s.entry c.val → e.classG = false → e.en = true → e.pend = false → e.awaits = true →
       s.reached c.val e = true →
       (s.gatedOff e = false →
         (e.ttype = 1 → exec (.angleDuePoint c) s = .next (s.setEntry c.val { e with pend := true, due := s.cyc })) ∧
         (e.ttype = 2 → exec (.timeDuePoint c) s = .next (s.setEntry c.val { e with pend := true, due := s.cyc }))) ∧
       (s.gatedOff e = true →
         (e.ttype = 1 → exec (.angleDuePoint c) s = .next (s.missPoints c.val 1 e.advance)) ∧
         (e.ttype = 2 → exec (.timeDuePoint c) s = .next (s.missPoints c.val 1 e.advance)))) ∧
     -- STAGE_DECISION onto a free eligible slot, else onto one whose class-G context is displaced, else WAITING
     (∀ (c : Fin 4096) (e : Entry) (p : Nat), e = s.entry c.val → e.classG = false → e.en = true → e.state = stArmed →
       s.fbit Reg.SC_CFG_EN = true → s.decisionReached c.val e = true → s.partOf c.val = some p →
       (∀ i : Nat, bestSlot (s.predictDue c.val e) ((s.eligibleFor p c.val).filter (s.freeFor c.val)) = some i →
         Completes (.stageDecision c) s fun t =>
           (t.entry c.val).state = stStaging ∧ (t.entry c.val).slot = i % 512 ∧ (t.slot i).resv = some c.val ∧
           (t.port (portOf i)).queue.length = (s.port (portOf i)).queue.length + 1 ∧ t.regs = s.regs) ∧
       (bestSlot (s.predictDue c.val e) ((s.eligibleFor p c.val).filter (s.freeFor c.val)) = none →
         (∀ i : Nat, bestSlot (s.predictDue c.val e) ((s.eligibleFor p c.val).filter s.displaceable) = some i →
           Completes (.stageDecision c) s fun t =>
             (t.entry c.val).state = stStaging ∧ (t.slot i).resv = some c.val ∧ (t.slot i).parkReq = true ∧
             (t.slot i).ctx = (s.slot i).ctx ∧ t.regs = s.regs) ∧
         (bestSlot (s.predictDue c.val e) ((s.eligibleFor p c.val).filter s.displaceable) = none →
           exec (.stageDecision c) s = .next (s.setEntry c.val ({ e with decided := s.cyc }.setState stWaiting))))) ∧
     -- SLOT_BECOMES_FREE, or displaceable: the waiting context that is due first takes it
     (∀ (slot : Fin 384) (c : Nat), s.freeSlot slot.val = true ∨ s.displaceable slot.val = true → s.nextWaiting slot.val = some c →
       s.fbit Reg.SC_CFG_EN = true →
       Completes (.slotBecomesFree slot) s fun t =>
         (t.entry c).state = stStaging ∧ (t.entry c).slot = slot.val ∧ (t.slot slot.val).resv = some c ∧
         ((s.slot slot.val).ctx.isSome = true → (t.slot slot.val).parkReq = true) ∧ t.regs = s.regs) ∧
     -- DISPLACEMENT at a boundary in the slot's issue cycle
     (∀ slot : Fin 384, s.mayIssue slot.val = true → s.cyc % 8 = slot.val % 8 → (s.slot slot.val).next ≤ s.cyc →
       (s.slot slot.val).judged ≤ s.cyc → s.parks slot.val = true → (s.slot slot.val).ase = none →
       Completes (.displacement slot) s fun t =>
         (t.slot slot.val).gate = false ∧ (t.slot slot.val).stopped = true ∧ (t.slot slot.val).leaving = .park ∧
         (t.slot slot.val).parkReq = false ∧ (t.slot slot.val).ctx = (s.slot slot.val).ctx ∧
         (∀ w, w < 256 → t.img slot.val w = s.img slot.val w) ∧ (∀ j, j ≠ slot.val → t.slot j = s.slot j) ∧ t.sch = s.sch) ∧
     -- DUE_CYCLE opens the gate
     (∀ c : Fin 4096, (s.entry c.val).state = stStaged → (s.entry c.val).classG = false → (s.entry c.val).pend = true →
       Completes (.dueCycle c) s fun t =>
         (t.entry c.val).state = stRunning ∧ (t.slot (s.entry c.val).slot).gate = true ∧
         (t.entry c.val).cfg = (s.entry c.val).cfg ∧ (t.entry c.val).bud = (s.entry c.val).bud) ∧
     -- WAKE_STAGING
     (∀ (p : Fin 16) (l : Fin 64) (i : Nat), s.wakes p.val l.val = true →
       (s.slotsG p.val).find? (s.freeFor (s.lineTarget p.val l.val)) = some i →
       Completes (.wakeStaging p l) s fun t =>
         (t.entry (s.lineTarget p.val l.val)).state = stStaging ∧ (t.slot i).resv = some (s.lineTarget p.val l.val))) ∧
  (∀ (s : State) (req : Requester), s.calm = true →
     (∀ (c : Fin 4096) (w : Fin 256), firnReachable (s.entry c.val).state = true → s.firnUp c.val = true → w.val < 166 →
       (∀ v, (readSealed (s.firn c.val w.val)).word = some v →
         exec (.firnApertureAccess req c w none) s = .next { s with rdata := v, rerr := false }) ∧
       (∀ v : Word, w.val ∉ [2, 3, 8, 10, 12, 14, 16, 153, 155, 157, 159, 164, 165] →
         exec (.firnApertureAccess req c w (some v)) s = .next (s.setFirn c.val w.val v)) ∧
       (∀ (v : Word) (n : Nat), (w.val, n) ∈ [(3, 7), (8, 14), (12, 9), (16, 0), (164, 2), (165, 3)] →
         exec (.firnApertureAccess req c w (some v)) s = .next (s.setFirn c.val w.val (BitVec.ofNat 36 (v.toNat % 2 ^ n)))) ∧
       (∀ v : Word, w.val = 2 →
         exec (.firnApertureAccess req c w (some v)) s = .next (s.setFirn c.val 2 (v &&& BitVec.ofNat 36 0o3601))) ∧
       (∀ v : Word, w.val = 14 → exec (.firnApertureAccess req c w (some v)) s = .next s)) ∧
     (∀ (c : Fin 4096) (w : Fin 256), firnReachable (s.entry c.val).state = false → s.firnUp c.val = true →
       exec (.firnApertureAccess req c w none) s = .next { s with rerr := true }) ∧
     (∀ (n : Fin 256) (v : Word), s.storeGuard req.level (Reg.SC_OPAGE_F n.val) = none →
       (s.fbit (Reg.SC_OPAGE_F_V n.val) = false ∨ pageIdle (s.entry (s.fget (Reg.SC_OPAGE_C_CTX n.val))).state = true) →
       pageIdle (s.entry (s.fget (Reg.SC_OPAGE_C_CTX n.val))).state = true →
       exec (.scOpageStore req n false v) s =
         .next (s.rset (Reg.SC_OPAGE_F n.val) (s.storedWord req.level (Reg.SC_OPAGE_F n.val) v 0))) ∧
     (∀ (n : Fin 256) (v : Word), s.storeGuard req.level (Reg.SC_OPAGE_C n.val) = none → s.fbit (Reg.SC_OPAGE_F_V n.val) = false →
       exec (.scOpageStore req n true v) s =
         .next (s.rset (Reg.SC_OPAGE_C n.val) (s.storedWord req.level (Reg.SC_OPAGE_C n.val) v 0))) ∧
     (∀ (p : Fin 16) (v : Word), s.storeGuard req.level (Reg.SC_PRANGE p.val) = none → req.level = .m →
       s.rangeFree p.val (bits v 0 8) (bits v 8 9) = true →
       exec (.scPrangeStore req p v) s =
         .next (s.rset (Reg.SC_PRANGE p.val) (s.storedWord req.level (Reg.SC_PRANGE p.val) v 0))) ∧
     (∀ (p : Fin 16) (i : Fin 4096) (c : Nat), c = 16 * s.fget (Reg.SC_PRANGE_BASE p.val) + i.val → s.inRange p.val c = true →
       (s.entry c).state = stFree ∨ (s.entry c).state = stIdle →
       (∀ v, Completes (.entryWordStore req p i 0 v) s fun t =>
         (t.entry c).classG = (s.entry c).classG ∧ (t.entry c).en = (s.entry c).en ∧ (t.entry c).ttype = bits v 0 2 ∧
         (t.entry c).home = bits v 5 5 ∧ (t.entry c).margin = bits v 18 18) ∧
       (∀ v, exec (.entryWordStore req p i 1 v) s = .next (s.setEntry c { s.entry c with trig := v })) ∧
       (∀ v, Completes (.entryWordStore req p i 4 v) s fun t => (t.entry c).bud.toNat = v.toNat % 2 ^ 24) ∧
       (∀ (j : Fin 8) (v : Word), 5 ≤ j.val → exec (.entryWordStore req p i j v) s = .next s)) ∧
     (∀ (p : Fin 16) (i : Fin 4096) (c : Nat) (v : Word), c = 16 * s.fget (Reg.SC_PRANGE_BASE p.val) + i.val →
       s.inRange p.val c = true → (s.entry c).state ≠ stFree → (s.entry c).state ≠ stIdle →
       exec (.entryWordStore req p i 1 v) s = .next (s.storeError req (addrWord (Reg.SC_CFG + 32768 + 32768 * p.val + 8 * i.val + 1)) 6)) ∧
     (∀ (p : Fin 16) (src : BitVec 10), 512 ≤ src.toNat → s.srcOwner src.toNat = p.val →
       exec (.scEvraiseStore p src) s = .next (s.raise src.toNat)) ∧
     (∀ (p : Fin 16) (src : BitVec 10), src.toNat < 512 ∨ s.srcOwner src.toNat ≠ p.val →
       exec (.scEvraiseStore p src) s = .next (s.flag (Reg.SC_PSTAT_BADRAISE p.val) (Reg.SC_PSTAT_BADRAISE_MORE p.val))))

/-- Transfers between the Firn and the slots (R71, R72, R76, R93), and the end of a run: its budget, the release of its commit buffer, and
Rook's answer (R28, R86, R96, R102, R104, R446). -/
def Obligations.RunsAndTransfers : Prop :=
  (∀ s : State, s.calm = true →
     -- PORT_GRANT
     (∀ (port : Fin 12) (x : Transfer), (s.port port.val).cur = none → pickTransfer (s.port port.val).queue = some x →
       Completes (.portGrant port) s fun t =>
         (t.port port.val).cur = some x ∧ (t.port port.val).queue = (s.port port.val).queue.erase x ∧ t.core = s.core ∧
         t.sch.firn = s.sch.firn) ∧
     -- STAGE_IN_COMPLETE of an image that the Firn can deliver; a context that left S busy resumes at its S vector
     (∀ (port : Fin 12) (x : Transfer) (v : Nat → Word), (s.port port.val).cur = some x → x.stageIn = true → x.disabled = false →
       x.slot < 384 → s.firnBad x.ctx 176 = none → v = (fun w => (readSealed (s.firn x.ctx w)).word.getD 0) →
       Completes (.stageInComplete port) s fun t =>
         (t.slot x.slot).ctx = some x.ctx ∧ (t.slot x.slot).gate = false ∧ (t.port port.val).cur = none ∧
         (∀ w, w < 166 → w ∉ [0, 1, 2, 3, 13] → t.img x.slot w = v w) ∧
         (bits (v 2) 0 2 ≠ 1 ∨ bitAt (v 2) 7 = false → ∀ w, w < 4 → t.img x.slot w = v w) ∧
         (bits (v 2) 0 2 = 1 → bitAt (v 2) 7 = true →
           t.img x.slot iwPc = t.sVector x.slot (bits (v 8) 0 6) ∧ t.img x.slot iwNpc = t.sVector x.slot (bits (v 8) 0 6) + 4 ∧
           (t.slot x.slot).dslot = false ∧ ∀ k, k < 8 → t.win x.slot 1 k = 0) ∧
         (∀ c w, t.firn c w = s.firn c w)) ∧
     -- STAGE_IN_COMPLETE of one that it cannot
     (∀ (port : Fin 12) (x : Transfer) (w : Nat), (s.port port.val).cur = some x → x.stageIn = true → x.disabled = false →
       s.firnBad x.ctx 176 = some w →
       Completes (.stageInComplete port) s fun t =>
         (t.entry x.ctx).state = stUnavail ∧ (t.slot x.slot).ctx = none ∧ t.fbit Reg.FN_UELOG_V = true) ∧
     -- STAGE_IN_COMPLETE of one whose entry was disabled meanwhile delivers nothing
     (∀ (port : Fin 12) (x : Transfer), (s.port port.val).cur = some x → x.stageIn = true → x.disabled = true →
       Completes (.stageInComplete port) s fun t =>
         (t.port port.val).cur = none ∧ t.sch.entries = s.sch.entries ∧ (∀ c w, t.firn c w = s.firn c w) ∧
         ((s.slot x.slot).ctx ≠ some x.ctx → t.core = s.core)) ∧
     -- FIRST_GROUP_FETCHED where the TLB and the L1I hold what the fetch needs
     (∀ (slot : Fin 384) (c : Nat) (pc : Word) (g : TlbEntry) (ws : Nat → Word), (s.slot slot.val).ctx = some c →
       (s.entry c).state = stStaging → pc = s.img slot.val iwPc → s.allows slot.val false .fetch 4 pc g = true →
       (s.slot slot.val).sb = [] → (∀ k, k < 4 → s.near slot.val true (g.pa pc / 16 * 16 + 4 * k) (ws k) = true) →
       Completes (.firstGroupFetched slot) s fun t =>
         (t.slot slot.val).fetch.getLast? =
           some { group := fetchGroup pc, words := (List.range 4).map fun k => FetchWord.word (ws k) } ∧
         ((s.entry c).classG = true → (t.entry c).state = stRunning ∧ (t.slot slot.val).gate = true) ∧
         ((s.entry c).classG = false → (s.entry c).pend = false →
           (t.entry c).state = stStaged ∧ (t.slot slot.val).gate = (s.slot slot.val).gate) ∧
         SameMemory s t) ∧
     -- and for a class-G context in general, whose trap is left to its first issue where the fetch faults
     (∀ (slot : Fin 384) (c : Nat) (u : State) (r : Out (Nat × List FetchWord)), (s.slot slot.val).ctx = some c →
       (s.entry c).state = stStaging → (s.entry c).classG = true → s.demandFetch slot.val (s.img slot.val iwPc) = (u, r) → r ≠ .wait →
       u.settled = true → u.entry c = s.entry c → (u.slot slot.val).ctx = some c →
       Completes (.firstGroupFetched slot) s fun t => (t.entry c).state = stRunning ∧ (t.slot slot.val).gate = true) ∧
     -- WRITE_BACK_REQUEST, once no operation of the slot is in flight
     (∀ (slot : Fin 384) (c : Nat), (s.slot slot.val).ctx = some c → (s.slot slot.val).stopped = true →
       (s.slot slot.val).leaving ≠ .none → (s.entry c).agreed = false → (s.port (portOf slot.val)).cur = none →
       (s.port (portOf slot.val)).queue.all (fun x => decide (x.slot ≠ slot.val) || x.stageIn) = true →
       ((s.slot slot.val).long = [] →
         Completes (.writeBackRequest slot) s fun t =>
           (t.port (portOf slot.val)).queue.getLast?.map (fun x => (x.ctx, x.slot, x.stageIn)) = some (c, slot.val, false) ∧
           t.core = s.core) ∧
       ((s.slot slot.val).long ≠ [] → exec (.writeBackRequest slot) s = .next s)) ∧
     -- WRITE_BACK_VERDICT: the image is replaced in one cycle; words of a lockstep pair that differ are a mismatch, and nothing is written
     (∀ (port : Fin 12) (x : Transfer), (s.port port.val).cur = some x → x.stageIn = false →
       (Completes (.writeBackVerdict port true) s fun t =>
         (∀ w, w < 166 → t.firn x.ctx w = sealWord (s.img x.slot w)) ∧
         (∀ c w, c ≠ x.ctx → w < 256 → t.firn c w = s.firn c w)) ∧
       (s.pairState (pairOf x.slot) = lsLockstep →
         Completes (.writeBackVerdict port false) s fun t =>
           t.sch.firn = s.sch.firn ∧ t.pairState (pairOf x.slot) = lsHold) ∧
       (s.pairState (pairOf x.slot) ≠ lsLockstep → exec (.writeBackVerdict port false) s = exec (.writeBackVerdict port true) s))) ∧
  (∀ s : State, s.calm = true →
     -- RUN_BUDGET_EXPIRY releases nothing and writes nothing back
     (∀ (slot : Fin 384) (c p : Nat), (s.slot slot.val).ctx = some c → (s.entry c).classG = false → (s.entry c).state = stRunning →
       (s.slot slot.val).gate = true → (s.slot slot.val).stopped = false → (s.slot slot.val).first = false →
       (s.slot slot.val).ase = none → (s.entry c).budget ≤ (s.img slot.val iwRuncyc).toNat → s.partOf c = some p →
       Completes (.runBudgetExpiry slot) s fun t =>
         t.commitOf c = [] ∧ (t.slot slot.val).ctx = none ∧ t.sch.firn = s.sch.firn ∧ t.pd.released = s.pd.released ∧
         t.fbit (Reg.SC_PSTAT_OVR p) = true ∧
         (t.entry c).state = (if (s.entry c).ovpol || (s.entry c).oneShot then stIdle else stArmed)) ∧
     -- COMMIT_RELEASE outside the full profile: the captured words of output pages reach memory, the others the engine
     (∀ (c : Fin 4096) (u : State), (s.entry c.val).classG = false → (s.entry c.val).state = stCommit → (s.entry c.val).agreed = true →
       s.judging c.val = false → s.fget Reg.RK_PSTAT_PROF ≠ 1 →
       u = ((s.commitOf c.val).filter CommitEntry.page).foldl State.releaseWord s → u.settled = true →
       (u.entry c.val).cfg = (s.entry c.val).cfg →
       Completes (.commitRelease c) s fun t =>
         t.pd.released = u.pd.released ++ [{ ctx := c.val, entries := (s.commitOf c.val).filter fun e => !e.page, final := true }] ∧
         t.commitOf c.val = [] ∧ t.mem = u.mem ∧ t.dram = u.dram ∧
         ((s.entry c.val).pin = false →
           (t.entry c.val).state = (if (u.entry c.val).oneShot then stIdle else stArmed)) ∧
         ((s.entry c.val).pin = true → (u.entry c.val).oneShot = false → (u.entry c.val).pend = false →
           (t.entry c.val).state = stStaged ∧ (t.slot (u.entry c.val).slot).gate = false)) ∧
     -- and of a run that captured none of an output page, from the state alone
     (∀ c : Fin 4096, (s.entry c.val).classG = false → (s.entry c.val).state = stCommit → (s.entry c.val).agreed = true →
       s.judging c.val = false → s.fget Reg.RK_PSTAT_PROF ≠ 1 → (s.commitOf c.val).all (fun e => !e.page) = true →
       (s.entry c.val).pin = false →
       Completes (.commitRelease c) s fun t =>
         t.pd.released = s.pd.released ++ [{ ctx := c.val, entries := s.commitOf c.val, final := true }] ∧
         t.commitOf c.val = [] ∧ (t.entry c.val).state = (if (s.entry c.val).oneShot then stIdle else stArmed)) ∧
     -- INTERLOCK_ANSWER: the entries of the oldest release that waits are released or refused as a group
     (∀ (c : Nat) (l : List CommitEntry) (rest : List (Nat × List CommitEntry)), s.fbit Reg.RK_PSTAT_HUNG = false →
       s.sch.intlk = (c, l) :: rest →
       (l.all (fun e => !e.page) = true →
         Completes (.interlockAnswer true) s fun t =>
           t.sch.intlk = rest ∧ t.commitOf c = [] ∧ t.pd.released = s.pd.released ++ [{ ctx := c, entries := l, final := true }]) ∧
       (Completes (.interlockAnswer false) s fun t =>
         t.sch.intlk = rest ∧ t.commitOf c = [] ∧
         t.pd.released = s.pd.released ++ [{ ctx := c, entries := [], final := true }] ∧
         t.fbit (Reg.SC_PSTAT_INTLK ((s.partOf c).getD 0)) = true)) ∧
     -- INTERLOCK_TIMEOUT refuses them
     (∀ (c : Nat) (l : List CommitEntry) (rest : List (Nat × List CommitEntry)), s.sch.intlk = (c, l) :: rest →
       Completes .interlockTimeout s fun t =>
         t.sch.intlk = rest ∧ t.commitOf c = [] ∧
         t.pd.released = s.pd.released ++ [{ ctx := c, entries := [], final := true }] ∧
         t.fbit (Reg.SC_PSTAT_INTLK ((s.partOf c).getD 0)) = true))
/-- The three-register integer instructions with X = 0 (R115, R126, R131), on operands that no long operation in flight writes. -/
def Obligations.IntegerRegisterResults : Prop :=
  ∀ (s : State) (slot : Fin 384) (f : RFields) (a b : Word), s.calm = true → s.ready slot.val = true → f.x = 0 →
    s.clear slot.val (s.places slot.val [f.rd, f.ra, f.rb]) = true → a = s.reg slot.val f.ra → b = s.reg slot.val f.rb →
    WritesReg (.add slot f) s slot.val f.rd (BitVec.ofNat 36 (a.toNat + b.toNat)) ∧
    WritesReg (.sub slot f) s slot.val f.rd (BitVec.ofInt 36 (a.toInt - b.toInt)) ∧
    WritesReg (.and slot f) s slot.val f.rd (a &&& b) ∧
    WritesReg (.or slot f) s slot.val f.rd (a ||| b) ∧
    WritesReg (.xor slot f) s slot.val f.rd (a ^^^ b) ∧
    WritesReg (.andn slot f) s slot.val f.rd (a &&& ~~~b) ∧
    WritesReg (.slt slot f) s slot.val f.rd (if a.toInt < b.toInt then 1 else 0) ∧
    WritesReg (.sltu slot f) s slot.val f.rd (if a.toNat < b.toNat then 1 else 0) ∧
    WritesReg (.sll slot f) s slot.val f.rd (if b.toNat < 36 then BitVec.ofNat 36 (a.toNat * 2 ^ b.toNat) else 0) ∧
    WritesReg (.srl slot f) s slot.val f.rd (if b.toNat < 36 then BitVec.ofNat 36 (a.toNat / 2 ^ b.toNat) else 0) ∧
    WritesReg (.sra slot f) s slot.val f.rd
      (if b.toNat < 36 then BitVec.ofInt 36 (a.toInt / 2 ^ b.toNat) else if a.toInt < 0 then BitVec.allOnes 36 else 0) ∧
    WritesReg (.min slot f) s slot.val f.rd (if a.toInt ≤ b.toInt then a else b) ∧
    WritesReg (.max slot f) s slot.val f.rd (if a.toInt ≤ b.toInt then b else a)

/-- The integer instructions on one register, and the shifts by X (R131). The immediate instructions: sign-extended for ADDI, SLTI and
SLTIU, zero-extended for ANDI, ORI and XORI (R132); SETH sets the upper half, and LEA adds four times the immediate to PC. -/
def Obligations.IntegerUnaryAndImmediateResults : Prop :=
  (∀ (s : State) (slot : Fin 384) (f : RFields) (a : Word), s.calm = true → s.ready slot.val = true → f.rb = 0 →
     s.clear slot.val (s.places slot.val [f.rd, f.ra]) = true → a = s.reg slot.val f.ra →
     (f.x.toNat < 36 →
       WritesReg (.slli slot f) s slot.val f.rd (BitVec.ofNat 36 (a.toNat * 2 ^ f.x.toNat)) ∧
       WritesReg (.srli slot f) s slot.val f.rd (BitVec.ofNat 36 (a.toNat / 2 ^ f.x.toNat)) ∧
       WritesReg (.srai slot f) s slot.val f.rd (BitVec.ofInt 36 (a.toInt / 2 ^ f.x.toNat))) ∧
     (f.x = 0 →
       (∃ n : Nat, n ≤ 36 ∧ a.toNat < 2 ^ (36 - n) ∧ (n < 36 → 2 ^ (35 - n) ≤ a.toNat) ∧
         WritesReg (.clz slot f) s slot.val f.rd (BitVec.ofNat 36 n)) ∧
       WritesReg (.sxh slot f) s slot.val f.rd (BitVec.ofInt 36 (a.setWidth 18).toInt) ∧
       WritesReg (.sxn slot f) s slot.val f.rd (BitVec.ofInt 36 (a.setWidth 9).toInt))) ∧
  (∀ (s : State) (slot : Fin 384), s.calm = true → s.ready slot.val = true →
     (∀ (f : IFields) (a : Word), s.clear slot.val (s.places slot.val [f.rd, f.ra]) = true → a = s.reg slot.val f.ra →
       WritesReg (.addi slot f) s slot.val f.rd (BitVec.ofInt 36 (a.toInt + f.imm.toInt)) ∧
       WritesReg (.andi slot f) s slot.val f.rd (a &&& BitVec.ofNat 36 f.imm.toNat) ∧
       WritesReg (.ori slot f) s slot.val f.rd (a ||| BitVec.ofNat 36 f.imm.toNat) ∧
       WritesReg (.xori slot f) s slot.val f.rd (a ^^^ BitVec.ofNat 36 f.imm.toNat) ∧
       WritesReg (.slti slot f) s slot.val f.rd (if a.toInt < f.imm.toInt then 1 else 0) ∧
       WritesReg (.sltiu slot f) s slot.val f.rd (if a.toNat < (BitVec.ofInt 36 f.imm.toInt).toNat then 1 else 0)) ∧
     (∀ f : IFields, s.clear slot.val (s.places slot.val [f.rd]) = true →
       WritesReg (.lea slot f) s slot.val f.rd (BitVec.ofInt 36 ((s.img slot.val iwPc).toNat + 4 * f.imm.toInt))) ∧
     (∀ f : HFields, f.rsv = 0 → s.clear slot.val (s.places slot.val [f.rd]) = true →
       WritesReg (.seth slot f) s slot.val f.rd (BitVec.ofNat 36 (f.imm.toNat * 2 ^ 18))))


/-- The long integer instructions issue an operation whose result is that of R133 and R134: quotients are truncated toward zero, and
division by zero gives a quotient of 36 ones and the dividend as remainder; the most negative number over −1 gives itself and 0.
LONG_OPERATION_COMPLETE, where the operation that completes first does so in the next cycle: that cycle passes, the operation's word is
written and its bits of SPSTAT are set; the others stay in flight (R166, R179). -/
def Obligations.LongIntegerResults : Prop :=
  (∀ (s : State) (slot : Fin 384) (f : RFields) (a b : Word), s.calm = true → s.ready slot.val = true → f.x = 0 →
     s.clear slot.val (s.places slot.val [f.rd, f.ra, f.rb]) = true → a = s.reg slot.val f.ra → b = s.reg slot.val f.rb →
     IssuesLong (.mul slot f) s slot.val 4 { writes := [(s.place slot.val f.rd, BitVec.ofInt 36 (a.toInt * b.toInt))], stat := 0 } ∧
     IssuesLong (.mulh slot f) s slot.val 4
       { writes := [(s.place slot.val f.rd, BitVec.ofInt 36 ((a.toInt * b.toInt) / 2 ^ 36))], stat := 0 } ∧
     IssuesLong (.mulhu slot f) s slot.val 4
       { writes := [(s.place slot.val f.rd, BitVec.ofNat 36 ((a.toNat * b.toNat) / 2 ^ 36))], stat := 0 } ∧
     IssuesLong (.div slot f) s slot.val 38
       { writes := [(s.place slot.val f.rd, if b = 0 then BitVec.allOnes 36 else BitVec.ofInt 36 (a.toInt.tdiv b.toInt))],
         stat := 0 } ∧
     IssuesLong (.divu slot f) s slot.val 38
       { writes := [(s.place slot.val f.rd, if b = 0 then BitVec.allOnes 36 else BitVec.ofNat 36 (a.toNat / b.toNat))],
         stat := 0 } ∧
     IssuesLong (.rem slot f) s slot.val 38
       { writes := [(s.place slot.val f.rd, if b = 0 then a else BitVec.ofInt 36 (a.toInt.tmod b.toInt))], stat := 0 } ∧
     IssuesLong (.remu slot f) s slot.val 38
       { writes := [(s.place slot.val f.rd, if b = 0 then a else BitVec.ofNat 36 (a.toNat % b.toNat))], stat := 0 }) ∧
  (∀ (s : State) (slot : Fin 384) (p : Place) (v st : Word) (rs : Bool) (os1 os2 : List LongOp), s.calm = true →
     (s.slot slot.val).long = os1 ++ { writes := [(p, v)], stat := st, rsat := rs, due := s.cyc + 1 } :: os2 →
     (∀ o ∈ os1 ++ os2, s.cyc + 1 < o.due) → (∀ j, j ≠ slot.val → ∀ o ∈ (s.slot j).long, s.cyc + 1 < o.due) → p ≠ .step →
     (∀ w, p = .img w → w ≠ iwSpstat ∧ w < 256) →
     Completes (.longOperationComplete slot) s fun t =>
       t.getPlace slot.val p = (if p = .zero then 0 else v) ∧ (t.slot slot.val).long = os1 ++ os2 ∧
       t.img slot.val iwSpstat = s.img slot.val iwSpstat ||| st ∧
       (∀ w, w < 256 → w ≠ iwSpstat → w ≠ iwRuncyc → p ≠ .img w → t.img slot.val w = s.img slot.val w) ∧
       (∀ j w, j ≠ slot.val → w < 256 → w ≠ iwRuncyc → t.img j w = s.img j w) ∧ t.cyc = s.cyc + 1 ∧ t.dram.cells = s.dram.cells)

/-- Division raises no fault; a divisor of 0, and −2^35 divided by −1, give the results of R134. -/
def Obligations.DivisionNeverFaults : Prop :=
  ∀ (s : State) (slot : Fin 384) (f : RFields) (a b : Word) (r : Word → LongOp), s.calm = true → s.ready slot.val = true → f.x = 0 →
    s.clear slot.val (s.places slot.val [f.rd, f.ra, f.rb]) = true → a = s.reg slot.val f.ra → b = s.reg slot.val f.rb →
    r = (fun v => { writes := [(s.place slot.val f.rd, v)], stat := 0 }) →
    (∃ q d m e, IssuesLong (.div slot f) s slot.val 38 (r q) ∧ IssuesLong (.divu slot f) s slot.val 38 (r d) ∧
      IssuesLong (.rem slot f) s slot.val 38 (r m) ∧ IssuesLong (.remu slot f) s slot.val 38 (r e)) ∧
    (b = 0 → IssuesLong (.div slot f) s slot.val 38 (r (BitVec.allOnes 36)) ∧ IssuesLong (.divu slot f) s slot.val 38 (r (BitVec.allOnes 36)) ∧
      IssuesLong (.rem slot f) s slot.val 38 (r a) ∧ IssuesLong (.remu slot f) s slot.val 38 (r a)) ∧
    (a = BitVec.intMin 36 → b = -1 →
      IssuesLong (.div slot f) s slot.val 38 (r (BitVec.intMin 36)) ∧ IssuesLong (.rem slot f) s slot.val 38 (r 0))
/-- The loads of R135 and R136, with sign or zero extension as the instruction says. -/
def Obligations.LoadResults : Prop :=
  ∀ (s : State) (slot : Fin 384) (f : IFields), s.calm = true → s.ready slot.val = true →
    LoadsAs (.ldw slot f) s slot.val f.rd f.ra (f.imm.signExtend 36) 4 false false ∧
    LoadsAs (.ldh slot f) s slot.val f.rd f.ra (f.imm.signExtend 36) 2 true false ∧
    LoadsAs (.ldhu slot f) s slot.val f.rd f.ra (f.imm.signExtend 36) 2 false false ∧
    LoadsAs (.ldn slot f) s slot.val f.rd f.ra (f.imm.signExtend 36) 1 true false ∧
    LoadsAs (.ldnu slot f) s slot.val f.rd f.ra (f.imm.signExtend 36) 1 false false ∧
    (s.level slot.val = 1 ∨ s.level slot.val = 2 →
      LoadsAs (.ldu slot f) s slot.val f.rd f.ra (f.imm.signExtend 36) 4 false true)

/-- The stores of R135 and R136 to memory (R191). -/
def Obligations.StoreResults : Prop :=
  ∀ (s : State) (slot : Fin 384) (f : IFields), s.calm = true → s.ready slot.val = true →
    StoresAs (.stw slot f) s slot.val f.rd f.ra (f.imm.signExtend 36) 4 false ∧
    StoresAs (.sth slot f) s slot.val f.rd f.ra (f.imm.signExtend 36) 2 false ∧
    StoresAs (.stn slot f) s slot.val f.rd f.ra (f.imm.signExtend 36) 1 false ∧
    (s.level slot.val = 1 ∨ s.level slot.val = 2 →
      StoresAs (.stu slot f) s slot.val f.rd f.ra (f.imm.signExtend 36) 4 true)

/-- A word store of a class-D context to a captured target goes to the commit buffer, in place of an earlier capture of the target or
as its newest entry, and not to the store buffer or to memory (R99, R100); the 33rd ends the run, and nothing of it is released (R101). -/
def Obligations.CaptureResults : Prop :=
  ∀ (s : State) (slot : Fin 384) (f : IFields) (c : Nat) (e : TlbEntry) (ea target : Word), s.calm = true → s.ready slot.val = true →
    s.clear slot.val (s.places slot.val [f.rd, f.ra]) = true → ea = s.reg slot.val f.ra + f.imm.signExtend 36 → ea.toNat % 4 = 0 →
    s.allows slot.val false .store 4 ea e = true → (s.slot slot.val).ctx = some c → s.targetOf slot.val (e.pa ea) = some target →
    ((s.commitOf c).any (fun x => decide (x.target = target)) = true →
      Completes (.stw slot f) s fun w =>
        w.commitOf c =
          (s.commitOf c).map (fun x => if x.target = target then { x with value := s.reg slot.val f.rd, err := 0 } else x) ∧
        SameMemory s w ∧ (w.slot slot.val).sb = (s.slot slot.val).sb ∧ Advanced s w slot.val) ∧
    ((s.commitOf c).any (fun x => decide (x.target = target)) = false → (s.commitOf c).length < 32 →
      Completes (.stw slot f) s fun w =>
        w.commitOf c = s.commitOf c ++ [{ target := target, value := s.reg slot.val f.rd }] ∧
        SameMemory s w ∧ (w.slot slot.val).sb = (s.slot slot.val).sb ∧ Advanced s w slot.val) ∧
    ((s.commitOf c).any (fun x => decide (x.target = target)) = false → 32 ≤ (s.commitOf c).length → (s.slot slot.val).ase = none →
      Completes (.stw slot f) s fun w =>
        w.commitOf c = [] ∧ (w.slot slot.val).ctx = none ∧ SameMemory s w ∧ w.pd.released = s.pd.released ∧
        w.sch.firn = s.sch.firn)

/-- The atomics of R137: SWAP writes GPR[rb], CAS writes it where the old word is GPR[rd], FADD adds it. -/
def Obligations.AtomicResults : Prop :=
  ∀ (s : State) (slot : Fin 384) (f : RFields), s.calm = true → s.ready slot.val = true → f.x = 0 →
    SwapsAs (.swap slot f) s slot.val f.rd f.ra f.rb (fun u _ => some (u.reg slot.val f.rb)) ∧
    SwapsAs (.cas slot f) s slot.val f.rd f.ra f.rb
      (fun u old => if old = u.reg slot.val f.rd then some (u.reg slot.val f.rb) else none) ∧
    SwapsAs (.fadd slot f) s slot.val f.rd f.ra f.rb (fun u old => some (old + u.reg slot.val f.rb))

/-- A misaligned access takes the alignment fault with the address at fault, and writes nothing (R135, R211, R216): a context at U enters
S with PC and NPC saved, CAUSE and FADDR as R217 has them. -/
def Obligations.AlignmentFault : Prop :=
  ∀ (s : State) (slot : Fin 384) (f : IFields) (ea : Word) (c : Instr), s.calm = true → s.ready slot.val = true →
    s.clear slot.val (s.places slot.val [f.rd, f.ra]) = true → s.level slot.val = 0 →
    ea = s.reg slot.val f.ra + f.imm.signExtend 36 → (s.slot slot.val).sb = [] →
    (ea.toNat % 4 ≠ 0 ∧ c ∈ [Instr.ldw slot f, .stw slot f]) ∨
      (ea.toNat % 2 ≠ 0 ∧ c ∈ [Instr.ldh slot f, .ldhu slot f, .sth slot f]) →
    Completes c s fun w =>
      w.level slot.val = 1 ∧ w.sbusy slot.val = true ∧ w.ie slot.val = false ∧
      w.img slot.val iwSpc = s.img slot.val iwPc ∧ w.img slot.val (iwSpc + 1) = s.img slot.val iwNpc ∧
      bits (w.img slot.val (iwSpc + 3)) 0 6 = 3 ∧ w.img slot.val (iwSpc + 4) = ea ∧
      w.img slot.val iwPc = s.sVector slot.val 3 ∧ w.img slot.val iwNpc = s.sVector slot.val 3 + 4 ∧
      w.mem = s.mem ∧ w.dram = s.dram

/-- A core's read of a word that its L1 holds, good, returns it and changes no word of memory; one that only its L2 holds comes into the L1
(R268, R269, R274, R287). -/
def Obligations.HeldWordReads : Prop :=
  ∀ (s : State) (core pw : Nat) (fetch : Bool) (v : Word), core < 48 → s.sliceLost (pw / 16) = false →
    (s.inL1 core fetch (pw / 16) = true → readSealed ((s.l1Way core fetch (pw / 16)).words.getD (pw % 16) 0) = .good v →
      (s.coreRead core fetch pw).2 = .ok v ∧ SameMemory s (s.coreRead core fetch pw).1) ∧
    (s.inL1 core fetch (pw / 16) = false → s.lineQ (pw / 16) = LineQ.idle → (s.agentSt (core / 4) (pw / 16)).holds = true →
      (∀ n ∈ clusterCores (core / 4), (s.l1Way n false (pw / 16)).st ≠ .m) →
      readSealed ((s.agentLine (core / 4) (pw / 16)).words.getD (pw % 16) 0) = .good v →
      (s.coreRead core fetch pw).2 = .ok v ∧ (s.coreRead core fetch pw).1.inL1 core fetch (pw / 16) = true ∧
      ((s.coreRead core fetch pw).1.l1Way core fetch (pw / 16)).words = (s.agentLine (core / 4) (pw / 16)).words ∧
      ((s.coreRead core fetch pw).1.agentLine (core / 4) (pw / 16)).words = (s.agentLine (core / 4) (pw / 16)).words ∧
      (s.coreRead core fetch pw).1.mem.dirs = s.mem.dirs ∧ (s.coreRead core fetch pw).1.dram = s.dram)

/-- The compare-and-branch instructions, CALL and JREG (R126 to R128, R138, R139). -/
def Obligations.ControlTransfers : Prop :=
  ∀ (s : State) (slot : Fin 384) (pc : Word), s.calm = true → s.ready slot.val = true → (s.slot slot.val).dslot = false →
    pc = s.img slot.val iwPc →
    (∀ (f : BFields) (a b target : Word), s.clear slot.val (s.places slot.val [f.ra, f.rb]) = true → a = s.reg slot.val f.ra →
      b = s.reg slot.val f.rb → target = BitVec.ofInt 36 (pc.toNat + 4 * f.disp.toInt) →
      TransfersTo (.beq slot f) s slot.val (decide (a = b)) f.annul target 0 0 ∧
      TransfersTo (.bne slot f) s slot.val (decide (a ≠ b)) f.annul target 0 0 ∧
      TransfersTo (.blt slot f) s slot.val (decide (a.toInt < b.toInt)) f.annul target 0 0 ∧
      TransfersTo (.bge slot f) s slot.val (decide (b.toInt ≤ a.toInt)) f.annul target 0 0 ∧
      TransfersTo (.bltu slot f) s slot.val (decide (a.toNat < b.toNat)) f.annul target 0 0 ∧
      TransfersTo (.bgeu slot f) s slot.val (decide (b.toNat ≤ a.toNat)) f.annul target 0 0) ∧
    (∀ f : JFields, s.clear slot.val (s.places slot.val [f.rd]) = true →
      TransfersTo (.call slot f) s slot.val true false (BitVec.ofInt 36 (pc.toNat + 4 * f.disp.toInt)) f.rd (pc + 8)) ∧
    (∀ f : IFields, s.clear slot.val (s.places slot.val [f.rd, f.ra]) = true →
      (s.reg slot.val f.ra + f.imm.signExtend 36).toNat % 4 = 0 →
      TransfersTo (.jreg slot f) s slot.val true false (s.reg slot.val f.ra + f.imm.signExtend 36) f.rd (pc + 8))

/-- SAVE and RESTORE move the window by one, read the operand in the old window and write the result in the new one; the windows
overlap in eight registers; at the limit they trap (R116, R118, R140, R211). -/
def Obligations.WindowRotation : Prop :=
  ∀ (s : State) (slot : Fin 384) (f : IFields), s.calm = true → s.ready slot.val = true → dueAll (s.slot slot.val).long ≤ s.cyc →
    s.level slot.val = 0 ∨ (s.level slot.val = 1 ∧ s.trapMode slot.val = false) →
    (s.depth slot.val ≠ 7 →
      Completes (.save slot f) s fun t =>
        t.cwp slot.val = (s.cwp slot.val + 1) % 8 ∧ t.depth slot.val = s.depth slot.val + 1 ∧
        t.reg slot.val f.rd = (if f.rd = 0 then 0 else s.reg slot.val f.ra + f.imm.signExtend 36) ∧
        (∀ k, k < 8 → BitVec.ofNat 5 (8 + k) ≠ f.rd →
          t.reg slot.val (BitVec.ofNat 5 (8 + k)) = s.reg slot.val (BitVec.ofNat 5 (24 + k))) ∧
        Advanced s t slot.val ∧ t = { s with core := t.core }) ∧
    (s.depth slot.val ≠ 0 →
      Completes (.restore slot f) s fun t =>
        t.cwp slot.val = (s.cwp slot.val + 7) % 8 ∧ t.depth slot.val = s.depth slot.val - 1 ∧
        t.reg slot.val f.rd = (if f.rd = 0 then 0 else s.reg slot.val f.ra + f.imm.signExtend 36) ∧
        (∀ k, k < 8 → BitVec.ofNat 5 (24 + k) ≠ f.rd →
          t.reg slot.val (BitVec.ofNat 5 (24 + k)) = s.reg slot.val (BitVec.ofNat 5 (8 + k))) ∧
        Advanced s t slot.val ∧ t = { s with core := t.core }) ∧
    (s.depth slot.val = 7 → s.level slot.val = 0 → (s.slot slot.val).sb = [] →
      Completes (.save slot f) s fun t =>
        t.level slot.val = 1 ∧ bits (t.img slot.val (iwSpc + 3)) 0 6 = 6 ∧ bits (t.img slot.val (iwSpc + 3)) 6 4 = 0 ∧
        t.cwp slot.val = s.cwp slot.val ∧ t.depth slot.val = 7) ∧
    (s.depth slot.val = 0 → s.level slot.val = 0 → (s.slot slot.val).sb = [] →
      Completes (.restore slot f) s fun t =>
        t.level slot.val = 1 ∧ bits (t.img slot.val (iwSpc + 3)) 0 6 = 6 ∧ bits (t.img slot.val (iwSpc + 3)) 6 4 = 1 ∧
        t.cwp slot.val = s.cwp slot.val ∧ t.depth slot.val = 0)

/-- The block instructions (R143 to R149). `u` is the state on which they begin. Where each of their accesses succeeds and no event comes
between two of their steps, PROG is 0 again, SLHEAD has moved, and PC has moved on; RESTL goes on where the restored context was, and keeps
SBUSY. The last step, from the state and the operands alone, of a save or a restore whose words have been moved; a MOVB of no words.
A saving list whose head is 0 takes the empty-list fault, and SAVEL writes nothing; a restore from an area whose header does not match
takes the area fault (R142, R147, R211). -/
def Obligations.BlockInstructionResults : Prop :=
  (∀ (s u : State) (slot : Fin 384) (f : RFields) (a : Word), s.calm = true → s.ready slot.val = true → (s.slot slot.val).dslot = false →
     f.x = 0 →
     (f.rd = 0 → f.ra = 0 → f.rb = 0 → dueAll (s.slot slot.val).long ≤ s.cyc → u = s.begun slot.val true →
       a = s.img slot.val iwSlhead → a ≠ 0 → a.toNat % 32 = 0 →
       (s.level slot.val = 0 ∨ (s.level slot.val = 1 ∧ s.sbusy slot.val = false) →
         (∀ q : State, q.settled = true →
           (State.blockRun slot.val (State.saveStep slot.val a 0) 1 (State.saveEnd slot.val a false) 0 88 u = .next q →
             Completes (.savel slot f) s fun t =>
               t.prog slot.val = 0 ∧ t.img slot.val iwSlhead = q.img slot.val iwSlhead ∧ Advanced q t slot.val ∧ t.mem = q.mem) ∧
           (State.blockRun slot.val (State.saveStep slot.val a 88) 1 (State.saveEnd slot.val a true) 88 88 u = .next q →
             Completes (.saveu slot f) s fun t =>
               t.prog slot.val = 0 ∧ t.img slot.val iwSlhead = q.img slot.val iwSlhead ∧ Advanced q t slot.val ∧ t.mem = q.mem) ∧
           (State.blockRun slot.val (State.restStep slot.val a 88) 3 (State.restuEnd slot.val a) 88 80 u = .next q →
             Completes (.restu slot f) s fun t =>
               t.prog slot.val = 0 ∧ t.img slot.val iwSlhead = q.img slot.val iwSlhead ∧ Advanced q t slot.val ∧ t.mem = q.mem)) ∧
         -- the last step of a save: the link is read, the header and the check word are stored
         (∀ (e : TlbEntry) (link hdr : Word) (ws : List Word), s.prog slot.val = 88 → (s.slot slot.val).sb = [] →
           s.reads slot.val 4 false (a + 4) e link = true → s.mayStore slot.val 4 false a e = true →
           s.mayStore slot.val 4 false (a + 360) e = true → e.pa (a + 360) = e.pa a + 360 → e.pa a % 32 = 0 →
           (hdr = s.areaHeader slot.val false → ws = (List.range 88).map (fun j => u.saveWord slot.val j link) →
             Completes (.savel slot f) s fun t =>
               t.prog slot.val = 0 ∧ t.img slot.val iwSlhead = link ∧ Advanced s t slot.val ∧ ReadsOnly s t ∧
               ∀ k, k < 4 → t.buffered slot.val (e.pa a + k) = some (nonetAt hdr k) ∧
                 t.buffered slot.val (e.pa a + 360 + k) = some (nonetAt (areaCheck hdr ws) k)) ∧
           (hdr = s.areaHeader slot.val true → ws = (List.range 80).map (fun j => u.img slot.val (88 + j)) →
             Completes (.saveu slot f) s fun t =>
               t.prog slot.val = 0 ∧ t.img slot.val iwSlhead = link ∧ Advanced s t slot.val ∧ ReadsOnly s t ∧
               ∀ k, k < 4 → t.buffered slot.val (e.pa a + k) = some (nonetAt hdr k) ∧
                 t.buffered slot.val (e.pa a + 360 + k) = some (nonetAt (areaCheck hdr ws) k))) ∧
         -- the last step of RESTU: the header and the check word match, and SLHEAD takes the link
         (∀ (e : TlbEntry) (link hdr chk : Word), s.prog slot.val = 80 → s.reads slot.val 4 false a e hdr = true →
           s.reads slot.val 4 false (a + 360) e chk = true → s.reads slot.val 4 false (a + 4) e link = true →
           bits hdr 27 9 = 0o547 → bitAt hdr 26 = true →
           chk = areaCheck hdr ((List.range 80).map fun j => u.img slot.val (88 + j)) →
           Completes (.restu slot f) s fun t =>
             t.prog slot.val = 0 ∧ t.img slot.val iwSlhead = link ∧ Advanced s t slot.val ∧ ReadsOnly s t)) ∧
       -- RESTL: once its words 16 to 87 are in, the header, the control words and the check word are read, and the context goes on there
       (∀ (p v q : State) (hs : List Word) (chk : Word), s.level slot.val = 1 → s.sbusy slot.val = false →
         State.blockRun slot.val (State.restStep slot.val a 0) 1 Done.next 16 72 u = .next p →
         State.areaWords slot.val a (fun x ws => if ws = hs then .next x else .wait x) 18 0 [] p = .next v →
         v.load slot.val 4 false (a + 360) = (q, .ok chk) → q.settled = true →
         bits (hs.getD 0 0) 27 9 = 0o547 → bitAt (hs.getD 0 0) 26 = false → bits (hs.getD 4 0) 0 2 ≤ 1 →
         chk = areaCheck (hs.getD 0 0) (hs.drop 2 ++ (List.range 72).map fun j => q.img slot.val (16 + j)) →
         Completes (.restl slot f) s fun t =>
           t.prog slot.val = 0 ∧ t.img slot.val iwPc = hs.getD 2 0 ∧ t.img slot.val iwNpc = hs.getD 3 0 ∧
           t.img slot.val iwSlhead = hs.getD 1 0 ∧ t.level slot.val = bits (hs.getD 4 0) 0 2 ∧ t.sbusy slot.val = q.sbusy slot.val ∧
           t.mem = q.mem)) ∧
     -- MOVB
     (s.clear slot.val (s.places slot.val [f.rd, f.ra, f.rb]) = true → u = s.begun slot.val →
       s.level slot.val = 0 ∨ (s.level slot.val = 1 ∧ s.sbusy slot.val = false) →
       (s.reg slot.val f.ra).toNat % 4 = 0 → (s.reg slot.val f.rb).toNat % 4 = 0 →
       (∀ q : State, q.settled = true →
         State.moveWords slot.val (s.reg slot.val f.ra) (s.reg slot.val f.rb)
           (bits (s.reg slot.val f.rd) 0 12 - s.prog slot.val) (s.prog slot.val) u = .next q →
         Completes (.movb slot f) s fun t => t.prog slot.val = 0 ∧ Advanced q t slot.val ∧ t.mem = q.mem ∧ t.dram = q.dram) ∧
       (bits (s.reg slot.val f.rd) 0 12 ≤ s.prog slot.val →
         Completes (.movb slot f) s fun t =>
           t.prog slot.val = 0 ∧ Advanced s t slot.val ∧ Keeps s t slot.val (.img iwStatus)))) ∧
  -- what ends in a fault
  (∀ (s : State) (slot : Fin 384) (f : RFields), s.calm = true → s.ready slot.val = true → (s.slot slot.val).dslot = false →
     dueAll (s.slot slot.val).long ≤ s.cyc → (s.slot slot.val).sb = [] → f.rd = 0 → f.ra = 0 → f.rb = 0 → f.x = 0 →
     s.level slot.val = 0 →
     (∀ c : Instr, c ∈ [Instr.savel slot f, .saveu slot f, .restu slot f] → s.img slot.val iwSlhead = 0 →
       Completes c s fun t =>
         t.level slot.val = 1 ∧ bits (t.img slot.val (iwSpc + 3)) 0 6 = 7 ∧ bits (t.img slot.val (iwSpc + 3)) 6 4 = 0 ∧
         t.img slot.val iwSpc = s.img slot.val iwPc ∧ t.img slot.val iwSlhead = 0 ∧ t.mem = s.mem ∧ t.dram = s.dram) ∧
     (∀ (e : TlbEntry) (a hdr chk : Word), s.prog slot.val = 80 → a = s.img slot.val iwSlhead → a ≠ 0 → a.toNat % 32 = 0 →
       s.reads slot.val 4 false a e hdr = true → s.reads slot.val 4 false (a + 360) e chk = true →
       bits hdr 27 9 ≠ 0o547 ∨ bitAt hdr 26 = false →
       Completes (.restu slot f) s fun t =>
         t.level slot.val = 1 ∧ bits (t.img slot.val (iwSpc + 3)) 0 6 = 7 ∧ bits (t.img slot.val (iwSpc + 3)) 6 4 = 1 ∧
         t.img slot.val (iwSpc + 4) = a ∧ t.img slot.val iwSlhead = a ∧ t.dram = s.dram))

/-- YIELD and SWAPCTX end the context's run (R86, R107, R150, R152). -/
def Obligations.RunControl : Prop :=
  ∀ (s : State) (slot : Fin 384) (f : RFields) (c : Nat), s.calm = true → s.ready slot.val = true → (s.slot slot.val).dslot = false →
    (s.slot slot.val).ctx = some c → f.rb = 0 → f.x = 0 →
    (f.rd = 0 → f.ra = 0 → (s.slot slot.val).sb = [] → s.level slot.val = 0 ∨ (s.level slot.val = 1 ∧ s.sbusy slot.val = false) →
      Completes (.yield slot f) s fun t =>
        (t.entry c).state = stCommit ∧ (t.slot slot.val).gate = false ∧ (t.slot slot.val).stopped = true ∧
        (t.slot slot.val).leaving = .commit ∧ (t.slot slot.val).ctx = some c ∧
        t.img slot.val iwPc = s.img slot.val iwPc + 4 ∧ t.img slot.val iwNpc = s.img slot.val iwPc + 8 ∧
        t.commitOf c = s.commitOf c ∧ t.mem = s.mem) ∧
    (s.level slot.val = 1 → s.sbusy slot.val = false → (s.entry c).classG = true →
      s.clear slot.val (s.places slot.val [f.rd, f.ra]) = true →
      16 * s.fget (Reg.SC_PRANGE_COUNT (s.slotPart slot.val)) ≤ bits (s.reg slot.val f.ra) 0 12 →
      Completes (.swapctx slot f) s fun t =>
        t.reg slot.val f.rd = (if f.rd = 0 then 0 else BitVec.ofNat 36 stsBadArg) ∧ Advanced s t slot.val ∧ t.mem = s.mem ∧
        (t.slot slot.val).gate = (s.slot slot.val).gate) ∧
    (∀ d : Nat, s.level slot.val = 1 → s.sbusy slot.val = false → (s.entry c).classG = true →
      s.clear slot.val (s.places slot.val [f.rd, f.ra]) = true →
      bits (s.reg slot.val f.ra) 0 12 < 16 * s.fget (Reg.SC_PRANGE_COUNT (s.slotPart slot.val)) →
      d = 16 * s.fget (Reg.SC_PRANGE_BASE (s.slotPart slot.val)) + bits (s.reg slot.val f.ra) 0 12 → d ≠ c →
      (s.entry d).classG = true → (s.entry d).state = stIdle ∨ (s.entry d).state = stParked →
      Completes (.swapctx slot f) s fun t =>
        (t.slot slot.val).leaving = .swap d ∧ (t.slot slot.val).gate = false ∧ (t.slot slot.val).stopped = true ∧
        t.reg slot.val f.rd = 0 ∧ Advanced s t slot.val ∧ t.mem = s.mem)

/-- Traps that are calls, and the return from one (R153, R154, R155, R215, R217, R220, R224). -/
def Obligations.CallsAndReturns : Prop :=
  ∀ (s : State) (slot : Fin 384), s.calm = true → s.ready slot.val = true → (s.slot slot.val).dslot = false →
    -- SYSCALL from U enters S
    (∀ f : IFields, f.rd = 0 → f.ra = 0 → s.level slot.val = 0 → (s.slot slot.val).sb = [] →
      Completes (.syscall slot f) s fun t =>
        t.level slot.val = 1 ∧ t.sbusy slot.val = true ∧ t.ie slot.val = false ∧ t.prog slot.val = 0 ∧
        t.img slot.val iwSpc = s.img slot.val iwPc + 4 ∧ t.img slot.val (iwSpc + 1) = s.img slot.val iwPc + 8 ∧
        t.img slot.val (iwSpc + 2) = s.status slot.val ∧ bits (t.img slot.val (iwSpc + 3)) 0 6 = 0o20 ∧
        t.img slot.val (iwSpc + 4) = BitVec.ofNat 36 f.imm.toNat ∧
        t.img slot.val iwPc = s.sVector slot.val 0o20 ∧ t.img slot.val iwNpc = s.sVector slot.val 0o20 + 4 ∧
        t.trapMode slot.val = true ∧ (∀ k, k < 8 → t.win slot.val 1 k = 0) ∧ t.mem = s.mem ∧ t.dram = s.dram) ∧
    -- FIRMWARE_CALL from S or E enters M
    (∀ f : IFields, s.level slot.val = 1 ∨ s.level slot.val = 2 → (s.slot slot.val).sb = [] →
      Completes (.firmwareCall slot f) s fun t =>
        t.level slot.val = 3 ∧ t.prog slot.val = 0 ∧
        t.saved slot.val 3 0 = s.img slot.val iwPc + 4 ∧ t.saved slot.val 3 1 = s.img slot.val iwPc + 8 ∧
        t.saved slot.val 3 2 = s.status slot.val ∧ bits (t.saved slot.val 3 3) 0 6 = 0o21 ∧
        bits (t.saved slot.val 3 3) 10 2 = s.level slot.val ∧ t.saved slot.val 3 4 = BitVec.ofNat 36 f.imm.toNat ∧
        t.img slot.val iwPc = s.rget Reg.RK_MVEC ∧ t.img slot.val iwNpc = s.rget Reg.RK_MVEC + 4 ∧
        t.win slot.val 3 0 = s.rget Reg.RK_MSP + BitVec.ofNat 36 (256 * slot.val) ∧
        t.win slot.val 3 1 = t.saved slot.val 3 3 ∧ t.win slot.val 3 2 = t.saved slot.val 3 4 ∧
        t.mem = s.mem ∧ t.dram = s.dram) ∧
    -- ERET, through the save set of the level it stands at
    (∀ (f : RFields) (l : Nat) (v : Word), f.rd = 0 → f.ra = 0 → f.rb = 0 → f.x = 0 → l = s.level slot.val → l ≠ 0 →
      v = s.savedWord slot.val l 2 → s.returnBad slot.val l v = false →
      Completes (.eret slot f) s fun t =>
        t.img slot.val iwPc = s.savedWord slot.val l 0 ∧ t.img slot.val iwNpc = s.savedWord slot.val l 1 ∧
        t.level slot.val = bits v 0 2 ∧ t.sbusy slot.val = bitAt v 7 ∧ t.ie slot.val = bitAt v 9 ∧ t.prog slot.val = bits v 11 13 ∧
        (l = 1 → bitAt (t.img slot.val iwWctl) 6 = false) ∧ t.mem = s.mem ∧ t.dram = s.dram) ∧
    -- TRAPDONE
    (∀ f : RFields, f.rd = 0 → f.ra = 0 → f.rb = 0 → f.x = 0 → s.level slot.val = 1 → s.sbusy slot.val = true →
      Completes (.trapdone slot f) s fun t =>
        t.sbusy slot.val = false ∧ bitAt (t.img slot.val iwWctl) 6 = false ∧ t.level slot.val = 1 ∧ Advanced s t slot.val ∧
        t = { s with core := t.core })

/-- Fences, TLBI, prediction control (R158 to R160, R259). -/
def Obligations.FencesAndPrediction : Prop :=
  ∀ (s : State) (slot : Fin 384) (f : RFields), s.calm = true → s.ready slot.val = true → f.rd = 0 → f.rb = 0 →
    (f.ra = 0 → f.x = 0 → (s.slot slot.val).sb = [] →
      (Completes (.fence slot f) s fun t =>
        (∀ r, t.reg slot.val r = s.reg slot.val r) ∧ Advanced s t slot.val ∧ Keeps s t slot.val .zero) ∧
      (Completes (.ifence slot f) s fun t =>
        (t.slot slot.val).fetch = [] ∧ (∀ r, t.reg slot.val r = s.reg slot.val r) ∧ Advanced s t slot.val ∧
        Keeps s t slot.val .zero) ∧
      (s.core.tlbis.all (fun t => decide (t.slot ≠ slot.val)) = true →
        Completes (.tsync slot f) s fun t =>
          (∀ r, t.reg slot.val r = s.reg slot.val r) ∧ Advanced s t slot.val ∧ Keeps s t slot.val .zero)) ∧
    (s.clear slot.val (s.places slot.val [f.ra]) = true → f.x.toNat < 3 → s.level slot.val ≠ 0 →
      Completes (.tlbi slot f) s fun t =>
        t.core.tlbis = s.core.tlbis ++ (s.coresOf (s.slotPart slot.val)).map (fun c =>
          { id := s.core.nextTlbi, core := c, slot := slot.val, form := f.x.toNat, arg := s.reg slot.val f.ra,
            part := s.slotPart slot.val, secure := s.secureCtx slot.val, arrived := false : Tlbi }) ∧
        t.core.tlb = s.core.tlb ∧ Advanced s t slot.val ∧ Keeps s t slot.val .zero) ∧
    (f.ra = 0 → f.x.toNat < 2 → s.level slot.val < 2 →
      Completes (.pbar slot f) s fun t =>
        t.pb slot.val = decide (f.x = 1) ∧ Advanced s t slot.val ∧ Keeps s t slot.val (.img iwStatus)) ∧
    (f.ra = 0 → f.x = 1 → s.level slot.val = 1 ∨ s.level slot.val = 3 →
      Completes (.pflush slot f) s fun t =>
        (∀ n, n < 48 → (Tab.get [] t.core.pred n).all (fun e => e.secure != s.secureCtx slot.val) = true) ∧
        Advanced s t slot.val ∧ Keeps s t slot.val .zero) ∧
    (∀ c : Nat, f.ra = 0 → f.x = 0 → s.level slot.val < 2 → (s.slot slot.val).ctx = some c →
      Completes (.pflush slot f) s fun t =>
        (∀ n, n < 48 → (Tab.get [] t.core.pred n) =
          (Tab.get [] s.core.pred n).filter fun e => !(e.secure == s.secureCtx slot.val && decide (e.ctx = c))) ∧
        Advanced s t slot.val ∧ Keeps s t slot.val .zero)

/-- RDCTL and WRCTL where the table of R161 allows them, and the trap where it does not (R161, R204). -/
def Obligations.ControlRegisterAccess : Prop :=
  ∀ (s : State) (slot : Fin 384) (f : RFields), s.calm = true → s.ready slot.val = true → f.rb = 0 →
    -- a read of PC, STATUS, WCTL, SLHEAD, the S save registers, TTB, ASEADDR, PERFCTL, RUNCYC, CTXID or TP
    (f.ra = 0 → s.clear slot.val (s.places slot.val [f.rd]) = true → f.x.toNat < 16 →
      ctlReadTrap (s.level slot.val) f.x.toNat (bitAt (s.img slot.val iwPerfctl) 8) = none →
      WritesReg (.rdctl slot f) s slot.val f.rd
        (if f.x = 1 then s.img slot.val iwPc + 4 else if f.x = 2 then s.status slot.val else s.img slot.val f.x.toNat)) ∧
    -- a read of the cycle counter's high word latches the low one
    (f.ra = 0 → s.clear slot.val (s.places slot.val [f.rd]) = true → f.x = 32 → s.level slot.val ≠ 0 →
      Completes (.rdctl slot f) s fun t =>
        t.reg slot.val f.rd = (if f.rd = 0 then 0 else (BitVec.ofNat 72 s.cyc).extractLsb' 36 36) ∧
        Tab.get 0 (t.slot slot.val).loLatch 0 = (BitVec.ofNat 72 s.cyc).extractLsb' 0 36 ∧ Advanced s t slot.val) ∧
    -- a write of SLHEAD or TP, at any level
    (f.rd = 0 → s.clear slot.val (s.places slot.val [f.ra]) = true → f.x = 4 ∨ f.x = 15 →
      Completes (.wrctl slot f) s fun t =>
        t.img slot.val f.x.toNat = s.reg slot.val f.ra ∧ Advanced s t slot.val ∧ Keeps s t slot.val (.img f.x.toNat)) ∧
    -- a write of a save register or ASEADDR, above U
    (f.rd = 0 → s.clear slot.val (s.places slot.val [f.ra]) = true → s.level slot.val ≠ 0 → f.x.toNat ∈ [5, 6, 7, 9, 11] →
      Completes (.wrctl slot f) s fun t =>
        t.img slot.val f.x.toNat = s.reg slot.val f.ra ∧ Advanced s t slot.val ∧ Keeps s t slot.val (.img f.x.toNat)) ∧
    -- a write that U may not make
    (f.rd = 0 → s.level slot.val = 0 → (s.slot slot.val).sb = [] → f.x = 10 ∨ f.x = 12 →
      Completes (.wrctl slot f) s fun t =>
        t.level slot.val = 1 ∧ bits (t.img slot.val (iwSpc + 3)) 0 6 = 2 ∧ t.img slot.val f.x.toNat = s.img slot.val f.x.toNat)

/-- The scalar accumulator instructions issue an operation that adds to the accumulator, or takes from it, the products that R171 names;
what it stores is `accNarrow` of the exact result. -/
def Obligations.MultiplyAccumulate : Prop :=
  ∀ (s : State) (slot : Fin 384) (acc1 : Bool) (f : RFields) (n : Nat) (a b : Word), s.calm = true → s.ready slot.val = true →
    f.rd = 0 → f.x = 0 → n = b2n acc1 →
    s.clear slot.val (s.places slot.val [f.ra, f.rb] ++ accPlaces n) = true → a = s.reg slot.val f.ra → b = s.reg slot.val f.rb →
    IssuesLong (.mac slot acc1 f) s slot.val 4 (s.accResult slot.val n ((s.acc slot.val n).toInt + a.toInt * b.toInt)) ∧
    IssuesLong (.msu slot acc1 f) s slot.val 4 (s.accResult slot.val n ((s.acc slot.val n).toInt - a.toInt * b.toInt)) ∧
    IssuesLong (.macl slot acc1 f) s slot.val 4
      (s.accResult slot.val n ((s.acc slot.val n).toInt + sint a.toNat 18 * sint b.toNat 18)) ∧
    IssuesLong (.macd slot acc1 f) s slot.val 4
      (s.accResult slot.val n ((s.acc slot.val n).toInt + sint (a.toNat / 2 ^ 18) 18 * sint (b.toNat / 2 ^ 18) 18 +
        sint a.toNat 18 * sint b.toNat 18)) ∧
    IssuesLong (.accset slot acc1 f) s slot.val 4
      { writes := [(.img (160 + 2 * n), a), (.img (161 + 2 * n), b)], stat := 0 }

/-- What an accumulator takes of an exact result (R166): the result itself within 72 bits; beyond them the nearest end where SATa is 1,
else the result modulo 2^72; OVa is set in either case. The accumulators as they are read, and the registers of the signal extensions
(R164, R171, R180). -/
def Obligations.AccumulatorResults : Prop :=
  (∀ (s : State) (i n : Nat) (v : Int), n < 2 →
     (s.accResult i n v).writes =
       [(.img (160 + 2 * n), (accNarrow (bitAt (s.img i 164) n) v).extractLsb' 36 36),
        (.img (161 + 2 * n), (accNarrow (bitAt (s.img i 164) n) v).extractLsb' 0 36)] ∧
     (-(2 ^ 71) ≤ v → v < 2 ^ 71 → (accNarrow (bitAt (s.img i 164) n) v).toInt = v ∧ (s.accResult i n v).stat = 0) ∧
     (v < -(2 ^ 71) ∨ 2 ^ 71 ≤ v →
       (s.accResult i n v).stat = BitVec.ofNat 36 (2 ^ n) ∧
       (bitAt (s.img i 164) n = true → (accNarrow true v).toInt = if v < 0 then -(2 ^ 71) else 2 ^ 71 - 1) ∧
       (bitAt (s.img i 164) n = false → accNarrow false v = BitVec.ofInt 72 v))) ∧
  (∀ (s : State) (slot : Fin 384) (acc1 : Bool) (f : RFields) (n : Nat), s.calm = true → s.ready slot.val = true → n = b2n acc1 →
     (f.ra = 0 → f.rb = 0 → s.clear slot.val (rsatPlace :: s.places slot.val [f.rd] ++ accPlaces n) = true →
       (∃ r : Int, 2 * r * 2 ^ f.x.toNat ≤ 2 * (s.acc slot.val n).toInt + 2 ^ f.x.toNat ∧
         2 * (s.acc slot.val n).toInt + 2 ^ f.x.toNat < 2 * (r + 1) * 2 ^ f.x.toNat ∧
         IssuesLong (.accrnd slot acc1 f) s slot.val 4
           { writes := [(s.place slot.val f.rd,
               BitVec.ofInt 36 (if r < -(2 ^ 35) then -(2 ^ 35) else if 2 ^ 35 ≤ r then 2 ^ 35 - 1 else r))],
             stat := if r < -(2 ^ 35) ∨ 2 ^ 35 ≤ r then 4 else 0, rsat := true }) ∧
       (f.x = 0 →
         IssuesLong (.acchi slot acc1 f) s slot.val 4 
           { writes := [(s.place slot.val f.rd, s.img slot.val (160 + 2 * n))], stat := 0, rsat := true } ∧
         IssuesLong (.acclo slot acc1 f) s slot.val 4
           { writes := [(s.place slot.val f.rd, s.img slot.val (161 + 2 * n))], stat := 0, rsat := true })) ∧
     (acc1 = false → f.rb = 0 → dueAll (s.slot slot.val).long ≤ s.cyc → f.x.toNat < 2 →
       (f.ra = 0 →
         WritesReg (.sprd slot acc1 f) s slot.val f.rd (if f.x = 0 then s.img slot.val 164 else s.img slot.val 165)) ∧
       (f.rd = 0 →
         Completes (.spwr slot acc1 f) s fun t =>
           t.img slot.val (if f.x = 0 then 164 else 165) =
             BitVec.ofNat 36 ((s.reg slot.val f.ra).toNat % (if f.x = 0 then 4 else 8)) ∧
           Advanced s t slot.val ∧ Keeps s t slot.val (.img (if f.x = 0 then 164 else 165)))))


/-- The address generators: a load or store through a descriptor goes to its address and, with U, advances it; AGADR gives the address,
AGADV advances, AGRD and AGWR read and write a descriptor (R168 to R170). -/
def Obligations.AddressGenerators : Prop :=
  ∀ (s : State) (slot : Fin 384) (f : RFields) (k : Nat), s.calm = true → s.ready slot.val = true → f.rb = 0 → f.x.toNat < 8 →
    k = f.x.toNat % 4 →
    -- AGLD and AGST where the TLB holds the entry and the L1D the word, or the cluster the line
    (∀ (e : TlbEntry) (a v : Word), s.clear slot.val (s.places slot.val [f.rd, f.ra]) = true →
      s.agaddr slot.val k (s.reg slot.val f.ra).toInt = .ok a →
      (s.reads slot.val 4 false a e v = true →
        Completes (.agld slot f) s fun w =>
          w.reg slot.val f.rd = (if f.rd = 0 then 0 else v) ∧ (∀ r, r ≠ f.rd → w.reg slot.val r = s.reg slot.val r) ∧
          Advanced s w slot.val ∧ ReadsOnly s w ∧ (f.x.toNat < 4 → w.agCtl slot.val k = s.agCtl slot.val k) ∧
          (∀ l, 4 ≤ f.x.toNat → agModulus k (s.agCtl slot.val k) = .ok l →
            agIdx (w.agCtl slot.val k) = ((agIdx (s.agCtl slot.val k) + agStep (s.agCtl slot.val k)) % (l : Int)).toNat % 4096)) ∧
      (s.mayStore slot.val 4 false a e = true → (s.slot slot.val).sb.length < 4 →
        Completes (.agst slot f) s fun w =>
          (∀ b, w.buffered slot.val b =
            if e.pa a ≤ b ∧ b < e.pa a + 4 then some (nonetAt (s.reg slot.val f.rd) (b - e.pa a)) else s.buffered slot.val b) ∧
          (∀ r, w.reg slot.val r = s.reg slot.val r) ∧ Advanced s w slot.val ∧ ReadsOnly s w ∧
          (f.x.toNat < 4 → w.agCtl slot.val k = s.agCtl slot.val k) ∧
          (∀ l, 4 ≤ f.x.toNat → agModulus k (s.agCtl slot.val k) = .ok l →
            agIdx (w.agCtl slot.val k) = ((agIdx (s.agCtl slot.val k) + agStep (s.agCtl slot.val k)) % (l : Int)).toNat % 4096))) ∧
    -- and in general, by the access itself
    (∀ (u t q : State) (a v : Word) (pa attr : Nat), s.clear slot.val (s.places slot.val [f.rd, f.ra]) = true →
      u = s.begun slot.val true → u.agaddr slot.val k (u.reg slot.val f.ra).toInt = .ok a → q.settled = true →
      (u.resolve slot.val (u.who slot.val) .load 4 a = (t, .ok (pa, attr)) → isOutbound pa = false →
        t.loadData slot.val pa attr 4 a = (q, .ok v) →
        Completes (.agld slot f) s fun w =>
          w.getPlace slot.val (u.place slot.val f.rd) = (if f.rd = 0 then 0 else v) ∧ Advanced q w slot.val ∧ w.mem = q.mem) ∧
      (u.store slot.val 4 false a (u.reg slot.val f.rd) = (q, .ok) →
        Completes (.agst slot f) s fun w =>
          (w.slot slot.val).sb = (q.slot slot.val).sb ∧ Advanced q w slot.val ∧ w.mem = q.mem)) ∧
    (∀ a, f.x.toNat < 4 → s.clear slot.val (s.places slot.val [f.rd, f.ra]) = true →
      s.agaddr slot.val k (s.reg slot.val f.ra).toInt = .ok a → WritesReg (.agadr slot f) s slot.val f.rd a) ∧
    (∀ l, f.x.toNat < 4 → f.rd = 0 → f.ra = 0 → agModulus k (s.agCtl slot.val k) = .ok l →
      Completes (.agadv slot f) s fun t =>
        agIdx (t.agCtl slot.val k) = ((agIdx (s.agCtl slot.val k) + agStep (s.agCtl slot.val k)) % (l : Int)).toNat % 4096 ∧
        agStep (t.agCtl slot.val k) = agStep (s.agCtl slot.val k) ∧ agMode (t.agCtl slot.val k) = agMode (s.agCtl slot.val k) ∧
        Advanced s t slot.val ∧ Keeps s t slot.val (.img (153 + 2 * k))) ∧
    (f.ra = 0 → s.clear slot.val (s.places slot.val [f.rd]) = true →
      WritesReg (.agrd slot f) s slot.val f.rd
        (if f.x.toNat < 4 then s.img slot.val (152 + 2 * k) else s.img slot.val (153 + 2 * k))) ∧
    (f.rd = 0 → s.clear slot.val (s.places slot.val [f.ra]) = true → f.x.toNat < 4 →
      Completes (.agwr slot f) s fun t =>
        t.img slot.val (152 + 2 * k) = s.reg slot.val f.ra ∧ Advanced s t slot.val ∧ Keeps s t slot.val (.img (152 + 2 * k)))

/-- The phasor instructions: CIS, ROT and SDFT by the cosine and sine of R165, MAG the rounded root of the sum of the squares, ANG the
angle of the point, exact on the axes (R165, R173). -/
def Obligations.PhasorResults : Prop :=
  ∀ (s : State) (slot : Fin 384) (f : RFields) (a b : Word), s.calm = true → s.ready slot.val = true → f.x = 0 →
    s.clear slot.val (s.places slot.val [f.rd, f.ra, f.rb] ++ accPlaces 0 ++ accPlaces 1) = true →
    a = s.reg slot.val f.ra → b = s.reg slot.val f.rb →
    (f.rb = 0 →
      IssuesLong (.cis slot f) s slot.val 8
        { writes := [(s.place slot.val f.rd,
            BitVec.ofInt 18 (cosQ17 (a.toNat % 2 ^ 24)) ++ BitVec.ofInt 18 (sinQ17 (a.toNat % 2 ^ 24)))], stat := 0 }) ∧
    (∀ p, p = (s.reg slot.val f.rd).toNat % 2 ^ 24 →
      IssuesLong (.rot slot f) s slot.val 12
        (s.accPair slot.val (a.toInt * cosQ17 p - b.toInt * sinQ17 p) (a.toInt * sinQ17 p + b.toInt * cosQ17 p))) ∧
    (∀ p, p = b.toNat % 2 ^ 24 → f.rd = 0 →
      IssuesLong (.sdft slot f) s slot.val 12
        (s.accPair slot.val ((s.acc slot.val 0).toInt + a.toInt * cosQ17 p) ((s.acc slot.val 1).toInt - a.toInt * sinQ17 p))) ∧
    (∃ n : Nat, (n = 0 ∨ ((2 * n - 1 : Nat) : Int) ^ 2 ≤ 4 * (a.toInt ^ 2 + b.toInt ^ 2)) ∧
      4 * (a.toInt ^ 2 + b.toInt ^ 2) < ((2 * n + 1 : Nat) : Int) ^ 2 ∧
      IssuesLong (.mag slot f) s slot.val 20 { writes := [(s.place slot.val f.rd, BitVec.ofNat 36 n)], stat := 0 }) ∧
    (a = 0 ∨ b = 0 →
      IssuesLong (.ang slot f) s slot.val 24
        { writes := [(s.place slot.val f.rd,
            if b = 0 then (if a.toInt < 0 then 2 ^ 23 else 0) else if 0 < b.toInt then 2 ^ 22 else 3 * 2 ^ 22)], stat := 0 })

/-- MACR and DFTR: where each of their accesses succeeds and no event comes between two of their steps, PROG is 0 again, and PC has moved
on; a run of no terms or bins, or one whose terms or bins PROG has passed, from the state and the operands alone. CUBI, where its four reads
succeed, each in a rotation of its own, issues the operation that writes the rounded and clamped sum of R174 (R172, R174 to R178). -/
def Obligations.SignalRunsComplete : Prop :=
  ∀ (s : State) (slot : Fin 384) (f : RFields), s.calm = true → s.ready slot.val = true →
    (∀ acc1 : Bool, (s.slot slot.val).dslot = false → s.level slot.val < 2 → f.ra = 0 → f.rb = 0 → f.x.toNat < 16 →
      s.clear slot.val (s.places slot.val [f.rd] ++ accPlaces (b2n acc1)) = true →
      (∀ q : State, q.settled = true →
        State.macrTerms slot.val (b2n acc1) (f.x.toNat % 4) (f.x.toNat / 4)
          (bits (s.reg slot.val f.rd) 0 12 - s.prog slot.val) (s.prog slot.val) (s.begun slot.val) = .next q →
        Completes (.macr slot acc1 f) s fun t =>
          t.prog slot.val = 0 ∧ t.acc slot.val (b2n acc1) = q.acc slot.val (b2n acc1) ∧ Advanced q t slot.val ∧ t.mem = q.mem) ∧
      (bits (s.reg slot.val f.rd) 0 12 ≤ s.prog slot.val →
        Completes (.macr slot acc1 f) s fun t =>
          t.prog slot.val = 0 ∧ Advanced s t slot.val ∧ Keeps s t slot.val (.img iwStatus))) ∧
    ((s.slot slot.val).dslot = false → s.level slot.val < 2 → f.x = 0 →
      s.clear slot.val (rsatPlace :: s.places slot.val [f.rd, f.ra, f.rb]) = true → (s.reg slot.val f.ra).toNat % 32 = 0 →
      (∀ (v q : State) (h : Word), (s.begun slot.val true).load slot.val 4 false (s.reg slot.val f.ra) = (v, .ok h) →
        State.dftrBins slot.val (s.reg slot.val f.rd) (s.reg slot.val f.ra) (s.reg slot.val f.rb)
          (bits h 0 9 - s.prog slot.val) (s.prog slot.val) v = .next q → q.settled = true →
        Completes (.dftr slot f) s fun t => t.prog slot.val = 0 ∧ Advanced q t slot.val ∧ t.mem = q.mem ∧ t.dram = q.dram) ∧
      (∀ (e : TlbEntry) (h : Word), s.reads slot.val 4 false (s.reg slot.val f.ra) e h = true → bits h 0 9 ≤ s.prog slot.val →
        Completes (.dftr slot f) s fun t =>
          t.prog slot.val = 0 ∧ Advanced s t slot.val ∧ ReadsOnly s t ∧ ∀ r, t.reg slot.val r = s.reg slot.val r)) ∧
    (∀ (a x : Nat → Word) (t : Nat → State), f.rb = 0 → f.x.toNat < 4 →
      s.clear slot.val (rsatPlace :: s.places slot.val [f.rd, f.ra]) = true → t 0 = s.begun slot.val true →
      -- in step n the word at index n − 1 is read; eight cycles or more later comes the next step, unless the budget is reached
      (∀ n, n < 4 → ∃ u, (t n).agaddr slot.val f.x.toNat ((n : Int) - 1) = .ok (a n) ∧
        (t n).load slot.val 4 false (a n) = (u, .ok (x n)) ∧ (u.nextStep slot.val).overBudget slot.val = false ∧
        t (n + 1) = if n = 3 then u else (u.nextStep slot.val).startStep slot.val) →
      (t 4).settled = true →
      Completes (.cubi slot f) s fun w =>
        (w.slot slot.val).long = ((t 4).slot slot.val).long ++
          [{ writes := [(s.place slot.val f.rd, BitVec.ofInt 36 (sat36
               (rnd (cubicSum (bits (s.reg slot.val f.ra) 0 18) (x 0).toInt (x 1).toInt (x 2).toInt (x 3).toInt))))],
             stat := rsatStat (rnd (cubicSum (bits (s.reg slot.val f.ra) 0 18) (x 0).toInt (x 1).toInt (x 2).toInt (x 3).toInt)),
             rsat := true, due := (t 4).cyc + 12 }] ∧
        Advanced (t 4) w slot.val ∧ w.mem = (t 4).mem)
/-- What drains, what returns to a slot (R182, R184, R187, R189 to R192, R195), and the wrap of a counter (R206). An entry drains, and a
prefetch is made, in a cycle of the slot whose port nothing has used. Where the L1 holds what they need, the next state is that of the state
and the operands alone. -/
def Obligations.ThreadEvents : Prop :=
  ∀ (s : State) (slot : Fin 384) (x : Slot), s.calm = true → x = s.slot slot.val →
    -- STORE_DRAIN: the words of the oldest entry reach the L1D of the core, nonet by nonet as enabled; else, as its drain leaves memory
    -- or the device
    (∀ (e : StoreEntry) (rest : List StoreEntry), x.sb = e :: rest → s.cyc % 8 = slot.val % 8 → x.portAt ≤ s.cyc →
      s.nextFetch slot.val = none →
      (∀ old : Nat → Word, isDevice (16 * e.group) = false → s.pageBars (some e.req.ctx.val) (16 * e.group) = false → e.attr < 2 →
        s.owned slot.val (16 * e.group) = true → (∀ k, k < 4 → s.near slot.val false (16 * e.group + 4 * k) (old k) = true) →
        Completes (.storeDrain slot) s fun w =>
          (w.slot slot.val).sb = rest ∧ w.mem.dirs = s.mem.dirs ∧ w.dram = s.dram ∧
          ∀ k, k < 4 → w.near slot.val false (16 * e.group + 4 * k)
            (mergeNonets (e.en.extractLsb' (4 * k) 4) (e.data.extractLsb' (36 * k) 36) (old k)) = true) ∧
      (∀ t : State, s.drainOne slot.val = (t, true) → (s.follow (t.usePort slot.val)).settled = true →
        exec (.storeDrain slot) s = .next (s.follow (t.usePort slot.val)))) ∧
    -- FETCH_RETURN: the group of the word at PC
    (∀ (e : TlbEntry) (ws : Nat → Word) (pc : Word), x.ctx.isSome = true → x.sb = [] → pc = s.img slot.val iwPc → x.wordAt pc = none →
      s.allows slot.val false .fetch 4 pc e = true →
      (∀ k, k < 4 → s.near slot.val true (e.pa pc / 16 * 16 + 4 * k) (ws k) = true) →
      Completes (.fetchReturn slot pc) s fun w =>
        (w.slot slot.val).fetch.getLast? =
          some { group := fetchGroup pc, words := [.word (ws 0), .word (ws 1), .word (ws 2), .word (ws 3)] } ∧
        SameMemory s w ∧ w.core.image = s.core.image) ∧
    -- PREFETCH: the next group of the predicted path, no other
    (∀ (e : TlbEntry) (ws : Nat → Word) (va a : Word), s.cyc % 8 = slot.val % 8 → x.portAt ≤ s.cyc → x.stopped = false →
      s.nextFetch slot.val = some a → fetchGroup a = fetchGroup va → s.allows slot.val false .fetch 4 a e = true →
      (∀ y ∈ x.sb, y.group ≠ e.pa a / 16) →
      (∀ k, k < 4 → s.near slot.val true (e.pa a / 16 * 16 + 4 * k) (ws k) = true) →
      Completes (.prefetch slot va) s fun w =>
        (w.slot slot.val).fetch =
          x.fetch.filter (fun y => decide (y.group ≠ fetchGroup va)) ++
            [{ group := fetchGroup va, words := [.word (ws 0), .word (ws 1), .word (ws 2), .word (ws 3)] }] ∧
        (w.slot slot.val).sb = x.sb ∧ SameMemory s w ∧ w.core.image = s.core.image) ∧
    (∀ va a : Word, s.cyc % 8 = slot.val % 8 → x.portAt ≤ s.cyc → s.nextFetch slot.val = some a → fetchGroup a ≠ fetchGroup va →
      exec (.prefetch slot va) s = .next s) ∧
    -- LOAD_RETURN of data that have come: the destination takes them, extended, and the instruction is complete
    (∀ l : LoadWait, x.outLoad = some l → l.out = false → l.place ≠ .dbData → l.place ≠ .step → l.size ∈ [1, 2, 4] → l.adv = none →
      (∀ w, l.place = .img w → w ≠ iwPc ∧ w ≠ iwNpc) → x.ctx.isSome = true →
      (∀ v : Word, s.near slot.val false (l.pa / 4 * 4) v = true → s.unbuffered slot.val l.pa l.size = true →
        Completes (.loadReturn slot) s fun w =>
          w.getPlace slot.val l.place = (if l.place = .zero then 0 else extendPart l.signed l.size (partWord v (l.pa % 4) l.size)) ∧
          (w.slot slot.val).outLoad = none ∧ Advanced s w slot.val ∧ ReadsOnly s w) ∧
      (∀ (t : State) (v : Word), s.loadData slot.val l.pa 0 l.size l.va = (t, .ok v) → t.settled = true →
        Completes (.loadReturn slot) s fun w =>
          w.getPlace slot.val l.place = (if l.place = .zero then 0 else extendPart l.signed l.size v) ∧
          (w.slot slot.val).outLoad = none ∧ Advanced t w slot.val ∧ w.mem = t.mem ∧ w.dram = t.dram)) ∧
    -- COUNTER_WRAP
    (∀ j : Fin 8, s.pmc (slot.val / 8) j.val = BitVec.allOnes 72 → bitAt (s.pmr (slot.val / 8) 8) j.val = false →
      Completes (.counterWrap slot j) s fun t =>
        t.pmc (slot.val / 8) j.val = 0 ∧ bitAt (t.pmr (slot.val / 8) 8) j.val = true ∧ t.core.image = s.core.image)

/-- The traps that are taken at a boundary, of a context at U whose stores have drained (R215, R217, R227, R230, R232, R233), in an issue
cycle that nothing has used. An event that waits at a boundary is taken in place of the next instruction, which is not carried out. -/
def Obligations.BoundaryTraps : Prop :=
  ∀ (s : State) (slot : Fin 384) (x : Slot) (c : Nat), s.calm = true → x = s.slot slot.val → s.mayIssue slot.val = true →
    s.level slot.val = 0 → x.sb = [] → x.ctx = some c → s.cyc % 8 = slot.val % 8 → x.next ≤ s.cyc → x.judged ≤ s.cyc →
    s.overBudget slot.val = false → s.opsInRegisters = true →
     (∀ a : Ase, x.ase = some a →
       Completes (.asyncStoreErrorTrap slot) s fun t =>
         t.level slot.val = 1 ∧ bits (t.img slot.val (iwSpc + 3)) 0 6 = 0o23 ∧
         bits (t.img slot.val (iwSpc + 3)) 6 4 = a.sub % 16 ∧ t.img slot.val (iwSpc + 4) = s.img slot.val iwAseaddr ∧
         t.img slot.val iwSpc = s.img slot.val iwPc ∧ (t.slot slot.val).ase = none) ∧
     (∀ (l p : Nat), x.ase = none → s.parks slot.val = false → s.lineFor slot.val = some l →
       s.partOf c = some p → p < 16 → l < 64 →
       Completes (.interruptDelivery slot) s (fun t =>
         t.level slot.val = 1 ∧ bits (t.img slot.val (iwSpc + 3)) 0 6 = 0o24 ∧
         t.img slot.val (iwSpc + 4) = BitVec.ofNat 36 l ∧ t.img slot.val iwSpc = s.img slot.val iwPc) ∧
       (s.deliverLine slot.val l).linePending p l = false) ∧
     (∀ j : Nat, x.ase = none → s.parks slot.val = false → s.lineFor slot.val = none →
       s.counterFor slot.val = some j →
       Completes (.counterOverflowTrap slot) s fun t =>
         t.level slot.val = 1 ∧ bits (t.img slot.val (iwSpc + 3)) 0 6 = 0o25 ∧
         t.img slot.val (iwSpc + 4) = BitVec.ofNat 36 j ∧ t.img slot.val iwSpc = s.img slot.val iwPc) ∧
     (∀ (f : RFields) (l : Nat), x.retire = none → x.hostData = [] → s.tap.stepSlot ≠ some slot.val →
       x.hasWord (s.img slot.val iwPc) = true → x.long = [] → x.ase = none → s.parks slot.val = false → s.lineFor slot.val = some l →
       Completes (.add slot f) s fun t =>
         t.level slot.val = 1 ∧ bits (t.img slot.val (iwSpc + 3)) 0 6 = 0o24 ∧ t.img slot.val iwSpc = s.img slot.val iwPc ∧
         ∀ w, 16 ≤ w → w < 166 → t.img slot.val w = s.img slot.val w)
/-- TLBs, pins and windows (R245, R253 to R256, R259, R260, R262, R263, R265). A walk whose table words stand in the cluster's L2 ends at
once. -/
def Obligations.MemoryManagement : Prop :=
  ∀ s : State, s.calm = true →
    -- TABLE_WALK installs what it finds, the newest first; a walk that traps installs nothing
    (∀ (slot : Fin 384) (va : Word) (kind : Fin 3), (s.slot slot.val).ctx.isSome = true →
      (s.tlb (slot.val / 8)).all (fun x => !x.matches (s.who slot.val) va || x.ue) = true →
      s.pinWaits (slot.val / 8) (s.who slot.val) va = false →
      (∀ e : TlbEntry, s.l2Walk (slot.val / 32) (s.who slot.val) va = some e → (s.tlb (slot.val / 8)).length < 512 →
        Completes (.tableWalk slot va kind) s fun w =>
          (∃ n, w.tlb (slot.val / 8) = { e with used := n } :: s.tlb (slot.val / 8)) ∧
          w.mem.dirs = s.mem.dirs ∧ w.mem.l1 = s.mem.l1 ∧ w.dram = s.dram) ∧
      (∀ (t : State) (e : TlbEntry), kind = 1 → s.walk (slot.val / 32) (s.who slot.val) .load va = (t, .ok e) → t.settled = true →
        Completes (.tableWalk slot va kind) s fun w =>
          (w.tlb (slot.val / 8)).head?.map (fun x => { x with used := e.used }) = some e ∧ w.dram = t.dram) ∧
      (bitAt (s.who slot.val).root 35 = false → exec (.tableWalk slot va kind) s = .next s)) ∧
    -- TLBI_ARRIVAL removes what the TLBI hits, where no pin is among it or waits; stores translated by it hold the acknowledgement
    (∀ (core : Fin 48) (x : Tlbi), s.core.tlbis.find? (fun y => decide (y.core = core.val) && !y.arrived) = some x →
      (∀ q ∈ s.pins core.val, q.walk = .none ∧ ((s.tlb core.val).filter x.hits).any q.owns = false) →
      Completes (.tlbiArrival core) s fun t =>
        t.tlb core.val = (s.tlb core.val).filter (fun e => !x.hits e) ∧
        t.core.tlbis = s.core.tlbis.map (fun y => if y = x then { y with arrived := true } else y) ∧ t.mem = s.mem ∧
        (∀ i, i / 8 = core.val → (t.slot i).sb = (s.slot i).sb.map
          (fun e => if e.from_ ((s.tlb core.val).filter x.hits) then { e with waits := e.waits ++ [x.id] } else e)) ∧
        t.pins core.val = s.pins core.val) ∧
    -- TLBI_ACK waits for those stores and for the pins that are walked again
    (∀ (core : Fin 48) (x : Tlbi), s.core.tlbis.find? (fun y => decide (y.core = core.val) && y.arrived) = some x →
      exec (.tlbiAck core) s = .next (if s.heldBy core.val x.id then s
        else { s with core := { s.core with tlbis := s.core.tlbis.erase x } })) ∧
    -- PIN, UNPIN and UNPIN ALL
    (∀ core : Fin 48, s.fbit (Reg.TL_PRES_DONE core.val) = true → s.isChecker core.val = false →
      (s.pinBarred core.val = false →
        (∀ (e : TlbEntry) (root : Nat), s.prootV core.val = true → s.pinnedAt core.val = false →
          (s.pins core.val).length < 64 → (s.tlb core.val).length < 512 → (∀ q ∈ s.pins core.val, q.walk = .none) →
          root = bits (s.rget (Reg.TL_PROOT core.val)) 0 32 →
          s.l2Walk (core.val / 4) (s.pinWho core.val root) (s.rget (Reg.TL_PVA core.val)) = some e →
          Completes (.pin core) s fun w =>
            (∃ n, w.tlb core.val = { e with pinned := true, used := n } :: s.tlb core.val) ∧
            w.pins core.val = s.pins core.val ++
              [{ va := s.rget (Reg.TL_PVA core.val), root := root, z := e.z, walk := .none, waits := [] }] ∧
            w.fget (Reg.TL_PRES_STATUS core.val) = 0 ∧ w.fbit (Reg.TL_PRES_DONE core.val) = true) ∧
        (s.prootV core.val = true → s.pinnedAt core.val = false → 64 ≤ (s.pins core.val).length →
          Completes (.pin core) s fun w =>
            w.tlb core.val = s.tlb core.val ∧ w.pins core.val = s.pins core.val ∧ w.fget (Reg.TL_PRES_STATUS core.val) = 5) ∧
        (s.prootV core.val = true → s.pinnedAt core.val = true →
          Completes (.unpin core) s fun w =>
            w.pins core.val = (s.pins core.val).filter (fun q => !q.covers (s.proot core.val) (s.rget (Reg.TL_PVA core.val))) ∧
            w.tlb core.val = (s.tlb core.val).map (fun x => x.unpin (s.proot core.val) (s.rget (Reg.TL_PVA core.val))) ∧
            w.fget (Reg.TL_PRES_STATUS core.val) = 0) ∧
        (Completes (.unpinAll core) s fun w =>
          w.pins core.val = [] ∧ w.tlb core.val = (s.tlb core.val).map (fun x => { x with pinned := false }) ∧
          w.fget (Reg.TL_PRES_STATUS core.val) = 0 ∧ w.fget (Reg.TL_PUSED_COUNT (s.tlbCore core.val)) = 0)) ∧
      -- without a root PIN and UNPIN are BAD_ARG
      (s.prootV core.val = false → ∀ c ∈ [Instr.pin core, .unpin core],
        Completes c s fun w => w.tlb core.val = s.tlb core.val ∧ w.pins core.val = s.pins core.val ∧
          w.fget (Reg.TL_PRES_STATUS core.val) = stsBadArg)) ∧
    -- the checker of a lockstep pair takes no pin command
    (∀ core : Fin 48, s.fbit (Reg.TL_PRES_DONE core.val) = true → s.isChecker core.val = true →
      ∀ c ∈ [Instr.pin core, .unpin core, .unpinAll core],
        Completes c s fun w => w.tlb core.val = s.tlb core.val ∧ w.pins core.val = s.pins core.val ∧
          w.fget (Reg.TL_PRES_STATUS core.val) = stsConflict) ∧
    -- TL_WB_STORE: a window in force keeps its base
    (∀ (req : Requester) (p : Fin 16) (k : Fin 32) (v : Word), s.storeGuard req.level (Reg.TL_WB p.val k.val) = none →
      (s.fbit (Reg.TL_WL_V p.val k.val) = false →
        exec (.tlWbStore req p k v) s =
          .next (s.rset (Reg.TL_WB p.val k.val) (s.storedWord req.level (Reg.TL_WB p.val k.val) v 0))) ∧
      (s.fbit (Reg.TL_WL_V p.val k.val) = true →
        exec (.tlWbStore req p k v) s = .next (s.flag Reg.TL_STAT_WREF Reg.TL_STAT_WREF_MORE))) ∧
    -- TL_WL_STORE: a window not in force before, and one that is narrowed or taken out of force
    (∀ (req : Requester) (p : Fin 16) (k : Fin 32) (v old : Word), old = s.rget (Reg.TL_WL p.val k.val) →
      s.storeGuard req.level (Reg.TL_WL p.val k.val) = none →
      (bitAt old 32 = false →
        exec (.tlWlStore req p k v) s =
          .next (s.rset (Reg.TL_WL p.val k.val) (s.storedWord req.level (Reg.TL_WL p.val k.val) v 0))) ∧
      (bitAt old 32 = true → bitAt v 32 = false ∨ bits v 0 32 < bits old 0 32 →
        Completes (.tlWlStore req p k v) s fun t =>
          t.fbit Reg.TL_STAT_WPEND = true ∧ t.fbit (Reg.TL_WL_V p.val k.val) = bitAt v 32 ∧
          ∀ i, i ∈ s.core.slots.map (·.1) → (t.slot i).sb = (s.slot i).sb.map
            (fun e => if e.under p.val (s.rget (Reg.TL_WB p.val k.val)) old then { e with wpend := true } else e))) ∧
    -- WPEND_CLEAR, once no such store is left
    (Completes .wpendClear s fun t =>
      t.fbit Reg.TL_STAT_WPEND = (s.fbit Reg.TL_STAT_WPEND && s.core.slots.any fun (_, x) => x.sb.any (·.wpend)))
/-- W1C flags and their MORE bits, of every register: what a store and hardware leave of bit `i` of a flag that has one, in one cycle, and
what hardware alone leaves (R10 to R12). -/
def Obligations.FlagRules : Prop :=
  (∀ (s : State) (level : Level) (a : PWord) (v hw : Word) (r : RegArr) (is : List Nat) (f : FieldSpec) (i : Nat) (w : Word),
     regAt a = some (r, is) → f ∈ r.fields → f.acc = .w1c → f.more < 36 → i < f.width → w = s.storedWord level a v hw →
     (bitAt hw (f.lo + i) = true → bitAt w (f.lo + i) = true) ∧
     (bitAt hw (f.lo + i) = true → bitAt (s.rget a) (f.lo + i) = true → bitAt w (f.more + i) = true) ∧
     (bitAt hw (f.lo + i) = false → bitAt v (f.lo + i) = false → bitAt w (f.lo + i) = bitAt (s.rget a) (f.lo + i)) ∧
     (bitAt hw (f.lo + i) = false → bitAt v (f.lo + i) = true → bitAt w (f.lo + i) = false) ∧
     (bitAt hw (f.lo + i) = false → bitAt hw (f.more + i) = false → bitAt v (f.more + i) = false →
       bitAt w (f.more + i) = bitAt (s.rget a) (f.more + i)) ∧
     (bitAt hw (f.more + i) = true → bitAt w (f.more + i) = true)) ∧
  (∀ (s : State) (f more : Field), f.width = 1 → more.width = 1 → f.addr = more.addr → f.lo ≠ more.lo → f.lo < 36 → more.lo < 36 →
     s.flagged (s.flag f more) f more)

/-- REGISTER_WRITE and RC_READ of a register without effects of its own (R4, R6 to R9, R227, R574). -/
def Obligations.RegisterAccess : Prop :=
  ∀ (s : State) (req : Requester) (a : PWord) (v hw w : Word) (r : RegArr) (is : List Nat), s.calm = true → plainReg a = true →
    regAt a = some (r, is) → w = s.storedWord req.level a v hw →
    -- a store that nothing guards: RW fields take the value, those that software does not write stay
    (s.storeGuard req.level a = none →
      exec (.registerWrite req a v hw) s = .next (s.rset a w) ∧
      (∀ f ∈ r.fields, f.acc = .rw → bits w f.lo f.width = bits v f.lo f.width) ∧
      (∀ f ∈ r.fields, f.acc ≠ .rw → f.acc ≠ .w1c → bits w f.lo f.width = bits (s.rget a) f.lo f.width)) ∧
    -- one that meets a lock (2) or a field held by M (3)
    (∀ (code i : Nat), s.storeGuard req.level a = some code → req.left = false → s.slotOf req.ctx.val = some i →
      (s.slot i).ase = none →
      Completes (.registerWrite req a v hw) s fun t =>
        t.rget a = w ∧
        (∀ f ∈ r.fields, f.acc = .rw → f.guard.isLk is = true ∨ f.guard.isSh is = true →
          bits w f.lo f.width = bits (s.rget a) f.lo f.width) ∧
        (∀ f ∈ r.fields, f.acc = .rw → f.guard = .none → bits w f.lo f.width = bits v f.lo f.width) ∧
        (t.slot i).ase = some { sub := code, multi := false } ∧ t.img i iwAseaddr = addrWord a ∧
        (s.mor.powerFail = false → s.mor.queue.length < 253 →
          t.mor.queue = s.mor.queue ++ recordSlots false
            (s.recordHead tySecure 0 req.part.val (if code = 3 then 2 else 1) req.ctx.val (addrWord a)) [])) ∧
    -- a read: write-only fields as 0, and an RC field holds afterwards what hardware sets in the same cycle
    (req.level ≠ .u → s.pageWord a = a →
      Completes (.rcRead req a hw) s fun t =>
        t = { s with regs := t.regs, rdata := t.rdata, rerr := false } ∧ (∀ b, b ≠ a → t.rget b = s.rget b) ∧
        (∀ f ∈ r.fields, bits t.rdata f.lo f.width = if f.acc = .wo then 0 else bits (s.rget a) f.lo f.width) ∧
        (∀ f ∈ r.fields, bits (t.rget a) f.lo f.width = bits (if f.acc = .rc then hw else s.rget a) f.lo f.width))

/-- CLOCK_MONITOR_WINDOW and PLL_RELOCK (R33, R44, R515): a count beyond 25 % of nominal, or no lock, is a lost clock; four good windows
in a row bring it back. -/
def Obligations.ClockMonitors : Prop :=
  ∀ (s : State) (clk : Clock) (n m : Nat), s.calm = true →
    (bitAt (s.rget Reg.PM_CLK) (clockBit clk) = false → m < 4 * (n - m) ∨ m < 4 * (m - n) →
      Completes (.clockMonitorWindow clk n m false) s fun t =>
        Tab.get 0 t.pow.good (clockBit clk) = 0 ∧ (∀ a, t.rget a = s.rget a)) ∧
    (∀ k : Nat, 4 * (n - m) ≤ m → 4 * (m - n) ≤ m → k = Tab.get 0 s.pow.good (clockBit clk) →
      Completes (.clockMonitorWindow clk n m false) s fun t =>
        Tab.get 0 t.pow.good (clockBit clk) = Nat.min (k + 1) 4 ∧
        bitAt (t.rget Reg.PM_CLK) (clockBit clk) = (decide (3 ≤ k) || bitAt (s.rget Reg.PM_CLK) (clockBit clk)) ∧
        (∀ a, a ≠ Reg.PM_CLK → t.rget a = s.rget a)) ∧
    (bitAt (s.rget Reg.PM_CLK) 0 = true →
      Completes (.clockMonitorWindow .core n m true) s fun t =>
        t.fget Reg.PM_RSTC_CAUSE = 4 ∧ t.cyc = 0 ∧ t.core.slots = [] ∧ t.sch.entries = [] ∧ t.pending = s.pending) ∧
    (bitAt (s.rget Reg.PM_CLK) 7 = true → s.tbState = 2 →
      Completes (.clockMonitorWindow .ref n m true) s fun t =>
        bitAt (t.rget Reg.PM_CLK) 7 = false ∧ s.flagged t Reg.PM_EVT_CLK Reg.PM_EVT_CLK_MORE ∧ t.tbState = 3 ∧
        t.fbit Reg.AN_TB_STAT_REFLOSS = true) ∧
    (∀ lost : Bool, clk = .dram ∨ (∃ x, clk = .ser x) → bitAt (s.rget Reg.PM_CLK) (clockBit clk) = true →
      lost = true ∨ m < 4 * (n - m) ∨ m < 4 * (m - n) →
      Completes (.clockMonitorWindow clk n m lost) s fun t =>
        bitAt (t.rget Reg.PM_CLK) (clockBit clk) = false ∧ s.flagged t Reg.PM_EVT_CLK Reg.PM_EVT_CLK_MORE) ∧
    (clk ≠ .pciref → clk ≠ .ref →
      exec (.pllRelock clk) s = .next (s.rset Reg.PM_CLK (setBits (s.rget Reg.PM_CLK) (clockBit clk) 1 1)))

/-- The transactions of a line that is on chip and whose home is idle, of an agent that lives and has a place for it (R268 to R270, R287 to
R290), a snoop and its answer, and the scrubber (R274, R278). -/
def Obligations.CoherenceTransactions : Prop :=
  (∀ (s : State) (a : Fin 16) (line : BitVec 32) (l : Nat) (e : DirEntry), s.calm = true → l = line.toNat → e = s.dir l →
     s.lineQ l = LineQ.idle → e.st ≠ .absent → s.sliceLost l = false → s.dead a.val = false →
     (s.agentSt a.val l = .i → (s.mates a.val l).length + s.asked a.val l < s.wayCount a.val →
       -- RDS: alone, and beside sharers
       (e.st = .dn → s.inLockedLlc l = false →
         Completes (.rds a line) s fun t =>
           t.agentSt a.val l = .e ∧ (t.agentLine a.val l).words = e.words ∧ (t.dir l).st = .dx ∧ (t.dir l).ptrs = [a.val] ∧
           (t.dir l).words = e.words ∧ (∀ b k, b < 16 → k < 2 ^ 32 → (b ≠ a.val ∨ k ≠ l) → t.agentLine b k = s.agentLine b k)) ∧
       (e.st = .ds → e.ptrs.length < 3 → e.ptrs.contains a.val = false →
         Completes (.rds a line) s fun t =>
           t.agentSt a.val l = .s ∧ (t.agentLine a.val l).words = e.words ∧ (t.dir l).st = .ds ∧
           (t.dir l).ptrs = e.ptrs ++ [a.val] ∧
           (∀ b k, b < 16 → k < 2 ^ 32 → (b ≠ a.val ∨ k ≠ l) → t.agentLine b k = s.agentLine b k)) ∧
       -- RDX: alone, and while another agent shares the line, which is snooped first
       (e.st = .dn →
         Completes (.rdx a line) s fun t =>
           t.agentSt a.val l = .e ∧ (t.agentLine a.val l).words = e.words ∧ (t.dir l).st = .dx ∧ (t.dir l).ptrs = [a.val] ∧
           (∀ b k, b < 16 → k < 2 ^ 32 → (b ≠ a.val ∨ k ≠ l) → t.agentLine b k = s.agentLine b k)) ∧
       (∀ b : Nat, e.st = .ds → e.ptrs = [b] → b ≠ a.val → s.dead b = false →
         Completes (.rdx a line) s fun t =>
           t.lineQ l = { service := some { agent := a.val, op := .rdx }, snoops := [b], answers := [], queue := [] } ∧
           t.mem.agents = s.mem.agents ∧ (t.dir l).st = .ds ∧ (t.dir l).ptrs = [b] ∧ (t.dir l).words = e.words)) ∧
     -- UPG of the only sharer
     (s.agentSt a.val l = .s → e.st = .ds → e.ptrs = [a.val] →
       Completes (.upg a line) s fun t =>
         t.agentSt a.val l = .e ∧ (t.agentLine a.val l).words = (s.agentLine a.val l).words ∧ (t.dir l).st = .dx ∧
         (t.dir l).ptrs = [a.val] ∧
         (∀ b k, b < 16 → k < 2 ^ 32 → (b ≠ a.val ∨ k ≠ l) → t.agentLine b k = s.agentLine b k)) ∧
     -- WBD and EVN of the only holder
     (s.ordinary a.val l = true → e.ptrs = [a.val] →
       (s.agentSt a.val l = .m → e.st = .dx →
         Completes (.wbd a line) s fun t =>
           t.agentSt a.val l = .i ∧ (t.dir l).st = .dn ∧ (t.dir l).ptrs = [] ∧ (t.dir l).dirty = true ∧
           (t.dir l).words = ((s.gather a.val l).agentLine a.val l).words) ∧
       (s.agentSt a.val l = .e ∧ e.st = .dx ∨ s.agentSt a.val l = .s ∧ e.st = .ds →
         Completes (.evn a line) s fun t =>
           t.agentSt a.val l = .i ∧ (t.dir l).st = .dn ∧ (t.dir l).ptrs = [] ∧ (t.dir l).dirty = e.dirty ∧
           (t.dir l).words = e.words)) ∧
     -- WRH of a line that no agent holds: its words are whole in the LLC, and a target gets the line in E
     (∀ ws : List (Fin 16 × Word), e.st = .dn →
       (Completes (.wrh a line ws none) s fun t =>
         (∀ k, k < 16 → (t.dir l).words.getD k 0 =
           match ws.reverse.find? (fun x => decide (x.1.val = k)) with
           | some x => sealWord x.2
           | none => e.words.getD k 0) ∧
         (t.dir l).st = .dn ∧ (t.dir l).dirty = true ∧ t.mem.agents = s.mem.agents) ∧
       (∀ c : Fin 12, s.canonical = true → s.canPush c.val l = true → s.agentSt c.val l = .i →
         (∀ n ∈ clusterCores c.val, (s.l1Way n false l).st ≠ .m) →
         (s.mates c.val l).length + s.asked c.val l < s.wayCount c.val →
         Completes (.wrh a line ws (some c)) s fun t =>
           t.agentSt c.val l = .e ∧ (t.agentLine c.val l).words = (t.dir l).words ∧ (t.dir l).st = .dx ∧
           (t.dir l).ptrs = [c.val] ∧ (t.dir l).dirty = true))) ∧
  (∀ (s : State) (a : Fin 16) (line : BitVec 32) (l : Nat) (r : LineReq), s.calm = true → l = line.toNat → s.dead a.val = false →
     -- SNOOP of an agent that holds the line in M: it gives the line up, or shares it, and the copy at the home is newer
     (∀ q : LineQ, s.lineQ l = q → q.service = some r → q.snoops.contains a.val = true → s.agentSt a.val l = .m →
       Completes (.snoop a line) s fun t =>
         t.agentSt a.val l = (if r.op = .rds then .s else .i) ∧ (t.dir l).dirty = true ∧ (t.dir l).st = (s.dir l).st ∧
         (t.dir l).words = ((s.gather a.val l).agentLine a.val l).words ∧
         t.lineQ l = { q with snoops := q.snoops.erase a.val, answers := q.answers ++ [a.val] }) ∧
     -- SNOOP_ANSWER, the last: the request takes effect
     (s.lineQ l = { service := some r, snoops := [], answers := [a.val], queue := [] } → r.op = .rdx → s.agentSt r.agent l = .i →
       (s.agentSt a.val l).evicting = false →
       Completes (.snoopAnswer a line) s fun t =>
         t.agentSt r.agent l = .e ∧ (t.agentLine r.agent l).words = (s.dir l).words ∧ (t.dir l).st = .dx ∧
         (t.dir l).ptrs = [r.agent] ∧ t.lineQ l = LineQ.idle)) ∧
  -- SCRUB of a set with one line: a correctable word is rewritten and counted
  (∀ (s : State) (src : Fin 20) (line : BitVec 32) (l w n : Nat) (v : Word) (ws : List Sealed), s.calm = true →
     (s.fbit Reg.CH_CFG_SCRUBEN = true → s.scrubLines src.val line.toNat = [l] →
       ws = (if src.val < 12 then (s.agentLine src.val l).words else (s.dir l).words) → w < 16 →
       readSealed (ws.getD w 0) = .corrected v n →
       (∀ k, k < 16 → k ≠ w → quietWord (ws.getD k 0) = true) →
       Completes (.scrub src line) s fun t =>
         (∀ k, (if src.val < 12 then (t.agentLine src.val l).words else (t.dir l).words).getD k 0 =
           if k = w then sealWord v else ws.getD k 0) ∧
         t.fget (Reg.CH_CNT_CE src.val) = Nat.min (s.fget (Reg.CH_CNT_CE src.val) + 1) (2 ^ (Reg.CH_CNT_CE src.val).width - 1)) ∧
     (s.fbit Reg.CH_CFG_SCRUBEN = false → exec (.scrub src line) s = .next s))

/-- Lock regions and dead agents (R281, R282, R291 to R293). -/
def Obligations.CacheCommands : Prop :=
  ∀ (s : State) (tgt : BitVec 6) (a : Fin 16) (g : Region), s.calm = true → g = s.region tgt.toNat →
    -- LOAD and UNLOCK: where nothing of R282 refuses them, and where it does
    (tgt.toNat < 56 → 0 < g.ways → g.ways ≤ 12 → 4 ≤ g.first → g.first + g.ways ≤ 16 →
      (s.loadRefused tgt.toNat g = false →
        Completes (.load tgt) s fun t => (t.region tgt.toNat).state = rgLoading ∧ t.fget Reg.CH_RES_STATUS = 0) ∧
      (s.loadRefused tgt.toNat g = true →
        Completes (.load tgt) s fun t =>
          (t.region tgt.toNat).state = g.state ∧ t.fget Reg.CH_RES_STATUS = stsConflict ∧ t.mem = s.mem) ∧
      (g.state = rgLocked →
        (g.llc = true → ∀ k, k < 48 → (s.region k).state ≠ rgOff → (s.region k).inside g = false) →
        s.classDAt g.part (fun home => g.llc || decide (home / 2 = g.cluster)) = false →
        exec (.unlock tgt) s = .next ((s.fset ⟨g.ctl, 13, 2⟩ rgDraining).chResult 0)) ∧
      (g.state ≠ rgLocked →
        Completes (.unlock tgt) s fun t => (t.region tgt.toNat).state = g.state ∧ t.fget Reg.CH_RES_STATUS = stsConflict)) ∧
    -- LOCK_LOAD_COMPLETE, with every line in its place, and in general
    (tgt.toNat < 56 → g.state = rgLoading →
      ((∀ l, g.has l = true → s.sliceLost l = false ∧
          if g.llc then (s.dir l).st ≠ .absent
          else s.lineQ l = LineQ.idle ∧ s.agentSt g.cluster l = (if g.wx then .e else .s)) →
        Completes (.lockLoadComplete tgt) s fun t =>
          (t.region tgt.toNat).state = rgLocked ∧ s.flagged t Reg.CH_EVT_LKDONE Reg.CH_EVT_LKDONE_MORE) ∧
      (∀ (q : State) (done : Bool), ((List.range g.lines).map (g.base + ·)).foldl (State.loadLine g) (s, true) = (q, done) →
        q.settled = true →
        Completes (.lockLoadComplete tgt) s fun t =>
          (t.region tgt.toNat).state = (if done then rgLocked else (q.region tgt.toNat).state) ∧ t.mem.dirs = q.mem.dirs ∧
          t.mem.agents = q.mem.agents)) ∧
    -- LOCK_DRAIN_COMPLETE, once no line of the region is on chip, and in general
    (tgt.toNat < 56 → g.state = rgDraining →
      ((∀ x ∈ s.mem.dirs, g.has x.1 = false) →
        exec (.lockDrainComplete tgt) s = .next (s.fset ⟨g.ctl, 13, 2⟩ rgOff)) ∧
      (∀ (q : State) (done : Bool),
        ((s.mem.dirs.map (·.1)).filter g.has).foldl (State.unloadLine g) (s, true) = (q, done) → q.settled = true →
        Completes (.lockDrainComplete tgt) s fun t =>
          (t.region tgt.toNat).state = (if done then rgOff else (q.region tgt.toNat).state) ∧ t.mem = q.mem)) ∧
    -- DECLARE_DEAD and AGENT_FAULT while no request is at the homes: what the agent held in DX is lost
    (a.val ≠ 15 → s.dead a.val = false → s.mem.lineq = [] →
      ∀ c ∈ [Instr.declareDead a, .agentFault a],
        Completes c s fun t =>
          t.dead a.val = true ∧ t.fbit Reg.CH_STAT_RECL = true ∧ s.flagged t Reg.CH_EVT_DEAD Reg.CH_EVT_DEAD_MORE ∧
          (c = .declareDead a → t.fget Reg.CH_RES_STATUS = 0) ∧ t.mem.agents = s.mem.agents ∧
          ∀ l, ((s.dir l).st = .dx → (s.dir l).ptrs.contains a.val = true →
              (t.dir l).st = .dn ∧ (t.dir l).words = (s.dir l).words.map fun w => lostWord (dataOf w)) ∧
            ((s.dir l).st = .ds → (t.dir l).ptrs = (s.dir l).ptrs.filter fun b => decide (b ≠ a.val))) ∧
    -- DECLARE_LIVE once the sweep is over and the agent has been powered up anew
    (s.dead a.val = true → s.fbit Reg.CH_STAT_RECL = false → s.domState (agentDomain a.val) = 1 → s.mem.unclean.contains a.val = false →
      exec (.declareLive a) s = .next ((s.rset Reg.CH_STAT (setBits (s.rget Reg.CH_STAT) a.val 1 0)).chResult 0)) ∧
    -- SWEEP_COMPLETE
    exec .sweepComplete s = .next (s.fset Reg.CH_STAT_RECL 0)
/-- The commands of LS_CMDk where they are accepted (R299, R300, R315, R316), a mismatch, its reconciliation and the verdicts of self-tests
(R301, R305 to R309, R579). -/
def Obligations.LockstepCommands : Prop :=
  (∀ (s : State) (k : Fin 24), s.calm = true → s.fbit (Reg.LS_RES_DONE k.val) = true →
     -- LOCKSTEP and RETEST take the pair to TEST, both cores powered, the checker's counters as the main core's
     (s.pairState k.val = lsOff ∨ s.pairState k.val = lsSplit → s.occupied (pairSlots k.val) = false →
       Completes (.lsLockstep k) s fun t =>
         t.pairState k.val = lsTest ∧ t.fget (Reg.LS_RES_STATUS k.val) = 0 ∧ t.fbit (Reg.LS_RES_DONE k.val) = true ∧
         t.domState (2 * k.val) = 1 ∧ t.domState (2 * k.val + 1) = 1 ∧ t.tlb (2 * k.val) = [] ∧ t.tlb (2 * k.val + 1) = [] ∧
         (∀ j, j < 8 → t.pmc (2 * k.val + 1) j = t.pmc (2 * k.val) j)) ∧
     (s.pairState k.val = lsFenced →
       Completes (.retest k) s fun t =>
         t.pairState k.val = lsTest ∧ t.fget (Reg.LS_RES_STATUS k.val) = 0 ∧
         t.domState (2 * k.val) = 1 ∧ t.domState (2 * k.val + 1) = 1 ∧ t.pairOwner k.val = s.pairOwner k.val) ∧
     -- SPLIT of a LOCKSTEP pair: the checker starts with the main core's translations and pins
     (s.pairState k.val = lsLockstep → s.occupied (pairSlots k.val) = false → s.homeUsed k.val = false →
       s.domState (2 * k.val) = 1 → s.domState (2 * k.val + 1) = 1 →
       Completes (.lsSplit k) s fun t =>
         t.pairState k.val = lsSplit ∧ t.fget (Reg.LS_RES_STATUS k.val) = 0 ∧ t.tlb (2 * k.val + 1) = s.tlb (2 * k.val) ∧
         t.pins (2 * k.val + 1) = s.pins (2 * k.val) ∧ s.flagged t Reg.LS_EVT_MODE Reg.LS_EVT_MODE_MORE) ∧
     -- OFF gates both cores
     (s.pairState k.val = lsLockstep ∨ s.pairState k.val = lsSplit → s.occupied (pairSlots k.val) = false →
       s.homeUsed k.val = false →
       Completes (.lsOff k) s fun t =>
         t.pairState k.val = lsOff ∧ t.fget (Reg.LS_RES_STATUS k.val) = 0 ∧
         t.domState (2 * k.val) = 0 ∧ t.domState (2 * k.val + 1) = 0) ∧
     -- INJECT makes a mismatch of kind 12
     (s.pairState k.val = lsLockstep → s.fbit (Reg.LS_LOGB_V k.val) = false →
       Completes (.inject k) s fun t =>
         t.pairState k.val = lsHold ∧ t.fget (Reg.LS_LOGB_KIND k.val) = 12 ∧ t.fbit (Reg.LS_LOGB_V k.val) = true ∧
         t.fget (Reg.LS_RES_STATUS k.val) = 0 ∧ s.flagged t Reg.LS_EVT_MISM Reg.LS_EVT_MISM_MORE)) ∧
  (∀ (s : State) (k : Fin 24), s.calm = true →
     -- MISMATCH: the pair holds, what its slots had stored and issued is discarded
     (∀ (kind : Fin 16) (slot : Fin 8), s.pairState k.val = lsLockstep →
       Completes (.mismatch k kind slot) s fun t =>
         t.pairState k.val = lsHold ∧ Tab.get false t.core.recon k.val = true ∧
         (s.fbit (Reg.LS_LOGB_V k.val) = false →
           t.fget (Reg.LS_LOGB_KIND k.val) = kind.val ∧ t.fget (Reg.LS_LOGB_SLOT k.val) = slot.val ∧
           t.fget (Reg.LS_LOGA_CYC k.val) = s.cyc % 2 ^ 36) ∧
         (s.fbit (Reg.LS_LOGB_V k.val) = true → t.rget (Reg.LS_LOGA k.val) = s.rget (Reg.LS_LOGA k.val)) ∧
         s.flagged t (Reg.LS_LOGB_V k.val) (Reg.LS_LOGB_V_MORE k.val) ∧ s.flagged t Reg.LS_EVT_MISM Reg.LS_EVT_MISM_MORE ∧
         (∀ i ∈ pairSlots k.val, (t.slot i).sb = [] ∧ (t.slot i).long = [] ∧ (t.slot i).resv = none)) ∧
     -- RECONCILE_COMPLETE: a modified line whose copies differ is lost, and the pair's L1s hold nothing
     (∀ (l : BitVec 32) (x : AgentLine), Tab.get false s.core.recon k.val = true → x = s.agentLine (k.val / 2) l.toNat →
       (s.l1Way (2 * k.val) false l.toNat).st = .m → (s.l1Way (2 * k.val + 1) false l.toNat).st ≠ .m →
       ((s.l1Set (2 * k.val) false l.toNat).ways.filter fun w => decide (w.st ≠ .i ∧ w.line = l.toNat)).length ≤ 1 →
       Completes (.reconcileComplete k [l]) s fun t =>
         Tab.get false t.core.recon k.val = false ∧
         (t.agentLine (k.val / 2) l.toNat).words = x.words.map (fun w => lostWord (dataOf w)) ∧
         s.flagged t Reg.LS_EVT_LOSTL Reg.LS_EVT_LOSTL_MORE ∧
         (∀ f n, t.inL1 (2 * k.val) f n = false ∧ t.inL1 (2 * k.val + 1) f n = false)) ∧
     -- SELF_TEST_VERDICT of a pair in TEST
     (s.pairState k.val = lsTest → Tab.get false s.core.recon k.val = false → Tab.get 0 s.tap.selfTest k.val = 0 →
       (s.domState (2 * k.val) ≠ 3 → s.domState (2 * k.val + 1) ≠ 3 → Completes (.selfTestVerdict k false false) s fun t =>
         t.pairState k.val = lsLockstep ∧ t.fget (Reg.LS_STAT_FAILM k.val) = 0 ∧ t.fget (Reg.LS_STAT_FAILC k.val) = 0 ∧
         s.flagged t Reg.LS_EVT_MODE Reg.LS_EVT_MODE_MORE ∧ t.pairOwner k.val = s.pairOwner k.val) ∧
       (Completes (.selfTestVerdict k true true) s fun t =>
         t.pairState k.val = lsFenced ∧ t.fget (Reg.LS_STAT_FAILM k.val) = 1 ∧ t.fget (Reg.LS_STAT_FAILC k.val) = 1 ∧
         s.flagged t Reg.LS_EVT_FENCE Reg.LS_EVT_FENCE_MORE ∧ t.pairOwner k.val = poolOwner ∧
         t.domState (2 * k.val) = 0 ∧ t.domState (2 * k.val + 1) = 0)) ∧
     -- and of a pair in HOLD without pins: it resumes with its entries, or its spare takes them over
     (s.pairState k.val = lsHold → Tab.get false s.core.recon k.val = false → Tab.get 0 s.tap.selfTest k.val = 0 →
       s.pins (2 * k.val) = [] →
       (s.domState (2 * k.val) ≠ 3 → s.domState (2 * k.val + 1) ≠ 3 → Completes (.selfTestVerdict k false false) s fun t =>
         t.pairState k.val = lsLockstep ∧ s.flagged t Reg.LS_EVT_PASS Reg.LS_EVT_PASS_MORE ∧
         (∀ c, (s.entry c).state = stHeld → (s.entry c).slot / 16 = k.val → (s.entry c).oneShot = false →
           (t.entry c).state = stArmed)) ∧
       (∀ j : Nat, s.fget (Reg.LS_CFG_SPARE k.val) = j → s.fbit (Reg.LS_CFG_SPAREV k.val) = true → j < 24 → j ≠ k.val →
         s.isSpare j = true →
         Completes (.selfTestVerdict k true true) s fun t =>
           t.pairState k.val = lsFenced ∧ t.pairOwner k.val = poolOwner ∧ t.pairOwner j = s.pairOwner k.val ∧
           s.flagged t Reg.LS_EVT_STALE Reg.LS_EVT_STALE_MORE ∧ s.flagged t Reg.LS_EVT_TAKE Reg.LS_EVT_TAKE_MORE ∧
           (∀ c, (s.entry c).classG = false → (s.entry c).state ≠ stFree → (s.entry c).home = k.val → (t.entry c).home = j))))
/-- The commands of MC_CMD where they are accepted, and their completions (R325, R326, R331, R336, R340, R342, R345). -/
def Obligations.DramCommands : Prop :=
  ∀ (s : State) (ch : BitVec 3) (rank : Bool) (c : Nat), s.calm = true → s.fbit Reg.MC_RES_DONE = true → c = ch.toNat →
    c ∈ s.chList → (rank = true → s.fbit (Reg.MC_CHCFG_PR2 c) = true) → mapValid (s.rget Reg.MC_MAP) = true →
    (s.chState c = chInit →
      Completes (.init ch rank) s fun t =>
        t.dram.cmd = some (1, c, b2n rank) ∧ t.fbit Reg.MC_RES_DONE = false ∧ t.chState c = chInit ∧
        (t.chan c).lfsr = (if s.rget Reg.MC_NRSEED = 0 then 1 else s.rget Reg.MC_NRSEED) ∧
        Tab.get none (t.chan c).phy (b2n rank) =
          some (DramPhy.board (s.fget (Reg.MC_TIM0_CL c)) (s.fget (Reg.MC_TIM0_CWL c)))) ∧
    (s.chState c = chInit → Tab.get false (s.chan c).initOk 0 = true →
      (s.fbit (Reg.MC_CHCFG_PR2 c) = true → Tab.get false (s.chan c).initOk 1 = true) →
      exec (.zero ch rank) s = .next ((s.fset (Reg.MC_CHSTAT_STATE c) chZeroing).mcResult 0)) ∧
    (s.chState c = chActive → s.fget (Reg.MC_CHSTAT_SPST c) ≠ 2 → Tab.get false (s.chan c).measuring 0 = false →
      Tab.get false (s.chan c).measuring 1 = false →
      Completes (.sre ch rank) s fun t =>
        t.chState c = chSelfref ∧ (t.chan c).wq = [] ∧ (t.chan c).openRow = [] ∧ t.fget Reg.MC_RES_STATUS = 0 ∧
        t.fbit Reg.MC_RES_DONE = true) ∧
    (s.chState c = chSelfref → exec (.srx ch rank) s = .next ((s.fset (Reg.MC_CHSTAT_STATE c) chActive).mcResult 0)) ∧
    (s.chState c = chActive → s.fget (Reg.MC_CHSTAT_SPST c) ≠ 2 →
      Completes (.measure ch rank) s fun t =>
        t.dram.cmd = some (5, c, b2n rank) ∧ t.fbit Reg.MC_RES_DONE = false ∧
        Tab.get false (t.chan c).measuring (b2n rank) = true ∧ (∀ d, d < 12 → t.fbit (Reg.MC_MEAS_V c d) = false)) ∧
    (s.chState c = chActive → s.fget (Reg.MC_CHSTAT_SPST c) = 1 →
      Completes (.migrate ch rank) s fun t =>
        t.fget (Reg.MC_CHSTAT_SPST c) = 2 ∧ t.fget (Reg.MC_CP_CP c) = 0 ∧ s.flagged t Reg.MC_EVT_MIGST Reg.MC_EVT_MIGST_MORE ∧
        t.fget Reg.MC_RES_STATUS = 0)


/-- Reads and writes of the slices at a channel, and what the channel does by itself (R328 to R330, R332 to R337); the completions of long
commands, and the stores that configure the controller (R322, R326, R331, R340, R345). -/
def Obligations.DramRequestsAndCompletions : Prop :=
  (∀ (s : State) (ch : Fin 6) (c : Nat), s.calm = true → c = ch.val → s.chState c = chActive →
     (∀ (line : BitVec 32) (part : Fin 16) (d : DramAt), s.mapLine line.toNat = some d → d.ch = c → (s.chan c).rq.length < 64 →
       (s.chan c).wq.all (fun w => !decide (w.rank = (s.servedAt d).rank ∧ w.cl = (s.servedAt d).cl)) = true →
       Completes (.dramReadRequest line part) s fun t =>
         (t.chan c).rq = (s.chan c).rq ++ [{ line := line.toNat, part := part.val, at_ := s.cyc }] ∧ t.dram.cells = s.dram.cells) ∧
     (∀ (line : BitVec 32) (d : DramAt), s.mapLine line.toNat = some d → d.ch = c → (s.dir line.toNat).st ≠ .absent →
       (s.dir line.toNat).dirty = true → (s.chan c).wq.length < 64 →
       (s.chan c).wq.all (fun w => !decide (w.rank = (s.servedAt d).rank ∧ w.cl = d.cl)) = true →
       Completes (.dramWriteRequest line) s fun t =>
         (t.chan c).wq = (s.chan c).wq ++
           [{ rank := (s.servedAt d).rank, cl := d.cl, words := (s.dir line.toNat).words, copy := false }] ∧
         t.dir line.toNat = { s.dir line.toNat with dirty := false }) ∧
     -- DRAM_READ_RETURN where no request waits at the line's home: the line is on chip, in a free way of its set or already
     (∀ (r : RdReq) (rest : List RdReq) (q : State), (s.chan c).issued = r :: rest → (s.lineQ r.line).queue = [] →
       s.sliceLost r.line = false →
       ((s.dir r.line).st ≠ .absent →
         Completes (.dramReadReturn ch) s fun t =>
           (t.chan c).issued = rest ∧ (t.dir r.line).words = (s.dir r.line).words ∧ (t.dir r.line).st = (s.dir r.line).st) ∧
       (∀ d : DramAt, (s.dir r.line).st = .absent → s.mapLine r.line = some d → d.ch = c →
         (s.llcMates r.line).length < openWays s.llcRegions → (s.dramWords (s.servedAt d)).all quietWord = true →
         Completes (.dramReadReturn ch) s fun t =>
           (t.chan c).issued = rest ∧ (t.dir r.line).st = .dn ∧ (t.dir r.line).words = s.dramWords (s.servedAt d) ∧
           (t.dir r.line).dirty = false ∧ t.dram.cells = s.dram.cells) ∧
       (∀ bad : List Nat, (s.setChan c { s.chan c with issued := rest }).fill r.line = (q, .ok bad) → q.settled = true →
         (q.lineQ r.line).queue = [] →
         Completes (.dramReadReturn ch) s fun t =>
           (t.dir r.line).st ≠ .absent ∧ t.mem = q.mem ∧ t.dram = q.dram)) ∧
     -- DRAM_COMMAND_ISSUE: a refresh owed five times over, a write of a batch, a read
     (∀ r : Nat, s.owes c 5 = some r →
       Completes (.dramCommandIssue ch) s fun t =>
         Tab.get 0 (t.chan c).owed r = Tab.get 0 (s.chan c).owed r - 1 ∧ (t.chan c).rq = (s.chan c).rq ∧
         (t.chan c).openRow.all (fun x => decide (x.1 / 256 ≠ r)) = true) ∧
     (s.owes c 5 = none → s.pauseWaits c = false → (s.chan c).nrDue = [] →
       (∀ (w : WrReq) (rest : List WrReq), (s.chan c).wq = w :: rest → (s.chan c).batch = 1 → s.owes c 1 = none →
         w.words.length = 16 → w.copy = false →
         Completes (.dramCommandIssue ch) s fun t =>
           (t.chan c).wq = rest ∧
           Tab.getRange 0 t.dram.cells (cellKey { ch := c, rank := w.rank, cl := w.cl }) 16 = w.words ∧
           (t.chan c).batch = (if rest.length ≤ s.wlo c then 0 else 1)) ∧
       (∀ (r : RdReq) (turn credit : Nat), (s.chan c).batch = 0 → s.pickRead c = some (r, turn, credit) →
         Completes (.dramCommandIssue ch) s fun t =>
           (t.chan c).issued = (s.chan c).issued ++ [r] ∧ (t.chan c).rq = (s.chan c).rq.erase r ∧ (t.chan c).turn = turn ∧
           (t.chan c).credit = credit)) ∧
     -- REFRESH_DUE of a rank in service: owed while reads of the rank wait, else issued at once
     (∀ rank : Fin 2, s.rankServed c rank.val = true →
       (s.readsQueued c rank.val = true →
         Completes (.refreshDue ch rank) s fun t =>
           Tab.get 0 (t.chan c).owed rank.val = Tab.get 0 (s.chan c).owed rank.val + 1 ∧ (t.chan c).openRow = (s.chan c).openRow) ∧
       (s.readsQueued c rank.val = false →
         Completes (.refreshDue ch rank) s fun t =>
           Tab.get 0 (t.chan c).owed rank.val = Tab.get 0 (s.chan c).owed rank.val ∧
           (t.chan c).openRow.all (fun x => decide (x.1 / 256 ≠ rank.val)) = true)) ∧
     -- RETRAINING_PAUSE: a pending base comes into force; else each correction moves by one tap
     (∀ (rank : Fin 2) (moves : List (Int × Int)), Tab.get false (s.chan c).pauseDue rank.val = true →
       Tab.get false (s.chan c).measuring rank.val = false →
       (∀ (d : Nat) (w : Word), d < 12 → (s.chan c).dlyPend = [(12 * rank.val + d, w)] →
         Completes (.retrainingPause ch rank moves) s fun t =>
           t.rget (Reg.MC_DLY c rank.val d) = setBits w 24 12 0 ∧ (t.chan c).dlyPend = [] ∧
           Tab.get false (t.chan c).pauseDue rank.val = false) ∧
       ((s.chan c).dlyPend = [] →
         Completes (.retrainingPause ch rank moves) s fun t =>
           Tab.get false (t.chan c).pauseDue rank.val = false ∧
           (∀ (d : Nat) (v : Int), d < 12 → v = s.corr (Reg.MC_DLY_RCORR c rank.val d) + (moves.getD d (0, 0)).1.sign →
             -(s.fget (Reg.MC_RT_CWIN c) : Int) ≤ v → v ≤ s.fget (Reg.MC_RT_CWIN c) → -32 ≤ v → v ≤ 31 →
             t.corr (Reg.MC_DLY_RCORR c rank.val d) = v))) ∧
     -- NEIGHBOUR_REFRESH
     (∀ (k row : Nat) (rest : List (Nat × Nat)), (s.chan c).nrDue = (k, row) :: rest →
       Completes (.neighbourRefresh ch) s fun t =>
         (t.chan c).nrDue = rest ∧ Tab.get 65536 (t.chan c).openRow k = 65536 ∧
         t.fget ⟨Reg.MC_NRCNT c, 0, 36⟩ =
           Nat.min (s.fget ⟨Reg.MC_NRCNT c, 0, 36⟩ + neighbours row (s.fbit (Reg.MC_NR_RADIUS2 c))) (2 ^ 36 - 1)) ∧
     -- PATROL_SCRUB of a line that reads without an error
     (∀ (l n : Nat) (d : DramAt), s.fbit (Reg.MC_SP_PSEN c) = true → n = s.rankLines * (s.fget Reg.MC_MAP_MRANKS + 1) →
       l = (s.chan c).patrol % n →
       d = { ch := c, rank := if s.fbit Reg.MC_MAP_MRANKS then l / s.rankLines else s.fget (Reg.MC_CHCFG_LMAP c),
             cl := l % s.rankLines } →
       (s.chan c).wq = [] → (s.dramWords (s.servedAt d)).all quietWord = true →
       Completes (.patrolScrub ch) s fun t =>
         (t.chan c).patrol = (l + 1) % n ∧ (t.chan c).wq = [] ∧ t.dram.cells = s.dram.cells) ∧
     -- MODE_REGISTER_POLL
     (∀ (rank : Fin 2) (need2x above : Bool), s.rankServed c rank.val = true →
       Completes (.modeRegisterPoll ch rank need2x above) s fun t =>
         bitAt (t.rget (Reg.MC_CHSTAT c)) (5 + rank.val) = (need2x || s.fbit (Reg.MC_CHCFG_REFX2 c)) ∧
         (above = true → s.flagged t Reg.MC_EVT_TEMP Reg.MC_EVT_TEMP_MORE) ∧
         (above = false → bitAt (s.rget (Reg.MC_CHSTAT c)) (5 + rank.val) = (need2x || s.fbit (Reg.MC_CHCFG_REFX2 c)) →
           t.rget Reg.MC_EVT = s.rget Reg.MC_EVT)) ∧
     -- WRITE_BATCH_START
     ((s.chan c).batch = 0 →
       (s.whi c ≤ (s.chan c).wq.length → Completes (.writeBatchStart ch) s fun t => (t.chan c).batch = 1) ∧
       ((s.chan c).wq.length < s.whi c → s.fbit (Reg.MC_SCHED_IDLEW c) = true → (s.chan c).rq = [] → (s.chan c).wq ≠ [] →
         Completes (.writeBatchStart ch) s fun t => (t.chan c).batch = 2))) ∧
  (∀ (s : State) (ch : Fin 6) (c : Nat), s.calm = true → c = ch.val →
     (∀ r : Nat, s.dram.cmd = some (1, c, r) →
       (Completes (.initComplete none) s fun t =>
         t.dram.cmd = none ∧ Tab.get false (t.chan c).initOk r = true ∧ t.fget Reg.MC_RES_STATUS = 0 ∧
         t.fbit Reg.MC_RES_DONE = true) ∧
       (∀ d : Fin 12,
         Completes (.initComplete (some d)) s fun t =>
           t.dram.cmd = none ∧ Tab.get false (t.chan c).initOk r = false ∧ t.fget Reg.MC_RES_STATUS = 7 ∧
           t.fget Reg.MC_RES_FAILDEV = d.val ∧ t.fbit Reg.MC_RES_DONE = true)) ∧
     (s.chState c = chZeroing →
       Completes (.zeroComplete ch) s fun t =>
         t.chState c = chActive ∧
         (∀ k, Tab.get 0 t.dram.cells k = if k / 2 ^ 34 / 2 = c then 0 else Tab.get 0 s.dram.cells k)) ∧
     (∀ (r : Nat) (eyes : List (Nat × Nat × Nat)), s.dram.cmd = some (5, c, r) →
       Completes (.measureComplete ch eyes) s fun t =>
         t.dram.cmd = none ∧ Tab.get false (t.chan c).measuring r = false ∧ s.flagged t Reg.MC_EVT_MEAS Reg.MC_EVT_MEAS_MORE ∧
         t.fget Reg.MC_RES_STATUS = 0 ∧
         (∀ d x y w, d < 12 → eyes[d]? = some (x, y, w) →
           t.fbit (Reg.MC_MEAS_V c d) = true ∧ t.fget (Reg.MC_MEAS_RCTR c d) = x % 2 ^ (Reg.MC_MEAS_RCTR c d).width ∧
           t.fget (Reg.MC_MEAS_WCTR c d) = y % 2 ^ (Reg.MC_MEAS_WCTR c d).width)) ∧
     -- MIGRATION_COPY of a line that reads without an error
     (∀ d : DramAt, d = { ch := c, rank := s.fget (Reg.MC_CHCFG_LMAP c), cl := s.fget (Reg.MC_CP_CP c) } →
       s.chState c = chActive → s.fget (Reg.MC_CHSTAT_SPST c) = 2 → (s.chan c).copyQueued = false →
       s.pauseWaits c = false → (s.chan c).wq = [] →
       (s.dramWords d).all quietWord = true →
       Completes (.migrationCopy ch) s fun t =>
         (t.chan c).wq = [{ rank := 1 - d.rank, cl := d.cl, words := s.dramWords d, copy := true }] ∧
         (t.chan c).copyQueued = true ∧ t.dram.cells = s.dram.cells) ∧
     -- MC_MAP_STORE and MC_DLY_STORE
     (∀ (req : Requester) (v : Word), s.storeGuard req.level Reg.MC_MAP = none →
       ((List.range 6).all (fun d => decide (s.chState d = chOff ∨ s.chState d = chInit)) = true →
         exec (.mcMapStore req v) s = .next (s.rset Reg.MC_MAP (s.storedWord req.level Reg.MC_MAP v 0))) ∧
       ((List.range 6).all (fun d => decide (s.chState d = chOff ∨ s.chState d = chInit)) = false →
         exec (.mcMapStore req v) s = .next (s.flag Reg.MC_EVT_CFGREF Reg.MC_EVT_CFGREF_MORE))) ∧
     (∀ (req : Requester) (rank : Fin 2) (dev : Fin 12) (v : Word),
       s.storeGuard req.level (Reg.MC_DLY c rank.val dev.val) = none →
       (s.chState c = chInit →
         exec (.mcDlyStore req ch rank dev v) s =
           .next (s.rset (Reg.MC_DLY c rank.val dev.val) (s.storedWord req.level (Reg.MC_DLY c rank.val dev.val) v 0))) ∧
       (s.chState c ≠ chInit →
         Completes (.mcDlyStore req ch rank dev v) s fun t =>
           Tab.get 0 (t.chan c).dlyPend (12 * rank.val + dev.val) = setBits v 24 12 0 ∧
           t.rget (Reg.MC_DLY c rank.val dev.val) = s.rget (Reg.MC_DLY c rank.val dev.val) ∧
           bitAt (t.rget (Reg.MC_CHSTAT c)) (7 + rank.val) = true)))/-- Frames at the ports: what is received, forwarded, sent and counted (R351 to R360, R362, R369, R376). -/
def Obligations.NetworkFrames : Prop :=
  ∀ (s : State) (port : Fin 6) (x : Nat), s.calm = true → x = port.val → s.portUp x = true →
    -- FRAME_RECEIVED: errored, errored after its forwarding began, a PAUSE frame, and one that another port takes
    (s.domState 80 = 1 → s.domState (74 + x) = 1 →
      (∀ f : Frame, Nat.min (s.fget (Reg.NP_PCFG_MAXLEN x)) 2048 < f.len ∨ f.len < 64 ∨ (f.fcsOk = false ∧ s.classOf f x ≠ 7) →
        Completes (.frameReceived port f) s fun t =>
          Tab.get 0 t.net.errs x = Tab.get 0 s.net.errs x + 1 ∧
          t.fget (Reg.NP_CERR_N x) = Nat.min (s.fget (Reg.NP_CERR_N x) + 1) (2 ^ (Reg.NP_CERR_N x).width - 1) ∧
          t.net.egress = s.net.egress ∧ t.net.learn = s.net.learn) ∧
      (∀ (f : Frame) (y : Nat), f.len ≤ Nat.min (s.fget (Reg.NP_PCFG_MAXLEN x)) 2048 → 64 ≤ f.len → f.fcsOk = false →
        s.classOf f x = 7 → s.ringPair x = none → s.rowForwards x (s.frameRow x f) f = true →
        (s.forwardPorts x f).filter (s.cutsTo x) = [y] → s.bufferFull 7 (frameCells f) [y] = false →
        Completes (.frameReceived port f) s fun t =>
          Tab.get 0 t.net.errs x = Tab.get 0 s.net.errs x + 1 ∧
          t.txq y 7 true = s.txq y 7 true ++
            [{ frame := { f with red := .none }, ue := false, id := s.net.nextId, cells := frameCells f, inPort := x,
               ingress := s.nowNs, stamp := none }]) ∧
      (∀ f : Frame, f.len ≤ Nat.min (s.fget (Reg.NP_PCFG_MAXLEN x)) 2048 → 64 ≤ f.len → f.fcsOk = true →
        (f.etype = 0x8808 → exec (.frameReceived port f) s = .next (s.fadd (Reg.NP_CRX_N x) 1)) ∧
        (∀ y cls : Nat, s.ringPair x = none → s.frameRow x f = 8 → s.fget Reg.NP_CFG_AGE = 0 → s.forwardPorts x f = [y] →
          s.portUp y = true → cls = s.classOf f x → s.bufferFull cls (frameCells f) [y] = false →
          Completes (.frameReceived port f) s fun t =>
            t.txq y cls (decide (cls = 7)) = s.txq y cls (decide (cls = 7)) ++
              [{ frame := { f with red := .none }, ue := false, id := s.net.nextId, cells := frameCells f, inPort := x,
                 ingress := s.nowNs, stamp := none }] ∧
            t.fget Reg.NP_FBSTAT_FREE = s.fget Reg.NP_FBSTAT_FREE - frameCells f ∧ t.net.sent = s.net.sent))) ∧
    -- FRAME_TRANSMIT of a frame that is neither PTP nor a host's: one with an uncorrectable word, or whose FCS is bad, leaves with an
    -- inverted FCS and is counted
    (∀ (cls : Nat) (fwd : Bool) (q : TxFrame) (rest : List TxFrame), s.nextQueue x = some (cls, fwd) →
      s.txq x cls fwd = q :: rest → isPtp q.frame = false → q.stamp = none →
      Completes (.frameTransmit port) s fun t =>
        t.txq x cls fwd = rest ∧
        Tab.get none t.net.sent x = some (if q.ue then { q.frame with fcsOk := false } else q.frame) ∧
        Tab.get 0 t.net.errs x = Tab.get 0 s.net.errs x + b2n (q.ue || !q.frame.fcsOk) ∧
        t.fget (Reg.NP_CTX_N x) = Nat.min (s.fget (Reg.NP_CTX_N x) + 1) (2 ^ (Reg.NP_CTX_N x).width - 1) ∧
        ((s.setTxq x cls fwd rest).waiting q.id = false →
          t.fget Reg.NP_FBSTAT_FREE = (s.fget Reg.NP_FBSTAT_FREE + q.cells) % 2 ^ Reg.NP_FBSTAT_FREE.width)) ∧
    -- PDELAY_REQ_SEND
    (∀ cls : Nat, s.fbit (Reg.NP_PCFG_PDEN x) = true → cls = s.fget (Reg.NP_PCFG_DEFPCP x) → s.bufferFull cls 2 [x] = false →
      Completes (.pdelayReqSend port) s fun t =>
        t.txq x cls false = s.txq x cls false ++
          [{ frame := s.ptpFrame x (s.ptpPort x).seq 0 .pdelayReq, ue := false, id := s.net.nextId, cells := 2, inPort := 6,
             ingress := s.nowNs, stamp := none }] ∧
        (t.ptpPort x).seq = (s.ptpPort x).seq + 1 ∧ (t.ptpPort x).req = none ∧ (t.ptpPort x).resp = none) ∧
    -- SUPERVISION_SEND: one frame on each port of the pair, under one sequence number
    (∀ (pair : Fin 2) (k cls : Nat), k = pair.val → s.pairMode k ≠ 0 → s.portUp (2 * k) = true → s.portUp (2 * k + 1) = true →
      cls = s.fget (Reg.NP_PCFG_DEFPCP (2 * k)) → s.bufferFull cls 1 [2 * k, 2 * k + 1] = false →
      Completes (.supervisionSend pair) s fun t =>
        (t.txq (2 * k) cls false).length = (s.txq (2 * k) cls false).length + 1 ∧
        (t.txq (2 * k + 1) cls false).length = (s.txq (2 * k + 1) cls false).length + 1 ∧
        ((t.txq (2 * k) cls false).getLast?.map (·.frame.payload)) = some (.supervision (s.macOf (2 * k))) ∧
        ((t.txq (2 * k + 1) cls false).getLast?.map (·.frame.payload)) = some (.supervision (s.macOf (2 * k))) ∧
        Tab.get 0 t.net.seqs k = Tab.get 0 s.net.seqs k + 1) ∧
    -- LINK_DOWN
    (∀ mid : Bool,
      Completes (.linkDown port mid) s fun t =>
        t.fbit (Reg.NP_PSTAT_LINK x) = false ∧ (∀ c b, c < 8 → t.txq x c b = []) ∧
        bitAt (t.rget Reg.NP_EVT) (Reg.NP_EVT_LINK.lo + x) = true ∧
        Tab.get 0 t.net.errs x = Tab.get 0 s.net.errs x + b2n mid)

/-- Tables, timeouts and statuses of the ports, the bypass, and the stores that configure them (R350, R353, R354, R361 to R367, R371, R375,
R376). -/
def Obligations.NetworkEvents : Prop :=
  ∀ s : State, s.calm = true →
    (∀ port : Fin 6, s.fbit (Reg.NP_PCFG_EN port.val) = true → s.fbit (Reg.NP_PSTAT_LINK port.val) = false →
      Completes (.linkUp port) s fun t =>
        t.fbit (Reg.NP_PSTAT_LINK port.val) = true ∧ bitAt (t.rget Reg.NP_EVT) (Reg.NP_EVT_LINK.lo + port.val) = true ∧
        t.net = s.net) ∧
    (Completes .errorRateSecond s fun t =>
      t.net.errs = [] ∧
      (∀ x, x < 6 → t.fbit (Reg.NP_PSTAT_ERRH x) = decide (s.fget (Reg.NP_PCFG_ERRLIM x) < Tab.get 0 s.net.errs x))) ∧
    (∀ mac : BitVec 48,
      exec (.learningAge mac) s = .next { s with net := { s.net with learn := Tab.set 0 s.net.learn mac.toNat 0 } }) ∧
    exec .flush s = .next { s with net := { s.net with learn := [] } } ∧
    (∀ (pair : Fin 2) (src : BitVec 48) (seq : BitVec 16),
      Completes (.discardEntryForget pair src seq) s fun t =>
        t.dups pair.val = (s.dups pair.val).filter (fun e => decide (¬ (e.src = src ∧ e.seq = seq))) ∧
        (∀ x, x = 2 * pair.val ∨ x = 2 * pair.val + 1 → t.ringSent x = (s.ringSent x).filter (fun e => decide (e ≠ (src, seq)))) ∧
        t.regs = s.regs) ∧
    (∀ (pair : Fin 2) (node : BitVec 48),
      Completes (.nodeEntryAge pair node) s fun t =>
        t.nodes pair.val = (s.nodes pair.val).filter (fun n => decide (n ≠ node)) ∧
        t.fget (Reg.NP_RSTAT_NODES pair.val) =
          ((s.nodes pair.val).filter (fun n => decide (n ≠ node))).length % 2 ^ (Reg.NP_RSTAT_NODES pair.val).width) ∧
    -- RING_STATUS_TIMEOUT
    (∀ pair : Fin 2,
      (s.pairMode pair.val = 1 →
        Completes (.ringStatusTimeout pair 0) s fun t =>
          t.fbit (Reg.NP_RSTAT_OPEN pair.val) = true ∧ Tab.get 0 t.net.back pair.val = 0) ∧
      (s.pairMode pair.val = 2 →
        (Completes (.ringStatusTimeout pair 1) s fun t => t.fbit (Reg.NP_RSTAT_SILA pair.val) = true) ∧
        (Completes (.ringStatusTimeout pair 2) s fun t => t.fbit (Reg.NP_RSTAT_SILB pair.val) = true))) ∧
    -- PTP_TIMEOUT of a port that is not followed, of one whose master another port has, and of the last
    (∀ port : Fin 6,
      (s.fget Reg.NP_PTPSTAT_ACT ≠ port.val →
        exec (.ptpTimeout port true) s =
          .next (s.setPtpPort port.val { s.ptpPort port.val with master := none, sync := none })) ∧
      (∀ (a b : Announce) (y : Nat) (announce : Bool), s.fget Reg.NP_PTPSTAT_ACT = port.val → (s.ptpPort port.val).master = some a →
        s.masters.filter (fun m => decide (m.1 ≠ port.val ∧ m.2.grandmaster = a.grandmaster)) = [(y, b)] →
        Completes (.ptpTimeout port announce) s fun t =>
          t.fget Reg.NP_PTPSTAT_ACT = y ∧ s.flagged t Reg.NP_EVT_PTPSW Reg.NP_EVT_PTPSW_MORE) ∧
      (s.fget Reg.NP_PTPSTAT_ACT = port.val → s.masters.all (fun m => decide (m.1 = port.val)) = true →
        Completes (.ptpTimeout port true) s fun t =>
          t.fget Reg.NP_PTPSTAT_ACT = 7 ∧ t.fget Reg.NP_PTPSTAT_STATE = 0 ∧ s.flagged t Reg.NP_EVT_PTPTO Reg.NP_EVT_PTPTO_MORE)) ∧
    -- the bypass
    (∀ (pair : Fin 2) (marker : Bool),
      exec (.bypassHealthChange pair marker) s =
        .next (if s.bypassHealthy pair.val marker then s.fset (Reg.NP_BYP_HEALTHY pair.val) 1
          else (s.fset (Reg.NP_BYP_HEALTHY pair.val) 0).fset (Reg.NP_BYP_HOLD pair.val) 0)) ∧
    (∀ pair : Fin 2, s.fbit (Reg.NP_BYP_HEALTHY pair.val) = true →
      exec (.holddlyExpiry pair) s = .next (s.fset (Reg.NP_BYP_HOLD pair.val) 1)) ∧
    (∀ (pair : Fin 2) (short : Bool),
      Completes (.bypassDriveFault pair short) s fun t =>
        t.fbit (if short then Reg.NP_BYP_SHORT pair.val else Reg.NP_BYP_OPEN pair.val) = true ∧
        s.flagged t Reg.NP_EVT_BYPF Reg.NP_EVT_BYPF_MORE) ∧
    -- NP_HTXK_STORE of a queue that is off, of one whose next descriptor is not owned, and one that takes one descriptor
    (∀ (req : Requester) (p : Fin 16), s.fbit (Reg.NP_HTXC_EN p.val) = false → exec (.npHtxkStore req p) s = .next s) ∧
    (∀ (req : Requester) (p : Fin 16) (q : State), s.fbit (Reg.NP_HTXC_EN p.val) = true → s.hostTake p.val = (q, .ok false) →
      q.settled = true →
      Completes (.npHtxkStore req p) s fun t =>
        t.net = s.net ∧ t.fget (Reg.NP_HTXC_NEXT p.val) = s.fget (Reg.NP_HTXC_NEXT p.val)) ∧
    (∀ (req : Requester) (p : Fin 16) (u q : State), s.fbit (Reg.NP_HTXC_EN p.val) = true → s.hostTake p.val = (u, .ok true) →
      u.hostTake p.val = (q, .ok false) → q.settled = true →
      Completes (.npHtxkStore req p) s fun t =>
        t.net = q.net ∧ t.fget (Reg.NP_HTXC_NEXT p.val) = q.fget (Reg.NP_HTXC_NEXT p.val)) ∧
    -- NP_PCFG_STORE and NP_CFG_STORE
    (∀ (req : Requester) (port : Fin 6) (v w : Word), s.storeGuard req.level (Reg.NP_PCFG port.val) = none →
      w = s.storedWord req.level (Reg.NP_PCFG port.val) v 0 →
      (s.fbit (Reg.NP_PCFG_EN port.val) = false →
        exec (.npPcfgStore req port v) s = .next (s.rset (Reg.NP_PCFG port.val) w)) ∧
      (s.fbit (Reg.NP_PCFG_EN port.val) = true → bits w 0 2 ≠ bits (s.rget (Reg.NP_PCFG port.val)) 0 2 →
        exec (.npPcfgStore req port v) s = .next (s.flag Reg.NP_EVT_CFGREF Reg.NP_EVT_CFGREF_MORE))) ∧
    (∀ (req : Requester) (v w : Word), s.storeGuard req.level Reg.NP_CFG = none → w = s.storedWord req.level Reg.NP_CFG v 0 →
      (s.pairStoreBad (s.rget Reg.NP_CFG) w 0 = false → s.pairStoreBad (s.rget Reg.NP_CFG) w 1 = false → bitAt v 14 = false →
        exec (.npCfgStore req v) s = .next (((s.rset Reg.NP_CFG w).clearPair 0).clearPair 1)) ∧
      (s.pairStoreBad (s.rget Reg.NP_CFG) w 0 = true →
        exec (.npCfgStore req v) s = .next (s.flag Reg.NP_EVT_CFGREF Reg.NP_EVT_CFGREF_MORE)))


/-- ENABLE and DISABLE of the process-data tables (R381, R382). `q` is the state that the reading of the entry leaves. -/
def Obligations.ProcessDataTables : Prop :=
  ∀ (s : State) (tbl : BitVec 3) (idx : BitVec 12) (k i : Nat), s.calm = true → k = tbl.toNat → i = idx.toNat →
    s.fbit Reg.PD_RES_DONE = true → i < tblCount k →
    (s.entryState k i = 0 → ∀ (q : State) (ws : List Word),
      s.readEntry k i = (q, .ok ws) →
      -- a sampled-value subscription
      (∀ c : SvCfg, k = 0 → c = { ws := ws } → 1 ≤ c.nch → c.nch ≤ 32 → 1 ≤ c.nasdu → c.syncpol ≤ 2 → 4 ≤ c.size →
        1 ≤ bits (c.w 11) 0 6 → bits (c.w 11) 0 6 ≤ 32 → 1 ≤ c.rate → c.rate ≤ 16384 →
        (∀ e ∈ q.pd.sv, ∀ d : SvCfg, e.1 ≠ i → e.2.state ≠ stOff → d = { ws := q.peekEntry 0 e.1 } →
          ¬ (dmacOf d.ws = dmacOf ws ∧ d.appid = c.appid ∧ d.svid = c.svid)) →
        Completes (.pdEnable tbl idx) s fun t =>
          (t.svSub i).state = stWait ∧ t.fget Reg.PD_RES_STATUS = 0 ∧ t.fbit Reg.PD_RES_DONE = true) ∧
      -- a resample set, on a reference that its subscription's partition has aligned
      (∀ (c : RsCfg) (sub : SvCfg) (n : Nat), k = 1 → c = { ws := ws } → sub = { ws := q.peekEntry 0 c.sub } → 1 ≤ c.nch →
        c.nch ≤ 32 → c.n * 4096 % c.rlen = 0 → (q.svSub c.sub).state ≠ stOff → c.firstch + c.nch ≤ sub.nch →
        q.viewRef sub.part c.ref = some n → q.refState n ≠ 0 → q.aligned n = true →
        ((q.pd.rs.filter fun e => decide (e.2.state ≠ 0)).map (·.2.nch)).sum + c.nch ≤ 4096 →
        Completes (.pdEnable tbl idx) s fun t =>
          (t.rsSet i).state = 1 ∧ (t.rsSet i).sub = c.sub ∧ (t.rsSet i).ref = n ∧ (t.rsSet i).nch = c.nch ∧
          t.fget Reg.PD_RES_STATUS = 0 ∧ t.fbit Reg.PD_RES_DONE = true) ∧
      -- a GOOSE subscription
      (∀ c : GoCfg, k = 2 → c = { ws := ws } → 1 ≤ bits (c.w 7) 0 7 → bits (c.w 7) 0 7 ≤ 64 → (∀ m, m < c.nmem → c.type m ≤ 6) →
        (∀ e ∈ q.pd.goose, ∀ d : GoCfg, e.1 ≠ i → e.2.state ≠ stOff → d = { ws := q.peekEntry 2 e.1 } →
          ¬ (dmacOf d.ws = dmacOf ws ∧ d.appid = c.appid ∧ d.ref = c.ref)) →
        Completes (.pdEnable tbl idx) s fun t =>
          (t.goSub i).state = stWait ∧ t.fget Reg.PD_RES_STATUS = 0 ∧ t.fbit Reg.PD_RES_DONE = true) ∧
      -- a GOOSE publication without authentication: its first state number is 1
      (∀ (c : PubCfg) (u v : State) (tys : List Word), k = 3 → c = { sv := false, ws := ws } →
        q.engReads 12 none c.mtab c.n = (u, .ok tys) → c.n ≠ 0 → (∀ w ∈ tys, 1 ≤ bits w 0 4 ∧ bits w 0 4 ≤ 5) →
        (∀ x ∈ c.ports, c.size (tys.map fun w => bits w 0 4) ≤ Nat.min (u.fget (Reg.NP_PCFG_MAXLEN x)) 2048) → c.auth = false →
        (u.setPub 3 i { Pub.off with state := pubRun }).gooseNew i c = (v, .ok ()) →
        Completes (.pdEnable tbl idx) s fun t =>
          (t.pub 3 i).state = pubRun ∧ (t.pub 3 i).stNum = 1 ∧ (t.pub 3 i).sqNum = 0 ∧ (t.pub 3 i).interval = c.mint ∧
          t.fget Reg.PD_RES_STATUS = 0 ∧ t.fbit Reg.PD_RES_DONE = true) ∧
      -- a sampled-value publication
      (∀ c : PubCfg, k = 4 → c = { sv := true, ws := ws } → 1 ≤ c.n → c.n ≤ 32 →
        (∀ x ∈ c.ports, c.size [] ≤ Nat.min (q.fget (Reg.NP_PCFG_MAXLEN x)) 2048) →
        Completes (.pdEnable tbl idx) s fun t =>
          (t.pub 4 i).state = pubRun ∧ (t.pub 4 i).sqNum = bits (c.w 17) 0 16 ∧
          t.fget Reg.PD_RES_STATUS = 0 ∧ t.fbit Reg.PD_RES_DONE = true)) ∧
    -- DISABLE of an entry that is not OFF, and that nothing names where it is a sampled-value subscription
    (s.entryState k i ≠ 0 →
      (k = 0 → s.pd.rs.all (fun e => decide (e.2.state = 0 ∨ e.2.sub ≠ i)) = true ∧ s.refNames i = false) →
      Completes (.pdDisable tbl idx) s fun t =>
        t.entryState k i = 0 ∧ t.fget Reg.PD_RES_STATUS = 0 ∧ t.fbit Reg.PD_RES_DONE = true) ∧
    -- what is refused: ENABLE of an entry that is not OFF, DISABLE of one that is, DISABLE of a subscription that is named
    (s.entryState k i ≠ 0 → Completes (.pdEnable tbl idx) s fun t =>
      t.pd = s.pd ∧ t.fget Reg.PD_RES_STATUS = stsConflict ∧ t.fbit Reg.PD_RES_DONE = true) ∧
    (s.entryState k i = 0 ∨ (k = 0 ∧ s.refNames i = true) → Completes (.pdDisable tbl idx) s fun t =>
      t.pd = s.pd ∧ t.fget Reg.PD_RES_STATUS = stsConflict ∧ t.fbit Reg.PD_RES_DONE = true) ∧
    -- a command waits where the entry's words cannot be read yet
    (∀ q : State, s.entryState k i = 0 → s.readEntry k i = (q, .wait) → Completes (.pdEnable tbl idx) s fun t =>
      t.pd.jobs = [.command 1 k i] ∧ t.fbit Reg.PD_RES_DONE = false)

/-- What happens to process data in time: subscriptions that fall silent, points and labels of resample sets, releases and
retransmissions of publications, discrete inputs and outputs (R389, R396 to R399, R404, R407, R408, R410, R415, R417, R418). -/
def Obligations.ProcessDataEvents : Prop :=
  ∀ s : State, s.calm = true →
    (∀ i : Fin 1024, (s.svSub i.val).state = stOk →
      Completes (.svTimeout i) s fun t =>
        (t.svSub i.val).state = stLost ∧ s.flagged t Reg.PD_STAT_SVLOSS Reg.PD_STAT_SVLOSS_MORE) ∧
    (∀ (i : Fin 4096) (c : GoCfg) (u q : State), (s.goSub i.val).state = stOk → (s.goSub i.val).deadline ≤ s.nowNs →
      c = { ws := s.peekEntry 2 i.val } →
      u = ((s.goState i.val c.part c.evsrc stLost).bumpWord 2 i.val 39 1).flag Reg.PD_STAT_GOLOSS Reg.PD_STAT_GOLOSS_MORE →
      ∀ r : Eng Unit, u.seqWrite c.part c.hint c.img [(c.img + 1, setBits (u.peek (c.img + 1)) 0 3 stLost)] = (q, r) →
      (r = .ok () → Completes (.gooseDeadline i) s fun t =>
        (t.goSub i.val).state = stLost ∧ s.flagged t Reg.PD_STAT_GOLOSS Reg.PD_STAT_GOLOSS_MORE ∧ t.mem = q.mem ∧ t.dram = q.dram) ∧
      (r = .wait → Completes (.gooseDeadline i) s fun t =>
        (t.goSub i.val).state = stLost ∧ s.flagged t Reg.PD_STAT_GOLOSS Reg.PD_STAT_GOLOSS_MORE ∧ t.pd.jobs.length = 1)) ∧
    -- RESAMPLE_POINT whose completing sample has been written, and LABEL_REACHED after the point was written
    (∀ (k : Fin 1024) (u q : State) (ws : List Word) (four : List (Option RawSample)) (c : RsCfg) (x : RsSet),
      (s.rsSet k.val).state = 1 → s.readEntry 1 k.val = (u, .ok ws) → c = { ws := ws } → x = u.rsSet k.val →
      u.bracket x.ref (c.target x.next) (u.svSub x.sub).hist.reverse = some four → u.formPoint k.val c = (q, .ok ()) →
      Completes (.resamplePoint k) s fun t =>
        (t.rsSet k.val).next = x.next + 1 ∧ (t.rsSet k.val).last = x.next ∧ (t.rsSet k.val).marked = some x.next ∧
        t.mem = q.mem ∧ t.dram = q.dram) ∧
    (∀ (k : Fin 1024) (u : State) (ws : List Word) (x : RsSet), x = s.rsSet k.val → x.state = 1 →
      angleAfter (mkRat x.label (bits (s.peek (s.entryAt 1 k.val 0)) 13 8 + 1)) (s.angleNow x.ref) = false →
      s.readEntry 1 k.val = (u, .ok ws) → u.rsSet k.val = x → x.label ≤ x.next →
      (x.marked = some x.label →
        Completes (.labelReached k) s fun t => t.rsSet k.val = { x with label := x.label + 1 }) ∧
      (∀ (c : RsCfg) (q : State), x.marked ≠ some x.label → c = { ws := ws } →
        u.engWrite 12 (some (engWho (u.subPart x.sub))) c.hint [(c.mark, 0)] = (q, .ok ()) →
        Completes (.labelReached k) s fun t =>
          t.rsSet k.val = { x with marked := none, label := x.label + 1 } ∧ t.mem = q.mem ∧ t.dram = q.dram)) ∧
    -- PUBLICATION_RELEASE: the oldest release leaves the queue; an entry for a discrete output writes its command
    (∀ (r : Released) (rest : List Released), s.pd.released = r :: rest →
      Completes .publicationRelease s (fun t => t.pd.released = rest) ∧
      (∀ (e : CommitEntry) (n : Nat), r.entries = [e] → r.final = false → n = targetOffset e.target →
        (n < 8 → Completes .publicationRelease s fun t =>
          t.pd.released = rest ∧ Tab.get 0 t.sch.outVal n = e.out ∧ t.outCmd n = bitAt e.out 0) ∧
        (∀ (q : State) (o : Option (Nat × Nat × Bool)), 8 ≤ n →
          (s.setPd { s.pd with released := rest }).takeValue n e.out = some (q, o) →
          Completes .publicationRelease s fun t =>
            t.pd.released = rest ∧ Tab.get 0 t.sch.outVal n = e.out ∧ t.mem = q.mem ∧ t.dram = q.dram ∧
            Tab.get [] t.pd.touched r.ctx = (match o with
              | some x => touch (Tab.get [] s.pd.touched r.ctx) x
              | none => Tab.get [] s.pd.touched r.ctx)))) ∧
    (∀ (g : Fin 512) (u q : State) (ws : List Word) (c : PubCfg) (x : Pub), (s.pub 3 g.val).state = pubRun →
      s.readEntry 3 g.val = (u, .ok ws) → c = { sv := false, ws := ws } → c.auth = false →
      x = { u.pub 3 g.val with sqNum := wrap32 (u.pub 3 g.val).sqNum, interval := c.nextInterval (u.pub 3 g.val).interval } →
      (u.setPub 3 g.val x).sendGoose g.val c = (q, .ok ()) →
      Completes (.gooseRetransmission g) s fun t => t.pub 3 g.val = x ∧ t.net = q.net) ∧
    -- discrete inputs
    (∀ (n : Fin 16) (level : Bool),
      Completes (.discreteInputChange n level) s fun t =>
        bitAt (t.rget Reg.PD_DISTAT) (16 + n.val) = level ∧
        (s.fbit (Reg.PD_DICFG_EN n.val) = true →
          bitAt (t.rget Reg.PD_DISTAT) n.val = (level != s.fbit (Reg.PD_DICFG_INV n.val)))) ∧
    -- discrete outputs
    (∀ n : Fin 8,
      (s.minOn n.val = false → exec (.minonExpiry n) s =
        .next ((s.setDiscOut n.val { s.discOut n.val with offDue := false }).driveOutput n.val)) ∧
      (s.minOn n.val = true → exec (.minonExpiry n) s = .next s)) ∧
    (∀ n : Fin 8,
      (s.deadmanRuns n.val = false → Completes (.deadmanExpiry n) s fun t =>
        t.outCmd n.val = false ∧ t.outOn n.val = false ∧ (t.discOut n.val).offDue = false) ∧
      (s.deadmanRuns n.val = true → exec (.deadmanExpiry n) s = .next s)) ∧
    (∀ (n : Fin 8) (high low : Bool),
      (high = s.outOn n.val → low = s.outOn n.val → exec (.railReadback n high low) s = .next s) ∧
      (¬ (high = s.outOn n.val ∧ low = s.outOn n.val) →
        Completes (.railReadback n high low) s fun t => bitAt (t.rget Reg.PD_DOSTAT) (Reg.PD_DOSTAT_FAULT.lo + n.val) = true)) ∧
    -- OUTPUT_BIND_STORE: to a binding that names no page at work, and to one that does
    (∀ (req : Requester) (kind : Fin 3) (n : Fin 512) (a : PWord) (v w : Word),
      a = (if kind = 0 then Reg.PD_GPB n.val else if kind = 1 then Reg.PD_SPB n.val else Reg.PD_DOB n.val) →
      (kind = 1 → n.val < 64) → (kind = 2 → n.val < 8) → s.storeGuard req.level a = none →
      w = s.storedWord req.level a v 0 →
      (bits (s.rget a) 0 13 = bits w 0 13 →
        Completes (.outputBindStore req kind n v) s fun t => t.rget a = w) ∧
      ((bitAt (s.rget a) 12 = true → pageIdle (s.entry (bits (s.rget a) 0 12)).state = true) →
        (bitAt w 12 = true → pageIdle (s.entry (bits w 0 12)).state = true) →
        Completes (.outputBindStore req kind n v) s fun t =>
          t.rget a = w ∧ (kind = 2 → bitAt w 12 = false → t.outCmd n.val = false ∧ t.outOn n.val = false)) ∧
      (bits (s.rget a) 0 13 ≠ bits w 0 13 → bitAt w 12 = true → pageIdle (s.entry (bits w 0 12)).state = false →
        exec (.outputBindStore req kind n v) s = .next (s.storeError req (addrWord a) 4)))

/-- Monitor calls that Rook carries out: the call returns with its status in n0 and its results after it (R429 to R434, R440, R442,
R524). `c` is the call that stands in the slot. -/
def Obligations.MonitorCalls : Prop :=
  ∀ (s : State) (slot : Fin 384) (c : MonCall), s.calm = true →
    -- VERSION
    (s.monCall slot.val 0 = some c → c.level = 1 ∨ c.level = 2 →
      Completes (.version slot) s fun t =>
        t.reg slot.val (regN 0) = 0 ∧ t.reg slot.val (regN 1) = s.rget Reg.RK_VER ∧ t.reg slot.val (regN 2) = s.rget Reg.RK_PSTAT ∧
        t.img slot.val iwPc = s.saved slot.val 3 0 ∧ t.img slot.val iwNpc = s.saved slot.val 3 1 ∧ t.level slot.val = c.level ∧
        t.mem = s.mem ∧ t.dram = s.dram) ∧
    -- KEYSTAT
    (s.monCall slot.val 2 = some c → c.level = 1 ∨ c.level = 2 → (c.arg 0).toNat ≤ 1023 →
      exec (.keystat slot) s = .next (s.monReturn slot.val 2 c stsOk
        [BitVec.ofNat 36 (s.keyState (c.arg 0).toNat),
         (match ((s.keyGroup (c.arg 0).toNat).at s.nowNs).cur with | some k => (time72 k.expiry 0).1 | none => 0),
         (match ((s.keyGroup (c.arg 0).toNat).at s.nowNs).cur with | some k => (time72 k.expiry 0).2 | none => 0)])) ∧
    -- HOLD, from the secure world
    (∀ d v : Nat, s.monCall slot.val 5 = some c → d = (c.arg 0).toNat → v = (c.arg 1).toNat → v ≤ 1 →
      (c.level = 1 → c.secure = true → d ≤ 86 → d ≠ 83 →
        exec (.hold slot) s = .next ((s.fset ⟨Reg.RK_HELD (d / 36), d % 36, 1⟩ v).monReturn slot.val 5 c stsOk)) ∧
      (c.secure = false → exec (.hold slot) s = .next (s.monReturn slot.val 5 c dxDenied))) ∧
    -- PREDCLR, of one core or of all
    (∀ w k : Nat, s.monCall slot.val 6 = some c → w = (c.arg 0).toNat → k = (c.arg 1).toNat → c.level = 1 → c.secure = true → w ≤ 1 →
      k ≤ 47 ∨ k = 63 →
      exec (.predclr slot) s =
        .next (((if k = 63 then List.range 48 else [k]).foldl (fun u x => u.clearPred x fun e => e.secure == decide (w = 1)) s).monReturn
          slot.val 6 c stsOk)) ∧
    -- SHWRITE: with no session by partition 0 while its configuration is not locked, and under a session's right
    (s.monCall slot.val 1 = some c → s.shCheck c = none →
      (∀ (q v : State) (st : Nat), c.arg 2 = 0 → s.shStore c.part none (shAddr (c.arg 0) / 4) (c.arg 1) = (q, st) →
        v = q.monReturn slot.val 1 c st → exec (.shwrite slot) s = .next (s.follow v).serve) ∧
      (c.arg 2 ≠ 0 → exec (.shwrite slot) s = .next (s.post slot.val 1 c))) ∧
    (∀ st : Nat, s.monCall slot.val 1 = some c → s.shCheck c = some st →
      exec (.shwrite slot) s = .next (s.monReturn slot.val 1 c st)) ∧
    -- UPDATE is posted to the secure core
    (s.monCall slot.val 4 = some c → s.updCheck c = none → exec (.update slot) s = .next (s.post slot.val 4 c)) ∧
    (∀ st : Nat, s.monCall slot.val 4 = some c → s.updCheck c = some st →
      exec (.update slot) s = .next (s.monReturn slot.val 4 c st)) ∧
    -- CRYPT queues a job of the partition
    (∀ (u : State) (ws : List Word) (src : Nat) (jobs : List CryptJob), s.monCall slot.val 3 = some c → c.level = 1 →
      (c.arg 0).toNat % 32 = 0 → s.engReads 15 (some (engWho c.part c.secure)) ((c.arg 0).toNat / 4) 8 = (u, .ok ws) →
      src = bits (ws.getD 0 0) 13 10 → 512 ≤ src → u.srcOwner src = c.part → 1 ≤ bits (ws.getD 0 0) 0 3 → bits (ws.getD 0 0) 0 3 ≤ 5 →
      jobs = Tab.get [] s.rook.jobs c.part → jobs.length < 4 →
      Completes (.crypt slot) s fun t =>
        Tab.get [] t.rook.jobs c.part = jobs ++ [{ desc := (c.arg 0).toNat / 4, secure := c.secure, ctx := c.ctx }] ∧
        t.reg slot.val (regN 0) = 0 ∧ t.img slot.val iwPc = u.saved slot.val 3 0 ∧ t.mem = u.mem ∧ t.dram = u.dram) ∧
    -- the secure core's answer to the oldest request of the slot, and its want
    (∀ (w : MonWait) (rest : List MonWait), takeWait slot.val s.rook.waits = some (w, rest) →
      (∀ (q v : State) (st : Nat), s.hung = false →
        State.takeRequest { s with rook := { s.rook with waits := rest } } w w.caller = some (q, st) →
        v = (if s.callStands w then q.monReturn slot.val w.call w.caller st else q) →
        exec (.secureCoreAnswer slot) s = .next (s.follow v).serve) ∧
      (s.callStands w = true →
        exec (.monitorCallTimeout slot) s =
          .next (State.monReturn { s with rook := { s.rook with waits := rest } } slot.val w.call w.caller dxNoService)))

/-- The start of Rook's image by the ROM; jobs, keys, the secure watchdog, the predictor's clear, updates and handover (R434, R436, R438,
R439, R442 to R447, R521, R524, R525). -/
def Obligations.SecureEvents : Prop :=
  -- SECURE_BOOT on a retired part, with an image that the ROM accepts, and with none
  (∀ s : State, s.running = true → s.settled = true → s.boot.rom = true → s.boot.refused = false →
    (bits (s.rget (Reg.RK_FUSE 16)) 2 2 = 3 →
      Completes .secureBoot s fun t => t.boot.refused = true ∧ t.boot.rom = true ∧ t.rook.keys = [] ∧ t.mem.sram = []) ∧
    (∀ u : State, bits (s.rget (Reg.RK_FUSE 16)) 2 2 ≠ 3 →
      (∀ (i : Nat) (h : Config.ImgHeader), s.choose = (u, some i) → h = Config.imageHeader (Tab.get [] u.boot.flash i) →
        Completes .secureBoot s fun t =>
          t.boot.rom = false ∧ t.boot.done = 0 ∧ t.domState 83 = 1 ∧ t.fget Reg.RK_PSTAT_IMG = i % 2 ^ Reg.RK_PSTAT_IMG.width ∧
          t.rget Reg.RK_VER = BitVec.ofNat 36 h.version ∧ t.rget Reg.RK_MVEC = setBits h.vector 0 2 0 ∧ t.boot.st = u.boot.st) ∧
      (s.choose = (u, none) → Completes .secureBoot s fun t => t.boot.refused = true ∧ t.boot.rom = true))) ∧
  (∀ s : State, s.calm = true →
    -- CRYPT_JOB_DONE: the oldest job ends with its done word written
    (∀ (p : Fin 16) (j : CryptJob) (rest : List CryptJob) (q v : State) (n : Nat), Tab.get [] s.rook.jobs p.val = j :: rest →
      s.domState 83 = 1 →
      State.doJob { s with rook := { s.rook with jobs := Tab.set [] s.rook.jobs p.val rest } } p.val j = some (q, n) →
      q.engWrite 15 (some (engWho p.val j.secure)) none [(j.desc + 6, BitVec.ofNat 36 n)] = (v, .ok ()) →
      Completes (.cryptJobDone p) s fun t => Tab.get [] t.rook.jobs p.val = rest ∧ t.mem = v.mem ∧ t.dram = v.dram) ∧
    -- KEY_EXPIRY
    (∀ (keyid : Fin 1024) (g : KeyGroup), g = s.keyGroup keyid.val →
      (∀ n : Key, g.succ = some n → n.start ≤ s.nowNs → (∀ k, g.cur = some k → k.alive s.nowNs = false) →
        Completes (.keyExpiry keyid) s fun t => t.keyGroup keyid.val = { cur := some n, succ := none }) ∧
      (∀ k : Key, g.cur = some k → k.alive s.nowNs = false → (∀ n, g.succ = some n → s.nowNs < n.start) →
        Completes (.keyExpiry keyid) s (fun t => t.keyGroup keyid.val = { cur := none, succ := g.succ }) ∧
        ((s.pd.gpub ++ s.pd.spub).all (fun e => decide (e.2.state ≠ pubRun)) = true →
          exec (.keyExpiry keyid) s = .next ((s.setKeyGroup keyid.val { cur := none, succ := g.succ }).raise 122))) ∧
      (∀ k : Key, g.cur = some k → k.alive s.nowNs = true → exec (.keyExpiry keyid) s = .next s)) ∧
    -- SECURE_WATCHDOG_EXPIRY in the compact profile and in the full profile
    (s.hung = false → s.fget Reg.RK_PSTAT_PROF ≠ 1 →
      Completes .secureWatchdogExpiry s fun t =>
        t.hung = true ∧ t.fget Reg.RK_WDSTAT_LEFT = 0 ∧ t.dict.toStore = [] ∧ t.fget Reg.DX_STAT_STORE = 0) ∧
    (s.hung = false → s.fget Reg.RK_PSTAT_PROF = 1 → Completes .secureWatchdogExpiry s fun t => s.coldStarted t 6) ∧
    -- RK_WDKICK_STORE by the secure core and by a core; RK_PCLR_STORE
    (∀ v : Word, exec (.rkWdkickStore none v) s = .next (s.fset Reg.RK_WDSTAT_LEFT (s.fget Reg.RK_CFG_WDPER))) ∧
    (∀ (r : Requester) (v : Word),
      exec (.rkWdkickStore (some r) v) s = .next (s.storeError r (addrWord Reg.RK_WDKICK) 0)) ∧
    (∀ (req : Requester) (v : Word),
      (s.storeGuard req.level Reg.RK_PCLR = none →
        exec (.rkPclrStore req v) s =
          .next ((if bits v 1 6 = 63 then List.range 48 else if bits v 1 6 < 48 then [bits v 1 6] else []).foldl
            (fun t c => t.clearPred c fun e => e.secure == bitAt v 0) s)) ∧
      (∀ sub : Nat, s.storeGuard req.level Reg.RK_PCLR = some sub →
        exec (.rkPclrStore req v) s = .next (s.reportGuard req (addrWord Reg.RK_PCLR) sub))) ∧
    -- HANDOVER to an image that verifies, and UPDATE_END
    (∀ (i : Nat) (h : Config.ImgHeader), s.boot.hand = some i → s.hung = false → s.accepts (Tab.get [] s.boot.flash i) = true →
      h = Config.imageHeader (Tab.get [] s.boot.flash i) →
      Completes .handover s fun t =>
        t.boot.hand = none ∧ t.rget Reg.RK_MVEC = setBits h.vector 0 2 0 ∧ t.rget Reg.RK_VER = BitVec.ofNat 36 h.version ∧
        t.fget Reg.RK_PSTAT_IMG = i % 2 ^ Reg.RK_PSTAT_IMG.width ∧ t.core = s.core ∧ t.mem = s.mem) ∧
    (∀ (i : Nat) (os : List (BitVec 8)), s.rook.upd = some (i, os) → s.hung = false →
      Completes .updateEnd s fun t =>
        t.rook.upd = none ∧ Tab.get [] t.boot.flash i = os ∧ t.imageState i = (if s.accepts os then imStaged else 0) ∧
        t.fget Reg.RK_PSTAT_UPDRES = (if s.accepts os then 1 else 2) ∧ t.fbit Reg.RK_PSTAT_UPD = false))

/-- Sessions, and the messages that they carry (R464 to R468, R470, R472). -/
def Obligations.DictionaryMessages : Prop :=
  ∀ s : State, s.calm = true →
    -- OPEN with a credential that allows it, and with none
    (∀ (tr : Transport) (role part cred : BitVec 8) (conf : Bool) (nc : BitVec 128), s.arrives tr = true → s.hung = false →
      (s.fbit Reg.DX_CFG_CONFREQ = true → conf = true) →
      (∀ (c : Cred) (n p : Nat), cred.toNat < 64 → s.cred cred.toNat = some c → c.locked = false → c.role = role.toNat →
        p = part.toNat → p < 16 → c.parts.getLsbD p = true → s.partExists p = true → s.trAllows tr p = true →
        (List.range 16).find? (fun k => decide (s.sessState k = 0)) = some n → s.sessionsOf p < s.fget (Reg.DX_QTA_SESS p) →
        role.toNat < 4 →
        Completes (.openSession tr role part cred conf nc) s fun t =>
          t.sessState n = 1 ∧ t.sessRole n = role.toNat ∧ t.sessPart n = p ∧ t.sessCred n = cred.toNat ∧ t.sessTr n = trCode tr ∧
          t.fbit (Reg.DX_SESS_CONF n) = conf ∧
          (t.sess n).map (·.nc) = some nc ∧ (t.sess n).map (·.ns) = some (Config.nonce s.freeCtr) ∧ (t.sess n).map (·.tr) = some (some tr)) ∧
      (∀ v : State, 64 ≤ cred.toNat ∨ s.cred cred.toNat = none → v = s.answerPlain tr mtOpen 0xFF (octetsBe 1 dxAuth) →
        exec (.openSession tr role part cred conf nc) s = .next (s.follow v).serve)) ∧
    -- PROVE with the right proof, and with another
    (∀ (tr : Transport) (sid : Fin 16) (proof : BitVec 256) (x : Session) (c : Cred), s.sess sid.val = some x →
      s.cred (s.sessCred sid.val) = some c → s.arrives tr = true → s.sessState sid.val = 1 →
      (∃ t, x.tr = some t ∧ sameTransport t tr = true) →
      (c.locked = false → proof = s.proofOf sid.val x c → c.role = s.sessRole sid.val → x.ending = false →
        Completes (.prove tr sid proof) s fun t =>
          t.sessState sid.val = 2 ∧ t.fget (Reg.DX_SESS_IDLE sid.val) = 0 ∧ (t.sess sid.val).map (·.km) = some (sessionKey c x 2) ∧
          (t.sess sid.val).map (·.ke) = some (sessionKey c x 3)) ∧
      (proof ≠ s.proofOf sid.val x c →
        Completes (.prove tr sid proof) s fun t =>
          t.sessState sid.val = 0 ∧ t.sess sid.val = none ∧ s.flagged t Reg.DX_EVT_AUTHF Reg.DX_EVT_AUTHF_MORE)) ∧
    (∀ sid : Fin 16, exec (.proveTimeout sid) s = .next (if s.sessState sid.val = 1 then s.freeSid sid.val else s)) ∧
    (∀ (cred : Fin 64) (c : Cred), s.cred cred.val = some c → c.locked = true →
      exec (.lockoutExpiry cred) s = .next (s.setCred cred.val (some { c with locked := false, fails := [] }))) ∧
    (∀ (sid : Fin 16) (x : Session), s.sess sid.val = some x → s.sessState sid.val = 2 →
      Nat.max 1 (s.fget Reg.DX_CFG_IDLE) ≤ s.fget (Reg.DX_SESS_IDLE sid.val) →
      (x.wait = .none → exec (.sessionIdleTimeout sid) s = .next (s.endSession sid.val 4)) ∧
      (x.wait ≠ .none → exec (.sessionIdleTimeout sid) s = .next (s.setSess sid.val (some { x with ending := true })))) ∧
    -- requests that their session accepts
    (∀ (m : DxHead) (x : Session) (n : Nat), n = m.sid.val →
      (∀ t v : State, s.accepted m mtPing [] x = true → t = s.heard m mtPing x → v = t.answer n mtPing stsOk [] →
        exec (.ping m) s = .next (s.follow v).serve) ∧
      (s.accepted m mtClose [] x = true →
        Completes (.close m) s fun t => t.sessState n = 0 ∧ t.sess n = none) ∧
      -- READ of an entry that the role may read, of one that it may not, and of none
      (∀ (index : BitVec 16) (sub group : BitVec 8) (offset : BitVec 32) (count : BitVec 16) (t v : State),
        s.accepted m mtRead (readPayload index.toNat sub.toNat group.toNat offset.toNat count.toNat) x = true → t = s.heard m mtRead x →
        (t.entryOf (t.sessPart n) index.toNat sub.toNat = none → v = t.answer n mtRead dxNoEntry [] →
          exec (.read m index sub group offset count) s = .next (s.follow v).serve) ∧
        (∀ (e : DxEntry) (d : EntryDesc), t.entryOf (t.sessPart n) index.toNat sub.toNat = some (e, d) →
          (t.mayRead n e d = false → v = t.answer n mtRead dxDenied [] →
            exec (.read m index sub group offset count) s = .next (s.follow v).serve) ∧
          (∀ (q : State) (r : DxValue), t.mayRead n e d = true →
            t.readEntryOf (t.sessPart n) index.toNat sub.toNat group.toNat offset.toNat count.toNat e d = (q, r) →
            v = q.answer n mtRead r.status r.octets r.pend →
            exec (.read m index sub group offset count) s = .next (s.follow v).serve))) ∧
      -- WRITE of an entry that is no setting: made with its record, or refused to the role
      (∀ (index : BitVec 16) (sub group : BitVec 8) (offset : BitVec 32) (value : List (BitVec 8)) (t v : State) (e : DxEntry)
          (d : EntryDesc) (at_ : Option (PWord × Bool)),
        s.accepted m mtWrite (writePayload index.toNat sub.toNat group.toNat offset.toNat false value) x = true →
        t = s.heard m mtWrite x → t.entryOf (t.sessPart n) index.toNat sub.toNat = some (e, d) → e ≠ .setting → e ≠ .group →
        at_ = (match e with | .domain b => t.domainAt (t.sessPart n) b offset.toNat | _ => none) →
        (∀ b, e = .domain b → at_ ≠ none) →
        (t.mayWrite n e d at_ value = false →
          v = t.refuseDx n mtWrite dxDenied (entryBlock (some e)) index.toNat sub.toNat →
          exec (.write m index sub group offset false value) s = .next (s.follow v).serve) ∧
        (∀ (ws : List Word) (u q : State) (val : List (BitVec 8)) (wait : DxWait) (stored : Bool),
          t.mayWrite n e d at_ value = true → parseValue d.ty d.len value = some ws → (∀ b, e = .domain b → ws.length = 1) →
          d.inRange ws = true → (needsRook (at_.map (·.1)) e d && t.hung) = false →
          (∀ st, (t.writeFixed (t.sessPart n) index.toNat sub.toNat offset.toNat e d ws value).2 ≠ .refused st) →
          t.moRoom (writeSlots d) = true →
          u = t.writeRecord n index.toNat sub.toNat group.toNat offset.toNat false d
            (t.oldWords (t.sessPart n) index.toNat sub.toNat offset.toNat ws.length e d) ws →
          u.writeFixed (t.sessPart n) index.toNat sub.toNat offset.toNat e d ws value = (q, .made val wait stored) →
          v = q.made n mtWrite val wait stored → exec (.write m index sub group offset false value) s = .next (s.follow v).serve)))

/-- Settings and flips, the configuration store and the mailboxes (R456, R457, R464, R470, R471). -/
def Obligations.SettingsAndMailboxes : Prop :=
  ∀ s : State, s.calm = true →
    -- WRITE of a setting: staged; to a group that is not active; to the active one, which starts a flip
    (∀ (m : DxHead) (x : Session) (n p g : Nat) (index : BitVec 16) (sub group : BitVec 8) (offset : BitVec 32) (stage : Bool)
        (value : List (BitVec 8)) (t : State) (d : EntryDesc) (ws : List Word) (w : SetWrite), n = m.sid.val →
      s.accepted m mtWrite (writePayload index.toNat sub.toNat group.toNat offset.toNat stage value) x = true → x.ending = false →
      t = s.heard m mtWrite x → p = t.sessPart n → t.entryOf p index.toNat sub.toNat = some (.setting, d) → index ≠ 0x700 →
      d.ty < tyOctets → t.mayWrite n .setting d none value = true → parseValue d.ty d.len value = some ws → d.inRange ws = true →
      t.groupOf p group.toNat = some g → (decide (d.pers = persStored) && t.hung) = false →
      w = { toGroup := g, words := ws, index := index.toNat, sub := sub.toNat, group := group.toNat,
            stored := decide (d.pers = persStored) } →
      (stage = true → x.stage.length < 64 →
        Completes (.write m index sub group offset stage value) s fun u =>
          (u.sess n).map (·.stage) = some (x.stage ++ [w]) ∧ u.dict.settings = s.dict.settings ∧ u.dict.flips = s.dict.flips) ∧
      (stage = false → t.moRoom (writeSlots d) = true →
        (g ≠ t.activeGroup p →
          Completes (.write m index sub group offset stage value) s fun u =>
            Tab.get [] u.dict.settings (setKey p g index.toNat sub.toNat) = ws ∧ u.dict.flips = s.dict.flips) ∧
        (g = t.activeGroup p → Tab.get none t.dict.flips p = none →
          Completes (.write m index sub group offset stage value) s fun u =>
            Tab.get none u.dict.flips p = some { sid := n, group := g, changes := [w], stored := w.stored } ∧
            u.fget (Reg.DX_SPL_FLIP p) = 1 ∧ (u.sess n).map (·.wait) = some .flip ∧ u.dict.settings = s.dict.settings))) ∧
    -- APPLY: every staged write goes into one flip
    (∀ (m : DxHead) (x : Session) (n p : Nat) (t : State), n = m.sid.val → s.accepted m mtApply [] x = true →
      t = s.heard m mtApply x → p = t.sessPart n → (x.stage.any (·.stored) && t.hung) = false → Tab.get none t.dict.flips p = none →
      t.moRoom (3 * x.stage.length) = true →
      Completes (.apply m) s fun u =>
        Tab.get none u.dict.flips p =
          some { sid := n, group := t.activeGroup p, changes := x.stage, stored := x.stage.any (·.stored) } ∧
        u.fget (Reg.DX_SPL_FLIP p) = 1 ∧ (u.sess n).map (·.stage) = some [] ∧ (u.sess n).map (·.wait) = some .flip) ∧
    -- FLIP, once no run of before the last flip is running
    (∀ (p : Fin 16) (fl : Flip), Tab.get none s.dict.flips p.val = some fl →
      ((Tab.get [] s.dict.oldRuns p.val).any fun r => (s.runningRuns p.val).contains r) = false →
      Completes (.flip p) s fun t =>
        Tab.get none t.dict.flips p.val = none ∧ t.fget (Reg.DX_SPL_FLIP p.val) = 0 ∧
        (∀ w : SetWrite, fl.changes = [w] → w.index ≠ 0x700 →
          Tab.get [] t.dict.settings (setKey p.val w.toGroup w.index w.sub) = w.words)) ∧
    -- CONFIGURATION_STORE_WRITE: the area with the lower generation takes the next one
    (s.dict.toStore ≠ [] → s.hung = false →
      Completes .configurationStoreWrite s fun t =>
        t.dict.toStore = [] ∧ t.fget Reg.DX_STAT_STORE = 0 ∧
        (s.dict.gen ≤ s.dict.gen2 → t.dict.area = s.dict.store ∧ t.dict.gen = (s.dict.gen2 + 1) % 2 ^ 36 ∧
          t.dict.area2 = s.dict.area2 ∧ t.dict.gen2 = s.dict.gen2) ∧
        (s.dict.gen2 < s.dict.gen → t.dict.area2 = s.dict.store ∧ t.dict.gen2 = (s.dict.gen + 1) % 2 ^ 36 ∧
          t.dict.area = s.dict.area ∧ t.dict.gen = s.dict.gen)) ∧
    -- the mailboxes
    (∀ (req : Requester) (p : Fin 16) (v : Word),
      exec (.dxMdbStore req p v) s = .next (if s.fbit (Reg.DX_MST_BUSY p.val) then s else s.fset (Reg.DX_MST_BUSY p.val) 1)) ∧
    (∀ (p : Fin 16) (os : List (BitVec 8)) (q : State), os = Tab.get [] s.dict.mbox p.val → os ≠ [] →
      s.fbit (Reg.DX_MST_BUSY p.val) = true →
      s.engWrite 15 (some (engWho p.val)) none
        (wordsAt (16 * s.fget (Reg.DX_MBUF_BASE p.val)) (copyWords tyOctets (os.map fun o => o.setWidth 36))) = (q, .ok ()) →
      Completes (.mailboxResponse p) s fun t =>
        t.fbit (Reg.DX_MST_BUSY p.val) = false ∧ t.fget (Reg.DX_MST_RLEN p.val) = os.length % 2 ^ (Reg.DX_MST_RLEN p.val).width ∧
        s.flagged t (Reg.DX_MST_DONE p.val) (Reg.DX_MST_DONE_MORE p.val) ∧ Tab.get [] t.dict.mbox p.val = [] ∧
        t.mem = q.mem ∧ t.dram = q.dram)

/-- The Moraine (R474, R476, R477, R480): its writer, the scan and the reading of a slot. -/
def Obligations.MoraineCommands : Prop :=
  ∀ s : State, s.settled = true →
    -- MORAINE_SLOT_WRITE that reads back, and one that does not
    (∀ (q : MoPend) (rest : List MoPend) (base i : Nat), s.fbit Reg.MO_STAT_READY = true → s.mor.queue = q :: rest →
      base = (if s.mor.done = [] ∧ q.ff = false then s.mor.next else s.mor.base) →
      i = (if q.ff then s.fget Reg.MO_STAT_FFCNT + q.idx else (base + q.idx) % ringSlots) →
      (Completes (.moraineSlotWrite true) s fun t =>
        (if q.ff then t.moFf i else t.moRing i) =
          { words := q.words.map sealWord, tag := moTag (base + q.idx) (decide (q.idx ≠ 0)) true } ∧
        (q.idx = 0 → q.ff = false → t.mor.next = base + q.total) ∧ (q.idx ≠ 0 → t.mor.next = s.mor.next) ∧
        (s.mor.dropped = 0 → s.mor.powerFail = false → t.mor.queue = rest)) ∧
      (Completes (.moraineSlotWrite false) s fun t =>
        (if q.ff then t.moFf i else t.moRing i) =
          { words := q.words.map sealWord, tag := moTag (base + q.idx) (decide (q.idx ≠ 0)) false } ∧
        t.mor.queue = s.mor.done ++ q :: rest ∧ t.mor.done = [] ∧ (q.ff = false → t.mor.next = base + q.total) ∧
        s.flagged t Reg.MO_EVT_MERR Reg.MO_EVT_MERR_MORE)) ∧
    (s.running = true → s.fbit Reg.MO_STAT_READY = false →
      Completes .moraineScanComplete s fun t =>
        t.fbit Reg.MO_STAT_READY = true ∧ t.mor.next = Nat.max s.mor.next (scanNext s.mor.ring) ∧ t.mor.ring = s.mor.ring ∧
        t.mor.queue = s.mor.queue) ∧
    (∀ (req : Requester) (v : Word), s.running = true →
      (s.fbit Reg.MO_RST_DONE = false → exec (.moRselLoStore req v) s = .next s) ∧
      (s.fbit Reg.MO_RST_DONE = true → s.storeGuard req.level Reg.MO_RSEL_LO = none →
        Completes (.moRselLoStore req v) s fun t =>
          t.rget Reg.MO_RSEL_LO = s.storedWord req.level Reg.MO_RSEL_LO v 0 ∧ t.fbit Reg.MO_RST_DONE = false ∧ t.mor.reading = true)) ∧
    (∀ (ff : Bool) (sel : Nat), s.running = true → s.mor.reading = true → ff = s.fbit Reg.MO_RSEL_HI_FF →
      sel = (if ff then (s.rget Reg.MO_RSEL_LO).toNat else s.fget Reg.MO_RSEL_HI_SEQ * 2 ^ 36 + (s.rget Reg.MO_RSEL_LO).toNat) →
      (s.fbit Reg.MO_STAT_READY = false ∨ s.selectedSlot ff sel = none →
        Completes .moraineReadDone s fun t =>
          t.fget Reg.MO_RST_STATUS = 1 ∧ t.fbit Reg.MO_RST_DONE = true ∧ t.mor = { s.mor with reading := false }) ∧
      (∀ x : MoSlot, s.fbit Reg.MO_STAT_READY = true → s.selectedSlot ff sel = some x →
        Completes .moraineReadDone s fun t =>
          t.fget Reg.MO_RST_STATUS = x.read.1 ∧ t.fbit Reg.MO_RST_DONE = true ∧
          (∀ k, k < 4 → t.rget (Reg.MO_RW k) = x.read.2.getD k 0) ∧
          t.fget Reg.MO_RTAG_HI_T * 2 ^ 36 + t.fget Reg.MO_RTAG_LO_T = x.tag.toNat ∧ t.mor = { s.mor with reading := false }))

/-- Requests of a host: configuration space, reads and writes of BAR0 and BAR2, and what is refused (R486 to R494, R498, R499). -/
def Obligations.PcieRequests : Prop :=
  ∀ (s : State) (f : Fin 17) (n : Nat), s.calm = true → n = f.val →
    -- CONFIGURATION_REQUEST: while the endpoint is not enabled, of a function that is absent, a read, a write
    (∀ (dw : Fin 1024) (write : Option (BitVec 32 × BitVec 4)),
      (s.fbit Reg.PX_CTL_EN = false → exec (.configurationRequest f dw write) s = .next (s.complete 2 false [])) ∧
      (s.fbit Reg.PX_CTL_EN = true → s.pxPresent n = false →
        exec (.configurationRequest f dw write) s = .next (s.complete 1 false [])) ∧
      (s.fbit Reg.PX_CTL_EN = true → s.pxPresent n = true →
        exec (.configurationRequest f dw none) s =
          .next (s.complete 0 false ((List.range 4).map (dwordOctet (s.cfgRead n dw.val)))))) ∧
    (∀ (dw : Fin 1024) (v : BitVec 32) (be : BitVec 4) (c : CfgSpec) (en rw : BitVec 32) (u : State),
      s.fbit Reg.PX_CTL_EN = true → s.pxPresent n = true → c = s.cfgSpec n dw.val →
      (∀ k, k < 32 → en.getLsbD k = be.getLsbD (k / 8)) → rw = BitVec.ofNat 32 c.rw &&& en →
      u = s.setCfgRaw n dw.val
        (((s.cfgRaw n dw.val &&& ~~~rw) ||| (v &&& rw)) &&& ~~~(v &&& BitVec.ofNat 32 c.w1c &&& en)) →
      (s.pxVfs ≤ u.pxVfs → (dw.val = 30 → v.getLsbD 15 = true → be.getLsbD 1 = false) →
        exec (.configurationRequest f dw (some (v, be))) s = .next (u.pxShow.complete 0 false [])) ∧
      -- VFs that it removes, and the function whose Initiate FLR it sets, are reset
      (∀ x y : State, x = (u.dropVfs s.pxVfs) → y = (if dw.val = 30 ∧ v.getLsbD 15 = true ∧ be.getLsbD 1 = true then x.flrOf n else x) →
        exec (.configurationRequest f dw (some (v, be))) s = .next (s.follow (y.pxShow.complete 0 false [])).serve)) ∧
    -- an inbound request while the endpoint is without power, or a write of its own is not visible yet
    (∀ (form : InForm) (bar : Bar) (off : BitVec 40), s.domState 81 ≠ 1 ∨ s.writesWait 13 = true →
      (∀ len : Fin 4097, exec (.inboundRead f form bar off len) s = .next s) ∧
      (∀ octets : List (Option (BitVec 8)), exec (.inboundWrite f form bar off octets) s = .next s)) ∧
    -- requests that R499 refuses, with and without a completion
    (s.domState 81 = 1 → s.writesWait 13 = false →
    (∀ (form : InForm) (bar : Bar) (off : BitVec 40) (t : State) (ur : Bool), s.pxRefuse n form bar = some (t, ur) →
      (∀ len : Fin 4097, exec (.inboundRead f form bar off len) s = .next (if ur then t.complete 1 false [] else t)) ∧
      (∀ octets : List (Option (BitVec 8)), exec (.inboundWrite f form bar off octets) s = .next t)) ∧
    -- BAR0
    (∀ (form : InForm) (off : BitVec 40), s.pxRefuse n form .bar0 = none →
      (∀ len : Fin 4097,
        exec (.inboundRead f form .bar0 off len) s =
          .next (s.complete 0 false ((List.range len.val).map fun k => s.bar0Octet n (off.toNat % 0x2000 + k)))) ∧
      (∀ b : BitVec 8, 0x1000 ≤ off.toNat % 0x2000 → off.toNat % 0x2000 < 0x15C0 → s.fbit (Reg.PX_FMBST_BUSY n) = false →
        s.pcie.held = false →
        Completes (.inboundWrite f form .bar0 off [some b]) s fun t =>
          Tab.get 0 t.pcie.mbuf (2048 * n + (off.toNat % 0x2000 - 0x1000)) = b ∧ t.regs = s.regs ∧ t.mem = s.mem) ∧
      (∀ len : Nat, off.toNat % 0x2000 = 64 → 1 ≤ len → len ≤ 1472 → s.fbit (Reg.PX_FMBST_BUSY n) = false → s.pcie.held = false →
        exec (.inboundWrite f form .bar0 off ((List.range 5).map fun i => some (BitVec.ofNat 8 (len / 2 ^ (8 * i))))) s =
          .next (s.fset (Reg.PX_FMBST_BUSY n) 1))) ∧
    -- BAR2: a window's words are read and written as the partition's, within its rights
    (∀ (form : InForm) (off : BitVec 40) (w o : Nat), s.pxRefuse n form .bar2 = none →
      s.windowAt n (off.toNat % 2 ^ s.barLog n) = some (w, o) → s.pastWindow n w o = false →
      (∀ (len : Fin 4097) (ws : List Nat),
        o + len.val ≤ 2 ^ s.fget (Reg.PX_IWA_LOG2 n w) → ws = viewWords (s.fbit (Reg.PX_IWA_VIEW n w)) o len.val →
        (∀ i ∈ ws, i < s.windowWords n w → s.hostMay n w i false = true) →
        (∀ (q : State) (l : List (Nat × Word)) (bad : Bool), State.hostWords n w ws s = some (q, l, bad) →
          Completes (.inboundRead f form .bar2 off len) s fun t =>
            t.pcie.cpl = some { status := 0, ep := bad, octets :=
              (List.range len.val).map fun k => viewOctet (s.fbit (Reg.PX_IWA_VIEW n w)) (wordIn l) (o + k) } ∧
            t.mem = q.mem ∧ t.dram = q.dram) ∧
        (State.hostWords n w ws s = none → exec (.inboundRead f form .bar2 off len) s = .next s)) ∧
      (∀ (octets : List (Option (BitVec 8))) (ws : List Nat) (r : List (Nat × Word)) (q : State),
        o + octets.length ≤ 2 ^ s.fget (Reg.PX_IWA_LOG2 n w) →
        ws = (viewWords (s.fbit (Reg.PX_IWA_VIEW n w)) o octets.length).filter (fun i => decide (i < s.windowWords n w)) →
        writtenWords (s.fbit (Reg.PX_IWA_VIEW n w)) octets o ws = (r, []) → (∀ x ∈ r, s.hostMay n w x.1 true = true) →
        q = s.engStore 13 (hintOf (s.fget (Reg.PX_IWA_TCL n w)) (s.fbit (Reg.PX_IWA_TCLV n w)))
          (r.map fun x => (s.windowWord n w x.1, x.2)) →
        exec (.inboundWrite f form .bar2 off octets) s = .next (s.follow q).serve)))

/-- The link, outbound loads, interrupts and windows of the endpoint (R484, R492, R495 to R497, R500 to R502). -/
def Obligations.PcieEvents : Prop :=
  ∀ s : State, s.calm = true →
    (∀ (speed : Fin 5) (lanes : Fin 9), s.domState 81 = 1 →
      Completes (.pcieLinkUp speed lanes) s fun t =>
        t.fget Reg.PX_STAT_LINK = 2 ∧ t.fget Reg.PX_STAT_SPEED = Nat.min speed.val (clampNat 1 4 (s.fget Reg.PX_CTL_MAXSPD)) ∧
        t.fget Reg.PX_STAT_WIDTH = lanes.val ∧ t.fget Reg.PX_STAT_PERST = 0 ∧ s.flagged t Reg.PX_EVT_LINK Reg.PX_EVT_LINK_MORE) ∧
    -- the completion of an outbound load, one that fails or is poisoned, and none
    (∀ (slot : Fin 384) (l : LoadWait) (q : State), s.sentLoad slot.val = some l →
      (∀ data : BitVec 64, q = (s.finishLoad slot.val l (s.outValue l.pa data)).pumpNext →
        exec (.outboundCompletion slot 0 false data) s = .next (s.follow q).serve) ∧
      (∀ (status : Fin 3) (ep : Bool) (data : BitVec 64), status ≠ 0 ∨ ep = true →
        q = (s.failLoad slot.val l (if status ≠ 0 then 3 else 1)).pumpNext →
        exec (.outboundCompletion slot status ep data) s = .next (s.follow q).serve) ∧
      (q = ((s.pxEvent Reg.PX_EVT_CTO Reg.PX_EVT_CTO_MORE).failLoad slot.val l 3).pumpNext →
        exec (.completionTimeout slot) s = .next (s.follow q).serve)) ∧
    -- PX_FIRQ_STORE: its vector takes its place in the queue
    (∀ (req : Requester) (f : Fin 17) (v : Word) (n : Nat), s.pcie.queue = [] →
      n = bits v 0 6 % (if f.val = 0 ∧ s.fget (Reg.PX_FCTL_IMODE 0) = 2 then 32 else pxVectors f.val) →
      Completes (.pxFirqStore req f v) s fun t =>
        t.vecPending f.val n = true ∧ t.pcie.queue = [.vector f.val n] ∧
        (s.vecPending f.val n = true → bitAt (t.rget (Reg.PX_FPEND f.val (n / 16))) (16 + n % 16) = true)) ∧
    -- INTERRUPT_MESSAGE_SEND of the vector at the front; what is behind it up to the next vector goes out too
    (∀ (f n : Nat) (rest : List PxTlp) (a : List PxTlp × List PxTlp), s.pcie.queue = .vector f n :: rest →
      a = ahead (32 - s.readsOut) rest →
      (∀ (x : BitVec 64) (d : BitVec 32), s.vectorMessage f n = some (.message f x d) →
        Completes .interruptMessageSend s fun t =>
          t.vecPending f n = false ∧ t.pcie.queue = a.2 ∧
          t.pcie.sent = .message f x d :: (if s.pcie.inta && !t.anyPending 0 then .inta false :: a.1 else a.1)) ∧
      (s.vectorMessage f n = some (.inta true) →
        Completes .interruptMessageSend s fun t =>
          t.pcie.inta = true ∧ t.regs = s.regs ∧ t.pcie.sent = .inta true :: a.1 ∧ t.pcie.queue = a.2) ∧
      (s.vectorMessage f n = none →
        Completes .interruptMessageSend s fun t => t.regs = s.regs ∧ t.pcie.sent = a.1 ∧ t.pcie.queue = a.2)) ∧
    -- PX_IWA_STORE of a window that may be in force, and of one that may not
    (∀ (req : Requester) (f : Fin 17) (w : Fin 8) (v : Word) (a : PWord), a = Reg.PX_IWA f.val w.val → s.storeGuard req.level a = none →
      (s.fbit (Reg.PX_IWA_V f.val w.val) = false → (bitAt v 30 = true → s.windowSound f.val w.val v = true) →
        exec (.pxIwaStore req f w v) s = .next (s.rset a (s.storedWord req.level a v 0))) ∧
      (s.fbit (Reg.PX_IWA_V f.val w.val) = true ∨ (bitAt v 30 = true ∧ s.windowSound f.val w.val v = false) →
        Completes (.pxIwaStore req f w v) s fun t =>
          t.rget a = s.rget a ∧ s.flagged t Reg.PX_EVT_CFGREF Reg.PX_EVT_CFGREF_MORE)) ∧
    -- resets of a function and of the link, and what they leave where no outbound load is in flight
    (∀ f : Fin 17,
      exec (.flr f) s = .next (s.follow (s.flrOf f.val)).serve ∧
      ((s.core.slots.all fun e => e.2.outLoad.isNone) = true →
        Completes (.flr f) s fun t =>
          t.pcie.cfg = Tab.keep (fun k => decide (k / 1024 ≠ f.val)) s.pcie.cfg ∧
          t.pcie.msix = Tab.keep (fun k => decide (k / 256 ≠ f.val)) s.pcie.msix ∧ t.pcie.failed = [] ∧
          s.flagged t Reg.PX_EVT_FLR Reg.PX_EVT_FLR_MORE)) ∧
    (∀ how : Fin 3,
      exec (.hotReset how) s = .next (s.follow (runHotReset how s)).serve ∧
      ((s.core.slots.all fun e => e.2.outLoad.isNone) = true →
        Completes (.hotReset how) s fun t =>
          t.fget Reg.PX_STAT_LINK = (if how = 1 then 1 else 0) ∧ (how = 0 → t.fget Reg.PX_STAT_PERST = 1) ∧
          (∀ e ∈ t.pcie.cfg, 17 ≤ e.1 / 1024) ∧ (∀ e ∈ t.pcie.msix, 17 ≤ e.1 / 256) ∧ t.pcie.failed = [] ∧
          (how = 0 ∨ how = 1 → s.flagged t Reg.PX_EVT_HOTRST Reg.PX_EVT_HOTRST_MORE) ∧
          (how = 2 → s.fget Reg.PX_STAT_LINK ≠ 0 → s.flagged t Reg.PX_EVT_LINK Reg.PX_EVT_LINK_MORE)))

/-- Power requests, domains, rails and sensors (R505 to R508, R511, R512). -/
def Obligations.PowerAndSensors : Prop :=
  ∀ s : State, s.settled = true →
    -- PM_ON, PM_CLKOFF and PM_OFF
    (∀ (req : Requester) (dom : BitVec 7) (op d : Nat) (c : Instr), s.running = true → d = dom.toNat →
      (op = 1 ∧ c = .pmOn req dom ∨ op = 2 ∧ c = .pmClkoff req dom ∨ op = 3 ∧ c = .pmOff req dom) →
      (s.fbit Reg.PM_RES_DONE = false →
        exec c s =
          .next ((s.flag Reg.PM_RES_BUSYHIT Reg.PM_RES_BUSYHIT_MORE).refusal stsBusy req.part.val req.ctx.val blkPM op d)) ∧
      (s.fbit Reg.PM_RES_DONE = true →
        (∀ tgt : Nat, 48 ≤ d → d ≤ 86 → 6 ≤ s.boot.done → (s.domHeld d = true → req.secure = true ∨ req.level = .m) →
          powerTarget (s.domState d) op = some tgt → s.domState d ≠ 3 → (op = 1 → s.starved d = false) →
          (2 ≤ op → s.mayGate d op = true) →
          Completes c s fun t =>
            t.pow.trans = some (d, tgt) ∧ t.fbit Reg.PM_RES_DONE = false ∧ t.domState d = s.domState d) ∧
        (∀ st : Nat, st = s.judgePower req op d → st ≠ stsOk →
          exec c s = .next ((s.refusal st req.part.val req.ctx.val blkPM op d).pmResult st)) ∧
        (op = 3 → 48 ≤ d → d ≤ 86 → 6 ≤ s.boot.done → s.domHeld d = false → s.domState d = 3 →
          Completes c s fun t => t.domState d = 0 ∧ t.fget Reg.PM_RES_STATUS = 0 ∧ t.fbit Reg.PM_RES_DONE = true))) ∧
    (∀ d st : Nat, s.running = true → s.pow.trans = some (d, st) → d ≤ 86 → st < 4 →
      Completes .domainTransitionComplete s fun t =>
        t.domState d = st ∧ t.pow.trans = none ∧ t.fget Reg.PM_RES_STATUS = 0 ∧ t.fbit Reg.PM_RES_DONE = true) ∧
    (∀ d : Fin 87, s.running = true → s.domState d.val = 1 ∨ s.domState d.val = 2 →
      (d.val = 81 → (s.core.slots.all fun e => e.2.outLoad.isNone) = true) →
      Completes (.domainLost d) s fun t =>
        s.flagged t Reg.PM_EVT_DLOST Reg.PM_EVT_DLOST_MORE ∧ (48 ≤ d.val → t.domState d.val = 3)) ∧
    -- rails
    (∀ (r : Fin 12) (mv : BitVec 12), s.running = true →
      (r.val ≠ 0 → r.val ≠ 3 → Tab.get false s.pow.railOut r.val = false → s.railWithin r.val mv.toNat = false →
        Completes (.railExcursion r mv) s fun t =>
          t.fget (Reg.PM_RAIL_VAL r.val) = mv.toNat ∧ Tab.get false t.pow.railOut r.val = true ∧
          s.flagged t Reg.PM_EVT_RAIL Reg.PM_EVT_RAIL_MORE) ∧
      (r.val = 0 ∨ r.val = 3 ∨ Tab.get false s.pow.railOut r.val = true ∨ s.railWithin r.val mv.toNat = true →
        exec (.railExcursion r mv) s = .next (s.fset (Reg.PM_RAIL_VAL r.val) mv.toNat)) ∧
      (Tab.get false s.pow.railOut r.val = true → s.railWithin r.val mv.toNat = true →
        Completes (.railBack r mv) s fun t =>
          t.fget (Reg.PM_RAIL_VAL r.val) = mv.toNat ∧ Tab.get false t.pow.railOut r.val = false ∧
          s.flagged t Reg.PM_EVT_RBACK Reg.PM_EVT_RBACK_MORE)) ∧
    -- sensors: a reading, one beyond HI, one of 125 °C or more, and the end of a thermal shutdown
    (∀ (k : Fin 16) (temp : BitVec 12),
      (s.running = true → temp.toInt < 500 →
        Completes (.sensorRead k temp) s fun t =>
          t.fget (Reg.PM_TSEN_TEMP k.val) = temp.toNat ∧
          tempOf (t.fget (Reg.PM_TSEN_MAX k.val)) = max (tempOf (s.fget (Reg.PM_TSEN_MAX k.val))) temp.toInt ∧
          (tempOf (s.fget (Reg.PM_TLIM_HI k.val)) < temp.toInt → Tab.get false s.pow.tempHi k.val = false →
            Tab.get false t.pow.tempHi k.val = true ∧ s.flagged t Reg.PM_EVT_TEMP Reg.PM_EVT_TEMP_MORE) ∧
          (temp.toInt < tempOf (s.fget (Reg.PM_TLIM_HI k.val)) - s.fget (Reg.PM_TLIM_HYST k.val) →
            Tab.get false s.pow.tempHi k.val = true →
            Tab.get false t.pow.tempHi k.val = false ∧ s.flagged t Reg.PM_EVT_TBACK Reg.PM_EVT_TBACK_MORE)) ∧
      (s.running = true → 500 ≤ temp.toInt →
        Completes (.sensorRead k temp) s fun t => s.coldStarted t 5 ∧ t.pow.hold = .thermal) ∧
      (s.pow.hold = .thermal →
        Completes (.sensorRead k temp) s fun t =>
          t.fget (Reg.PM_TSEN_TEMP k.val) = temp.toNat ∧
          ((∀ i, i < 16 → tempOf (t.fget (Reg.PM_TSEN_TEMP i)) < 460) → t.pow.hold = .none) ∧
          (460 ≤ temp.toInt → t.pow.hold = .thermal)))

/-- Resets, the power fail, and the steps of the release (R508, R510, R512, R513, R516 to R519, R522, R552). -/
def Obligations.ResetsAndPowerFail : Prop :=
  ∀ s : State,
    -- cold resets
    (s.pow.hold ≠ .failed → Completes .resetNLow s fun t => s.coldStarted t 2 ∧ t.pow.hold = .por) ∧
    (Completes .testenHigh s fun t => s.coldStarted t 1 ∧ t.pow.testen = true) ∧
    (∀ req : Requester, s.running = true → s.storeGuard req.level Reg.PM_RST = none →
      Completes (.pmRstCold req) s fun t => s.coldStarted t 3 ∧ t.running = true) ∧
    (∀ (req : Requester) (sub : Nat), s.calm = true → s.storeGuard req.level Reg.PM_RST = some sub →
      exec (.pmRstCold req) s = .next (s.reportGuard req (addrWord Reg.PM_RST) sub) ∧
      exec (.pmRstWarm req) s = .next (s.reportGuard req (addrWord Reg.PM_RST) sub)) ∧
    -- the warm reset
    (∀ req : Requester, s.storeGuard req.level Reg.PM_RST = none →
      (s.running = true → s.settled = true → s.boot.done < 6 →
        exec (.pmRstWarm req) s = .next (s.refusal stsBusy req.part.val req.ctx.val blkPM 1 0)) ∧
      (s.calm = true →
        Completes (.pmRstWarm req) s fun t =>
          t.pow.warm = true ∧ t.fget Reg.PM_RSTC_CAUSE = 7 ∧ t.boot.done = 0 ∧ t.core.tlb = [] ∧ t.core.pins = [] ∧ t.sch.commit = [] ∧
          t.sch.ports = [] ∧ t.rook.waits = [] ∧ t.mor.ring = s.mor.ring ∧ t.boot.flash = s.boot.flash ∧ t.rook.keys = s.rook.keys)) ∧
    -- the release of power-on reset, with and without a power fail before it
    (∀ refsel : Bool, s.running = false → s.pow.hold ≠ .thermal →
      (s.mor.powerFail = true →
        Completes (.powerOnResetRelease refsel) s fun t =>
          s.coldStarted t 1 ∧ t.running = true ∧ t.fget Reg.AN_TB_CFG_REF25 = b2n refsel) ∧
      (s.mor.powerFail = false → s.settled = true →
        exec (.powerOnResetRelease refsel) s =
          .next ((s.setPow { s.pow with hold := .none, testen := false }).fset Reg.AN_TB_CFG_REF25 (b2n refsel)))) ∧
    -- POWER_FAIL and the end of the hold-up supply
    (∀ rail : Option (Fin 12), s.running = true →
      (rail = none → s.fbit Reg.PM_PFCFG_PFEN = true) → (∀ r, rail = some r → r.val = 0 ∨ r.val = 3) →
      Completes (.powerFail rail) s fun t =>
        t.pow.hold = .failed ∧ t.mor.powerFail = true ∧ t.sch.commit = [] ∧
        (∀ i, i ∈ s.core.slots.map (·.1) → (t.slot i).gate = false) ∧
        (∀ n, n < 8 → t.outCmd n = false ∧ t.outOn n = false) ∧
        (∀ k, k < 2 → t.fbit (Reg.NP_BYP_HEALTHY k) = false ∧ t.fbit (Reg.NP_BYP_HOLD k) = false)) ∧
    (s.pow.hold = .failed → s.relayDue 0 = false → s.relayDue 1 = false →
      exec .holdUpEnd s =
        .next (((s.setMor { s.mor with queue := [], done := [] }).qdep).setPow
          { ((s.setMor { s.mor with queue := [], done := [] }).qdep).pow with hold := .por })) ∧
    -- BLOCK_RELEASE, step by step
    (s.running = true → s.settled = true → (s.boot.rom = true → exec .blockRelease s = .next s) ∧
      (s.boot.rom = false →
        (s.boot.done = 0 → s.pow.warm = false →
          Completes .blockRelease s fun t => t.boot.done = 1 ∧ ∀ d, 74 ≤ d → d ≤ 80 → t.domState d = 1) ∧
        (s.boot.done = 0 → s.pow.warm = true → Completes .blockRelease s fun t => t.boot.done = 1 ∧ t.pow.warm = true) ∧
        (s.boot.done = 1 → s.pow.warm = false → ∀ u : State, u = s.loadLmap.domsOn (fromTo 60 8 ++ fromTo 68 6) →
          (∀ c ∈ u.chList, u.chState c = chActive) → Completes .blockRelease s fun t => t.boot.done = 2) ∧
        (s.boot.done = 2 → s.pow.warm = false →
          Completes .blockRelease s fun t =>
            t.boot.done = 3 ∧ t.domState 85 = 1 ∧ t.domState 86 = 1 ∧ (s.domState 85 ≠ 1 → t.fbit Reg.FN_STAT_H0UP = true)) ∧
        (s.boot.done = 3 → Completes .blockRelease s fun t => t.boot.done = 4) ∧
        (s.boot.done = 4 → s.pow.warm = false →
          Completes .blockRelease s fun t =>
            t.boot.done = 5 ∧ t.pcie.held = false ∧ t.domState 81 = 1 ∧ t.domState 82 = 1 ∧ t.domState 84 = 1) ∧
        (s.boot.done = 4 → s.pow.warm = true → Completes .blockRelease s fun t => t.boot.done = 5 ∧ t.pcie.held = false) ∧
        (s.boot.done = 5 → s.firmwarePair ≠ none → Completes .blockRelease s fun t => t.boot.done = 6 ∧ t.pow.warm = false) ∧
        (s.boot.done = 5 → s.firmwarePair = none → (∀ k, k < 24 → s.pairState k ≠ lsTest) →
          Completes .blockRelease s fun t => t.boot.done = 6 ∧ t.pow.warm = false)))

/-- The trace router and the debugger's commands (R534, R535, R545 to R548). `w op` is the state in which command `op` is carried out. -/
def Obligations.DebugCommands : Prop :=
  ∀ (s : State) (w : Nat → State), s.calm = true →
    w = (fun op => (s.fset Reg.DB_RES_DONE 0).setTap { s.tap with cmd := some op }) →
    -- ROUTER_TAKE from the next cluster in rotation
    (∀ (k cl : Nat) (x : TrPkt) (rest : List TrPkt), s.routing = true →
      (List.range 12).find? (fun j => decide (s.trQueue ((s.trc.turn + j) % 12) ≠ [])) = some k → cl = (s.trc.turn + k) % 12 →
      s.trQueue cl = x :: rest → (∀ m, m < 4 → Tab.get false s.trc.gap (4 * cl + m) = false) →
      (Completes .routerTake s fun t => t.trc.turn = (cl + 1) % 12 ∧ t.trQueue cl = rest) ∧
      (∀ (p size wp : Nat) (u q : State), p = s.pairOwner (x.core / 2) → p < 16 → s.fbit (Reg.TR_RCTL_EN p) = true →
        s.fbit (Reg.TR_RCTL_MODE p) = true → size = s.ringWords p → wp = s.fget (Reg.TR_RWP_WP p) % size →
        u = (s.setTrc { s.trc with turn := (cl + 1) % 12 }).setTrQueue cl rest →
        u.engWrite 14 (some (engWho p)) none
          (x.words.mapIdx fun i v => (16 * s.fget (Reg.TR_RBASE_BASE p) + (wp + i) % size, v)) = (q, .ok ()) →
        -- WP moves once the words are visible
        (q.writesWait 14 = false → Completes .routerTake s fun t =>
          t.fget (Reg.TR_RWP_WP p) = (wp + x.words.length) % size ∧ t.mem = q.mem ∧ t.dram = q.dram) ∧
        (q.writesWait 14 = true → Completes .routerTake s fun t =>
          t.fget (Reg.TR_RWP_WP p) = s.fget (Reg.TR_RWP_WP p) ∧ t.trc.vis = [(p, x.words.length)] ∧ t.mem = q.mem ∧
          t.dram = q.dram))) ∧
    -- a command while one is under way, one for a core that does not exist, and one that needs a core that is halted
    (∀ (op : Nat) (c : Instr),
      (op = 1 ∧ c = .halt ∨ op = 2 ∧ c = .resume ∨ op = 3 ∧ c = .step ∨ op = 4 ∧ c = .rdreg ∨ op = 5 ∧ c = .wrreg ∨ op = 6 ∧ c = .rdmem ∨
        op = 7 ∧ c = .wrmem ∨ op = 8 ∧ c = .rdphy ∨ op = 9 ∧ c = .wrphy) →
      (s.fbit Reg.DB_RES_DONE = false →
        exec c s = .next ((s.flag Reg.DB_RES_BUSYHIT Reg.DB_RES_BUSYHIT_MORE).dbRefusal stsBusy 0 op)) ∧
      (s.fbit Reg.DB_RES_DONE = true → s.dbCore = none → exec c s = .next ((w op).dbRefuse 0 op stsBadArg)) ∧
      (∀ core : Nat, s.fbit Reg.DB_RES_DONE = true → s.dbCore = some core → s.halted core = false → 3 ≤ op →
        exec c s = .next ((w op).dbRefuse (s.pairPart (core / 2)) op stsConflict))) ∧
    -- HALT, RESUME and STEP
    (∀ c i : Nat, s.fbit Reg.DB_RES_DONE = true → s.dbCore = some c → i = 8 * c + s.fget Reg.DB_TGT_SLOT →
      (s.pairState (c / 2) ≠ lsHold → s.pairState (c / 2) ≠ lsTest → c ∈ s.pairCores (c / 2) → s.halted c = false →
        (s.fbit Reg.RK_DBG_SDBG = true ∨ ∀ j ∈ coreSlots c, s.dbGuarded j = false) →
        Completes .halt s fun t =>
          t.halted c = true ∧ (s.pairState (c / 2) = lsLockstep → t.halted (c + 1) = true) ∧
          t.fget Reg.DB_RES_STATUS = 0 ∧ t.fbit Reg.DB_RES_DONE = true ∧ t.core = s.core ∧ t.mem = s.mem) ∧
      (Completes .resume s fun t =>
        t.halted c = false ∧ (s.pairState (c / 2) = lsLockstep → t.halted (c + 1) = false) ∧
        t.fget Reg.DB_RES_STATUS = 0 ∧ t.fbit Reg.DB_RES_DONE = true ∧ t.core = s.core ∧ t.mem = s.mem) ∧
      (s.halted c = true → (s.slot i).outLoad.map (·.place) ≠ some Place.dbData → (s.slot i).ctx.isSome = true →
        (s.slot i).gate = true → (s.slot i).stopped = false →
        Completes .step s fun t =>
          t.tap.stepSlot = some i ∧ t.fbit Reg.DB_RES_DONE = false ∧ t.core = s.core ∧ t.mem = s.mem) ∧
      (s.halted c = true → (s.slot i).outLoad.map (·.place) ≠ some Place.dbData → (s.slot i).ctx.isSome = true →
        (s.slot i).gate = false →
        Completes .step s fun t =>
          t.fget Reg.DB_RES_STATUS = 0 ∧ t.fbit Reg.DB_RES_DONE = true ∧ t.core = s.core ∧ t.mem = s.mem) ∧
      -- registers of a slot
      (∀ (r : BitVec 5) (n : Nat) (v : State), s.halted c = true → (s.slot i).ctx.isSome = true →
        (s.fbit Reg.RK_DBG_SDBG = true ∨ s.dbGuarded i = false) → (s.slot i).outLoad.map (·.place) ≠ some Place.dbData →
        n = (s.rget Reg.DB_ADDR).toNat →
        (n = r.toNat → v = (w 4).await i ((w 4).places i [r]) →
          Completes .rdreg s fun t =>
            t.rget Reg.DB_DATA = v.reg i r ∧ t.core = v.core ∧ t.fget Reg.DB_RES_STATUS = 0 ∧ t.fbit Reg.DB_RES_DONE = true) ∧
        (n = r.toNat → v = (w 5).await i ((w 5).places i [r]) →
          Completes .wrreg s fun t =>
            t.core = (v.setReg i r (s.rget Reg.DB_DATA)).core ∧ t.fget Reg.DB_RES_STATUS = 0 ∧ t.fbit Reg.DB_RES_DONE = true) ∧
        (64 ≤ n → n < 128 → ctlReadTrap (Nat.max 1 (s.level i)) (n - 64) true = none → v = ((w 4).ctlRead i (n - 64)).1 →
          exec .rdreg s = .next (s.follow ((v.rset Reg.DB_DATA ((w 4).ctlRead i (n - 64)).2).dbResult stsOk 0 0)).serve) ∧
        (64 ≤ n → n < 128 → ctlWriteTrap (Nat.max 1 (s.level i)) (n - 64) = none → v = (w 5).ctlWrite i (n - 64) (s.rget Reg.DB_DATA) →
          exec .wrreg s = .next (s.follow (v.dbResult stsOk 0 0)).serve)) ∧
      -- memory as the slot reaches it
      (∀ (va : Word) (t q : State), s.halted c = true → (s.slot i).ctx.isSome = true →
        (s.fbit Reg.RK_DBG_SDBG = true ∨ s.dbGuarded i = false) → (s.slot i).outLoad.map (·.place) ≠ some Place.dbData →
        va = s.rget Reg.DB_ADDR →
        (misaligned 4 va = true →
          exec .rdmem s = .next ((w 6).dbFault (alignFault va)) ∧ exec .wrmem s = .next ((w 7).dbFault (alignFault va))) ∧
        -- where the slot's TLB and L1D hold what the read needs, and generally
        (∀ (e : TlbEntry) (v : Word), misaligned 4 va = false → s.reads i 4 false va e v = true →
          Completes .rdmem s fun t => t.rget Reg.DB_DATA = v ∧ t.fget Reg.DB_RES_STATUS = 0 ∧ t.fbit Reg.DB_RES_DONE = true) ∧
        (∀ (pa attr : Nat) (v : Word), misaligned 4 va = false → (w 6).resolve i ((w 6).who i) .load 4 va = (t, .ok (pa, attr)) →
          isOutbound pa = false → t.loadData i pa attr 4 va = (q, .ok v) →
          exec .rdmem s = .next (s.follow ((q.rset Reg.DB_DATA v).dbResult stsOk 0 0)).serve) ∧
        (misaligned 4 va = false → (w 7).store i 4 false va (s.rget Reg.DB_DATA) = (t, .ok) →
          q = (t.setTap { t.tap with cmd := some 23 }).dbDrain i → exec .wrmem s = .next (s.follow q).serve)) ∧
      -- physical memory within the partition's reach
      (∀ (va : Word) (q : State), s.halted c = true → (s.fbit Reg.RK_DBG_SDBG = true ∨ s.dbGuarded i = false) →
        (s.slot i).outLoad.map (·.place) ≠ some Place.dbData → va = s.rget Reg.DB_ADDR → misaligned 4 va = false →
        (∀ v : Word, s.dbReach c va.toNat 1 = true → s.near i false va.toNat v = true →
          Completes .rdphy s fun t => t.rget Reg.DB_DATA = v ∧ t.fget Reg.DB_RES_STATUS = 0 ∧ t.fbit Reg.DB_RES_DONE = true) ∧
        (∀ v : Word, (w 8).dbReach c va.toNat 1 = true → (w 8).coreRead c false (va.toNat / 4) = (q, .ok v) →
          exec .rdphy s = .next (s.follow ((q.rset Reg.DB_DATA v).dbResult stsOk 0 0)).serve) ∧
        ((w 9).dbReach c va.toNat 2 = true → (w 9).pageBars none va.toNat = false →
          (w 9).coreWrite c (va.toNat / 64) false [(va.toNat / 4 % 16, 15, s.rget Reg.DB_DATA)] = (q, .ok ()) →
          exec .wrphy s = .next (s.follow (q.dbResult stsOk 0 0)).serve))) ∧
    -- DB_DCMD_SELF_TEST
    (∀ (pair : BitVec 5) (k : Nat), k = pair.toNat →
      (s.diagAllowed = false → exec (.dbDcmdSelfTest pair) s = .next s) ∧
      (s.diagAllowed = true → s.fbit Reg.DB_RES_DONE = true → k < 24 →
        (s.pairState k = lsFenced →
          Completes (.dbDcmdSelfTest pair) s fun t =>
            Tab.get 0 t.tap.selfTest k = 1 ∧ t.fbit Reg.DB_RES_DONE = false ∧ t.domState (2 * k) = 1 ∧ t.domState (2 * k + 1) = 1 ∧
            t.pairState k = lsFenced) ∧
        (s.pairState k ≠ lsFenced → s.pairState k ≠ lsHalf →
          exec (.dbDcmdSelfTest pair) s = .next (s.dbRefuse (s.pairPart k) 1 stsConflict))))

/-- The test access port, which works whatever holds the part (R540 to R544). -/
def Obligations.TestPort : Prop :=
  ∀ s : State, s.settled = true →
    (∀ code : BitVec 8,
      Completes (.tapUpdateIr code) s fun t =>
        t.tap.ir = code ∧ (code = 0x11 → t.tap.challenge = Config.nonce s.freeCtr) ∧ t.regs = s.regs ∧ t.core = s.core) ∧
    -- the boundary register
    (∀ cells : List (Cell × Bool),
      (s.pinsFree = true →
        Completes (.extest cells) s fun t => t.tap.ir = 0 ∧ t.tap.cells = extestCells cells ∧ t.pinDrive = .extest ∧ t.regs = s.regs) ∧
      (s.pinsFree = false → Completes (.extest cells) s fun t => t.tap.cells = s.tap.cells ∧ t.pinDrive = .normal ∧ t.regs = s.regs) ∧
      (Completes (.samplePreload cells) s fun t => t.tap.ir = 1 ∧ t.tap.cells = cells ∧ t.pinDrive = .normal ∧ t.regs = s.regs)) ∧
    (Completes .idcode s fun t => t.captureDr = 0x13640B47 ∧ t.regs = s.regs) ∧
    (Completes .bypass s fun t => t.captureDr = 0 ∧ t.regs = s.regs) ∧
    (Completes .clamp s fun t => t.tap.ir = 3 ∧ t.pinDrive = (if s.pinsFree then .clamp else .normal) ∧ t.regs = s.regs) ∧
    (Completes .highz s fun t => t.tap.ir = 4 ∧ t.pinDrive = (if s.pinsFree then .highz else .normal) ∧ t.regs = s.regs) ∧
    -- DBGACC and DIAG: a read of a DB_ register, a write, and an access that the lifecycle forbids
    (∀ (off : BitVec 12) (wr : Bool) (data : Word) (u : State),
      (u = s.withIr 0x10 → s.gateShut = true → exec (.dbgacc off wr data) s = .next (u.setAcc 2 0)) ∧
      (u = s.withIr 0x10 → s.gateShut = false → off.toNat < 7 →
        (wr = false →
          exec (.dbgacc off wr data) s =
            .next ((u.regRead (Reg.DB_TGT + off.toNat)).1.setAcc 0 (u.regRead (Reg.DB_TGT + off.toNat)).2)) ∧
        (∀ q : State, wr = true →
          q = (((u.dbStore tapReq (addrWord (Reg.DB_TGT + off.toNat)) (Reg.DB_TGT + off.toNat) data 0).serveDb).accFree 0) →
          exec (.dbgacc off wr data) s = .next (s.follow q).serve)) ∧
      (u = s.withIr 0x10 → s.gateShut = false → 7 ≤ off.toNat → exec (.dbgacc off wr data) s = .next (u.accFree 3)) ∧
      (u = s.withIr 0x20 → s.diagAllowed = false → exec (.diag off wr data) s = .next u) ∧
      (u = s.withIr 0x20 → s.diagAllowed = true → off.toNat < 7 → wr = false →
        exec (.diag off wr data) s =
          .next ((u.regRead (Reg.DB_TGT + off.toNat)).1.setAcc 0 (u.regRead (Reg.DB_TGT + off.toNat)).2)) ∧
      (u = s.withIr 0x20 → s.diagAllowed = true → off.toNat = 8 → wr = true →
        exec (.diag off wr data) s = .next (s.follow ((u.dcmdStore (bits data 0 2) (bits data 2 5)).accFree 0)).serve)) ∧
    -- DBGAUTH while the secure core is in its ROM
    (∀ (proof : BitVec 128) (cred : Fin 64) (u : State), u = s.withIr 0x11 →
      (s.boot.rom = false → exec (.dbgauth proof cred) s = .next u) ∧
      (s.boot.rom = true → s.tap.fails < 3 →
        (∀ c : Cred, Tab.get none s.dict.creds cred.val = some c → c.role = 3 →
          proof = dbgProof c.secret u.tap.challenge cred.val →
          Completes (.dbgauth proof cred) s fun t =>
            t.tap.allowed = true ∧ t.tap.fails = s.tap.fails ∧ t.tap.challenge = Config.nonce u.freeCtr) ∧
        (∀ c : Cred, Tab.get none s.dict.creds cred.val = some c →
          c.role ≠ 3 ∨ proof ≠ dbgProof c.secret u.tap.challenge cred.val →
          Completes (.dbgauth proof cred) s fun t => t.tap.allowed = s.tap.allowed ∧ t.tap.fails = s.tap.fails + 1) ∧
        (Tab.get none s.dict.creds cred.val = none →
          Completes (.dbgauth proof cred) s fun t => t.tap.allowed = s.tap.allowed ∧ t.tap.fails = s.tap.fails + 1)))

/-- The machine right after reset (R23, R111, R296, R299, R459, R517): partition 0 alone exists and holds every pair and every context;
every domain and pair is OFF; every entry is FREE and the Firn is zero; caches, TLBs and sessions hold nothing, no lock is committed,
the time base is not set, and the secure core is in its ROM. Every register reads its reset value; where the spec states none that
value is the model's (log 5), as is what the boot flash holds. -/
def Obligations.ResetState : Prop :=
  (∀ p, p < 16 → (State.reset.partExists p = true ↔ p = 0) ∧ State.reset.locked p = false) ∧
  (∀ k, k < 24 → State.reset.pairOwner k = 0 ∧ State.reset.pairState k = lsOff) ∧
  (∀ c, c < 4096 → State.reset.inRange 0 c = true ∧ (State.reset.entry c).state = stFree) ∧
  (∀ d, d < 87 → State.reset.domState d = 0) ∧ (∀ c, c < 6 → State.reset.chState c = chOff) ∧
  (∀ k : Nat, Tab.get 0 State.reset.sch.firn k = 0) ∧ (∀ n, n < 16 → State.reset.sess n = none ∧ State.reset.sessState n = 0) ∧
  State.reset.tb = 0 ∧ State.reset.fget Reg.AN_TB_STAT_SET = 0 ∧ State.reset.tbState = 0 ∧ State.reset.mem.dirs = [] ∧
  State.reset.mem.l1 = [] ∧ State.reset.core.tlb = [] ∧ State.reset.core.pins = [] ∧ State.reset.boot.rom = true ∧
  State.reset.pending = [] ∧ State.reset.fget Reg.PM_RSTC_CAUSE = 1 ∧ (∀ a, State.reset.rget a = regReset a)

/-- The stores of words are in their canonical form after reset. -/
def Obligations.ResetIsCanonical : Prop := State.reset.canonical = true

/-- Every step keeps the canonical form of the registers, the thread images, the Firn, the words of the caches, of DRAM and of the
secure memory: keys rising, and no word listed that reads as an unlisted one, so that equal contents are equal states. -/
def Obligations.StepKeepsCanonical : Prop :=
  ∀ s t : State, s.canonical = true → step s = .next t → t.canonical = true
end

