-- ==== Sys2Proof/Laws/State.lean ====
section
/-! SUPPORT. What each update of the state leaves of each field: one lemma per field and update, so that no proof unfolds a record
update. -/

namespace Sys2Proof.Machine

/-! ### setMor -/

@[simp] theorem State.setMor_regs (s : State) (m : Mor) : (s.setMor m).regs = s.regs := rfl
@[simp] theorem State.setMor_rdata (s : State) (m : Mor) : (s.setMor m).rdata = s.rdata := rfl
@[simp] theorem State.setMor_rerr (s : State) (m : Mor) : (s.setMor m).rerr = s.rerr := rfl
@[simp] theorem State.setMor_cyc (s : State) (m : Mor) : (s.setMor m).cyc = s.cyc := rfl
@[simp] theorem State.setMor_tb (s : State) (m : Mor) : (s.setMor m).tb = s.tb := rfl
@[simp] theorem State.setMor_ang (s : State) (m : Mor) : (s.setMor m).ang = s.ang := rfl
@[simp] theorem State.setMor_sch (s : State) (m : Mor) : (s.setMor m).sch = s.sch := rfl
@[simp] theorem State.setMor_core (s : State) (m : Mor) : (s.setMor m).core = s.core := rfl
@[simp] theorem State.setMor_mem (s : State) (m : Mor) : (s.setMor m).mem = s.mem := rfl
@[simp] theorem State.setMor_dram (s : State) (m : Mor) : (s.setMor m).dram = s.dram := rfl
@[simp] theorem State.setMor_net (s : State) (m : Mor) : (s.setMor m).net = s.net := rfl
@[simp] theorem State.setMor_pd (s : State) (m : Mor) : (s.setMor m).pd = s.pd := rfl
@[simp] theorem State.setMor_rook (s : State) (m : Mor) : (s.setMor m).rook = s.rook := rfl
@[simp] theorem State.setMor_dict (s : State) (m : Mor) : (s.setMor m).dict = s.dict := rfl
@[simp] theorem State.setMor_mor (s : State) (m : Mor) : (s.setMor m).mor = m := rfl
@[simp] theorem State.setMor_pcie (s : State) (m : Mor) : (s.setMor m).pcie = s.pcie := rfl
@[simp] theorem State.setMor_pow (s : State) (m : Mor) : (s.setMor m).pow = s.pow := rfl
@[simp] theorem State.setMor_boot (s : State) (m : Mor) : (s.setMor m).boot = s.boot := rfl
@[simp] theorem State.setMor_trc (s : State) (m : Mor) : (s.setMor m).trc = s.trc := rfl
@[simp] theorem State.setMor_tap (s : State) (m : Mor) : (s.setMor m).tap = s.tap := rfl
@[simp] theorem State.setMor_freeCtr (s : State) (m : Mor) : (s.setMor m).freeCtr = s.freeCtr := rfl
@[simp] theorem State.setMor_pending (s : State) (m : Mor) : (s.setMor m).pending = s.pending := rfl

/-! ### setNet -/

@[simp] theorem State.setNet_regs (s : State) (n : Net) : (s.setNet n).regs = s.regs := rfl
@[simp] theorem State.setNet_rdata (s : State) (n : Net) : (s.setNet n).rdata = s.rdata := rfl
@[simp] theorem State.setNet_rerr (s : State) (n : Net) : (s.setNet n).rerr = s.rerr := rfl
@[simp] theorem State.setNet_cyc (s : State) (n : Net) : (s.setNet n).cyc = s.cyc := rfl
@[simp] theorem State.setNet_tb (s : State) (n : Net) : (s.setNet n).tb = s.tb := rfl
@[simp] theorem State.setNet_ang (s : State) (n : Net) : (s.setNet n).ang = s.ang := rfl
@[simp] theorem State.setNet_sch (s : State) (n : Net) : (s.setNet n).sch = s.sch := rfl
@[simp] theorem State.setNet_core (s : State) (n : Net) : (s.setNet n).core = s.core := rfl
@[simp] theorem State.setNet_mem (s : State) (n : Net) : (s.setNet n).mem = s.mem := rfl
@[simp] theorem State.setNet_dram (s : State) (n : Net) : (s.setNet n).dram = s.dram := rfl
@[simp] theorem State.setNet_net (s : State) (n : Net) : (s.setNet n).net = n := rfl
@[simp] theorem State.setNet_pd (s : State) (n : Net) : (s.setNet n).pd = s.pd := rfl
@[simp] theorem State.setNet_rook (s : State) (n : Net) : (s.setNet n).rook = s.rook := rfl
@[simp] theorem State.setNet_dict (s : State) (n : Net) : (s.setNet n).dict = s.dict := rfl
@[simp] theorem State.setNet_mor (s : State) (n : Net) : (s.setNet n).mor = s.mor := rfl
@[simp] theorem State.setNet_pcie (s : State) (n : Net) : (s.setNet n).pcie = s.pcie := rfl
@[simp] theorem State.setNet_pow (s : State) (n : Net) : (s.setNet n).pow = s.pow := rfl
@[simp] theorem State.setNet_boot (s : State) (n : Net) : (s.setNet n).boot = s.boot := rfl
@[simp] theorem State.setNet_trc (s : State) (n : Net) : (s.setNet n).trc = s.trc := rfl
@[simp] theorem State.setNet_tap (s : State) (n : Net) : (s.setNet n).tap = s.tap := rfl
@[simp] theorem State.setNet_freeCtr (s : State) (n : Net) : (s.setNet n).freeCtr = s.freeCtr := rfl
@[simp] theorem State.setNet_pending (s : State) (n : Net) : (s.setNet n).pending = s.pending := rfl

/-! ### setPx -/

@[simp] theorem State.setPx_regs (s : State) (p : Pcie) : (s.setPx p).regs = s.regs := rfl
@[simp] theorem State.setPx_rdata (s : State) (p : Pcie) : (s.setPx p).rdata = s.rdata := rfl
@[simp] theorem State.setPx_rerr (s : State) (p : Pcie) : (s.setPx p).rerr = s.rerr := rfl
@[simp] theorem State.setPx_cyc (s : State) (p : Pcie) : (s.setPx p).cyc = s.cyc := rfl
@[simp] theorem State.setPx_tb (s : State) (p : Pcie) : (s.setPx p).tb = s.tb := rfl
@[simp] theorem State.setPx_ang (s : State) (p : Pcie) : (s.setPx p).ang = s.ang := rfl
@[simp] theorem State.setPx_sch (s : State) (p : Pcie) : (s.setPx p).sch = s.sch := rfl
@[simp] theorem State.setPx_core (s : State) (p : Pcie) : (s.setPx p).core = s.core := rfl
@[simp] theorem State.setPx_mem (s : State) (p : Pcie) : (s.setPx p).mem = s.mem := rfl
@[simp] theorem State.setPx_dram (s : State) (p : Pcie) : (s.setPx p).dram = s.dram := rfl
@[simp] theorem State.setPx_net (s : State) (p : Pcie) : (s.setPx p).net = s.net := rfl
@[simp] theorem State.setPx_pd (s : State) (p : Pcie) : (s.setPx p).pd = s.pd := rfl
@[simp] theorem State.setPx_rook (s : State) (p : Pcie) : (s.setPx p).rook = s.rook := rfl
@[simp] theorem State.setPx_dict (s : State) (p : Pcie) : (s.setPx p).dict = s.dict := rfl
@[simp] theorem State.setPx_mor (s : State) (p : Pcie) : (s.setPx p).mor = s.mor := rfl
@[simp] theorem State.setPx_pcie (s : State) (p : Pcie) : (s.setPx p).pcie = p := rfl
@[simp] theorem State.setPx_pow (s : State) (p : Pcie) : (s.setPx p).pow = s.pow := rfl
@[simp] theorem State.setPx_boot (s : State) (p : Pcie) : (s.setPx p).boot = s.boot := rfl
@[simp] theorem State.setPx_trc (s : State) (p : Pcie) : (s.setPx p).trc = s.trc := rfl
@[simp] theorem State.setPx_tap (s : State) (p : Pcie) : (s.setPx p).tap = s.tap := rfl
@[simp] theorem State.setPx_freeCtr (s : State) (p : Pcie) : (s.setPx p).freeCtr = s.freeCtr := rfl
@[simp] theorem State.setPx_pending (s : State) (p : Pcie) : (s.setPx p).pending = s.pending := rfl

/-! ### setPow -/

@[simp] theorem State.setPow_regs (s : State) (p : Pow) : (s.setPow p).regs = s.regs := rfl
@[simp] theorem State.setPow_rdata (s : State) (p : Pow) : (s.setPow p).rdata = s.rdata := rfl
@[simp] theorem State.setPow_rerr (s : State) (p : Pow) : (s.setPow p).rerr = s.rerr := rfl
@[simp] theorem State.setPow_cyc (s : State) (p : Pow) : (s.setPow p).cyc = s.cyc := rfl
@[simp] theorem State.setPow_tb (s : State) (p : Pow) : (s.setPow p).tb = s.tb := rfl
@[simp] theorem State.setPow_ang (s : State) (p : Pow) : (s.setPow p).ang = s.ang := rfl
@[simp] theorem State.setPow_sch (s : State) (p : Pow) : (s.setPow p).sch = s.sch := rfl
@[simp] theorem State.setPow_core (s : State) (p : Pow) : (s.setPow p).core = s.core := rfl
@[simp] theorem State.setPow_mem (s : State) (p : Pow) : (s.setPow p).mem = s.mem := rfl
@[simp] theorem State.setPow_dram (s : State) (p : Pow) : (s.setPow p).dram = s.dram := rfl
@[simp] theorem State.setPow_net (s : State) (p : Pow) : (s.setPow p).net = s.net := rfl
@[simp] theorem State.setPow_pd (s : State) (p : Pow) : (s.setPow p).pd = s.pd := rfl
@[simp] theorem State.setPow_rook (s : State) (p : Pow) : (s.setPow p).rook = s.rook := rfl
@[simp] theorem State.setPow_dict (s : State) (p : Pow) : (s.setPow p).dict = s.dict := rfl
@[simp] theorem State.setPow_mor (s : State) (p : Pow) : (s.setPow p).mor = s.mor := rfl
@[simp] theorem State.setPow_pcie (s : State) (p : Pow) : (s.setPow p).pcie = s.pcie := rfl
@[simp] theorem State.setPow_pow (s : State) (p : Pow) : (s.setPow p).pow = p := rfl
@[simp] theorem State.setPow_boot (s : State) (p : Pow) : (s.setPow p).boot = s.boot := rfl
@[simp] theorem State.setPow_trc (s : State) (p : Pow) : (s.setPow p).trc = s.trc := rfl
@[simp] theorem State.setPow_tap (s : State) (p : Pow) : (s.setPow p).tap = s.tap := rfl
@[simp] theorem State.setPow_freeCtr (s : State) (p : Pow) : (s.setPow p).freeCtr = s.freeCtr := rfl
@[simp] theorem State.setPow_pending (s : State) (p : Pow) : (s.setPow p).pending = s.pending := rfl

/-! ### setTap -/

@[simp] theorem State.setTap_regs (s : State) (t : Tap) : (s.setTap t).regs = s.regs := rfl
@[simp] theorem State.setTap_rdata (s : State) (t : Tap) : (s.setTap t).rdata = s.rdata := rfl
@[simp] theorem State.setTap_rerr (s : State) (t : Tap) : (s.setTap t).rerr = s.rerr := rfl
@[simp] theorem State.setTap_cyc (s : State) (t : Tap) : (s.setTap t).cyc = s.cyc := rfl
@[simp] theorem State.setTap_tb (s : State) (t : Tap) : (s.setTap t).tb = s.tb := rfl
@[simp] theorem State.setTap_ang (s : State) (t : Tap) : (s.setTap t).ang = s.ang := rfl
@[simp] theorem State.setTap_sch (s : State) (t : Tap) : (s.setTap t).sch = s.sch := rfl
@[simp] theorem State.setTap_core (s : State) (t : Tap) : (s.setTap t).core = s.core := rfl
@[simp] theorem State.setTap_mem (s : State) (t : Tap) : (s.setTap t).mem = s.mem := rfl
@[simp] theorem State.setTap_dram (s : State) (t : Tap) : (s.setTap t).dram = s.dram := rfl
@[simp] theorem State.setTap_net (s : State) (t : Tap) : (s.setTap t).net = s.net := rfl
@[simp] theorem State.setTap_pd (s : State) (t : Tap) : (s.setTap t).pd = s.pd := rfl
@[simp] theorem State.setTap_rook (s : State) (t : Tap) : (s.setTap t).rook = s.rook := rfl
@[simp] theorem State.setTap_dict (s : State) (t : Tap) : (s.setTap t).dict = s.dict := rfl
@[simp] theorem State.setTap_mor (s : State) (t : Tap) : (s.setTap t).mor = s.mor := rfl
@[simp] theorem State.setTap_pcie (s : State) (t : Tap) : (s.setTap t).pcie = s.pcie := rfl
@[simp] theorem State.setTap_pow (s : State) (t : Tap) : (s.setTap t).pow = s.pow := rfl
@[simp] theorem State.setTap_boot (s : State) (t : Tap) : (s.setTap t).boot = s.boot := rfl
@[simp] theorem State.setTap_trc (s : State) (t : Tap) : (s.setTap t).trc = s.trc := rfl
@[simp] theorem State.setTap_tap (s : State) (t : Tap) : (s.setTap t).tap = t := rfl
@[simp] theorem State.setTap_freeCtr (s : State) (t : Tap) : (s.setTap t).freeCtr = s.freeCtr := rfl
@[simp] theorem State.setTap_pending (s : State) (t : Tap) : (s.setTap t).pending = s.pending := rfl

/-! ### setBoot -/

@[simp] theorem State.setBoot_regs (s : State) (b : Boot) : (s.setBoot b).regs = s.regs := rfl
@[simp] theorem State.setBoot_rdata (s : State) (b : Boot) : (s.setBoot b).rdata = s.rdata := rfl
@[simp] theorem State.setBoot_rerr (s : State) (b : Boot) : (s.setBoot b).rerr = s.rerr := rfl
@[simp] theorem State.setBoot_cyc (s : State) (b : Boot) : (s.setBoot b).cyc = s.cyc := rfl
@[simp] theorem State.setBoot_tb (s : State) (b : Boot) : (s.setBoot b).tb = s.tb := rfl
@[simp] theorem State.setBoot_ang (s : State) (b : Boot) : (s.setBoot b).ang = s.ang := rfl
@[simp] theorem State.setBoot_sch (s : State) (b : Boot) : (s.setBoot b).sch = s.sch := rfl
@[simp] theorem State.setBoot_core (s : State) (b : Boot) : (s.setBoot b).core = s.core := rfl
@[simp] theorem State.setBoot_mem (s : State) (b : Boot) : (s.setBoot b).mem = s.mem := rfl
@[simp] theorem State.setBoot_dram (s : State) (b : Boot) : (s.setBoot b).dram = s.dram := rfl
@[simp] theorem State.setBoot_net (s : State) (b : Boot) : (s.setBoot b).net = s.net := rfl
@[simp] theorem State.setBoot_pd (s : State) (b : Boot) : (s.setBoot b).pd = s.pd := rfl
@[simp] theorem State.setBoot_rook (s : State) (b : Boot) : (s.setBoot b).rook = s.rook := rfl
@[simp] theorem State.setBoot_dict (s : State) (b : Boot) : (s.setBoot b).dict = s.dict := rfl
@[simp] theorem State.setBoot_mor (s : State) (b : Boot) : (s.setBoot b).mor = s.mor := rfl
@[simp] theorem State.setBoot_pcie (s : State) (b : Boot) : (s.setBoot b).pcie = s.pcie := rfl
@[simp] theorem State.setBoot_pow (s : State) (b : Boot) : (s.setBoot b).pow = s.pow := rfl
@[simp] theorem State.setBoot_boot (s : State) (b : Boot) : (s.setBoot b).boot = b := rfl
@[simp] theorem State.setBoot_trc (s : State) (b : Boot) : (s.setBoot b).trc = s.trc := rfl
@[simp] theorem State.setBoot_tap (s : State) (b : Boot) : (s.setBoot b).tap = s.tap := rfl
@[simp] theorem State.setBoot_freeCtr (s : State) (b : Boot) : (s.setBoot b).freeCtr = s.freeCtr := rfl
@[simp] theorem State.setBoot_pending (s : State) (b : Boot) : (s.setBoot b).pending = s.pending := rfl

/-! ### setPd -/

@[simp] theorem State.setPd_regs (s : State) (p : Pd) : (s.setPd p).regs = s.regs := rfl
@[simp] theorem State.setPd_rdata (s : State) (p : Pd) : (s.setPd p).rdata = s.rdata := rfl
@[simp] theorem State.setPd_rerr (s : State) (p : Pd) : (s.setPd p).rerr = s.rerr := rfl
@[simp] theorem State.setPd_cyc (s : State) (p : Pd) : (s.setPd p).cyc = s.cyc := rfl
@[simp] theorem State.setPd_tb (s : State) (p : Pd) : (s.setPd p).tb = s.tb := rfl
@[simp] theorem State.setPd_ang (s : State) (p : Pd) : (s.setPd p).ang = s.ang := rfl
@[simp] theorem State.setPd_sch (s : State) (p : Pd) : (s.setPd p).sch = s.sch := rfl
@[simp] theorem State.setPd_core (s : State) (p : Pd) : (s.setPd p).core = s.core := rfl
@[simp] theorem State.setPd_mem (s : State) (p : Pd) : (s.setPd p).mem = s.mem := rfl
@[simp] theorem State.setPd_dram (s : State) (p : Pd) : (s.setPd p).dram = s.dram := rfl
@[simp] theorem State.setPd_net (s : State) (p : Pd) : (s.setPd p).net = s.net := rfl
@[simp] theorem State.setPd_pd (s : State) (p : Pd) : (s.setPd p).pd = p := rfl
@[simp] theorem State.setPd_rook (s : State) (p : Pd) : (s.setPd p).rook = s.rook := rfl
@[simp] theorem State.setPd_dict (s : State) (p : Pd) : (s.setPd p).dict = s.dict := rfl
@[simp] theorem State.setPd_mor (s : State) (p : Pd) : (s.setPd p).mor = s.mor := rfl
@[simp] theorem State.setPd_pcie (s : State) (p : Pd) : (s.setPd p).pcie = s.pcie := rfl
@[simp] theorem State.setPd_pow (s : State) (p : Pd) : (s.setPd p).pow = s.pow := rfl
@[simp] theorem State.setPd_boot (s : State) (p : Pd) : (s.setPd p).boot = s.boot := rfl
@[simp] theorem State.setPd_trc (s : State) (p : Pd) : (s.setPd p).trc = s.trc := rfl
@[simp] theorem State.setPd_tap (s : State) (p : Pd) : (s.setPd p).tap = s.tap := rfl
@[simp] theorem State.setPd_freeCtr (s : State) (p : Pd) : (s.setPd p).freeCtr = s.freeCtr := rfl
@[simp] theorem State.setPd_pending (s : State) (p : Pd) : (s.setPd p).pending = s.pending := rfl

/-! ### setDict -/

@[simp] theorem State.setDict_regs (s : State) (d : Dict) : (s.setDict d).regs = s.regs := rfl
@[simp] theorem State.setDict_rdata (s : State) (d : Dict) : (s.setDict d).rdata = s.rdata := rfl
@[simp] theorem State.setDict_rerr (s : State) (d : Dict) : (s.setDict d).rerr = s.rerr := rfl
@[simp] theorem State.setDict_cyc (s : State) (d : Dict) : (s.setDict d).cyc = s.cyc := rfl
@[simp] theorem State.setDict_tb (s : State) (d : Dict) : (s.setDict d).tb = s.tb := rfl
@[simp] theorem State.setDict_ang (s : State) (d : Dict) : (s.setDict d).ang = s.ang := rfl
@[simp] theorem State.setDict_sch (s : State) (d : Dict) : (s.setDict d).sch = s.sch := rfl
@[simp] theorem State.setDict_core (s : State) (d : Dict) : (s.setDict d).core = s.core := rfl
@[simp] theorem State.setDict_mem (s : State) (d : Dict) : (s.setDict d).mem = s.mem := rfl
@[simp] theorem State.setDict_dram (s : State) (d : Dict) : (s.setDict d).dram = s.dram := rfl
@[simp] theorem State.setDict_net (s : State) (d : Dict) : (s.setDict d).net = s.net := rfl
@[simp] theorem State.setDict_pd (s : State) (d : Dict) : (s.setDict d).pd = s.pd := rfl
@[simp] theorem State.setDict_rook (s : State) (d : Dict) : (s.setDict d).rook = s.rook := rfl
@[simp] theorem State.setDict_dict (s : State) (d : Dict) : (s.setDict d).dict = d := rfl
@[simp] theorem State.setDict_mor (s : State) (d : Dict) : (s.setDict d).mor = s.mor := rfl
@[simp] theorem State.setDict_pcie (s : State) (d : Dict) : (s.setDict d).pcie = s.pcie := rfl
@[simp] theorem State.setDict_pow (s : State) (d : Dict) : (s.setDict d).pow = s.pow := rfl
@[simp] theorem State.setDict_boot (s : State) (d : Dict) : (s.setDict d).boot = s.boot := rfl
@[simp] theorem State.setDict_trc (s : State) (d : Dict) : (s.setDict d).trc = s.trc := rfl
@[simp] theorem State.setDict_tap (s : State) (d : Dict) : (s.setDict d).tap = s.tap := rfl
@[simp] theorem State.setDict_freeCtr (s : State) (d : Dict) : (s.setDict d).freeCtr = s.freeCtr := rfl
@[simp] theorem State.setDict_pending (s : State) (d : Dict) : (s.setDict d).pending = s.pending := rfl

/-! ### setTrc -/

@[simp] theorem State.setTrc_regs (s : State) (t : Trc) : (s.setTrc t).regs = s.regs := rfl
@[simp] theorem State.setTrc_rdata (s : State) (t : Trc) : (s.setTrc t).rdata = s.rdata := rfl
@[simp] theorem State.setTrc_rerr (s : State) (t : Trc) : (s.setTrc t).rerr = s.rerr := rfl
@[simp] theorem State.setTrc_cyc (s : State) (t : Trc) : (s.setTrc t).cyc = s.cyc := rfl
@[simp] theorem State.setTrc_tb (s : State) (t : Trc) : (s.setTrc t).tb = s.tb := rfl
@[simp] theorem State.setTrc_ang (s : State) (t : Trc) : (s.setTrc t).ang = s.ang := rfl
@[simp] theorem State.setTrc_sch (s : State) (t : Trc) : (s.setTrc t).sch = s.sch := rfl
@[simp] theorem State.setTrc_core (s : State) (t : Trc) : (s.setTrc t).core = s.core := rfl
@[simp] theorem State.setTrc_mem (s : State) (t : Trc) : (s.setTrc t).mem = s.mem := rfl
@[simp] theorem State.setTrc_dram (s : State) (t : Trc) : (s.setTrc t).dram = s.dram := rfl
@[simp] theorem State.setTrc_net (s : State) (t : Trc) : (s.setTrc t).net = s.net := rfl
@[simp] theorem State.setTrc_pd (s : State) (t : Trc) : (s.setTrc t).pd = s.pd := rfl
@[simp] theorem State.setTrc_rook (s : State) (t : Trc) : (s.setTrc t).rook = s.rook := rfl
@[simp] theorem State.setTrc_dict (s : State) (t : Trc) : (s.setTrc t).dict = s.dict := rfl
@[simp] theorem State.setTrc_mor (s : State) (t : Trc) : (s.setTrc t).mor = s.mor := rfl
@[simp] theorem State.setTrc_pcie (s : State) (t : Trc) : (s.setTrc t).pcie = s.pcie := rfl
@[simp] theorem State.setTrc_pow (s : State) (t : Trc) : (s.setTrc t).pow = s.pow := rfl
@[simp] theorem State.setTrc_boot (s : State) (t : Trc) : (s.setTrc t).boot = s.boot := rfl
@[simp] theorem State.setTrc_trc (s : State) (t : Trc) : (s.setTrc t).trc = t := rfl
@[simp] theorem State.setTrc_tap (s : State) (t : Trc) : (s.setTrc t).tap = s.tap := rfl
@[simp] theorem State.setTrc_freeCtr (s : State) (t : Trc) : (s.setTrc t).freeCtr = s.freeCtr := rfl
@[simp] theorem State.setTrc_pending (s : State) (t : Trc) : (s.setTrc t).pending = s.pending := rfl

/-! ### Registers -/

@[simp] theorem State.rset_rdata (s : State) (a : PWord) (v : Word) : (s.rset a v).rdata = s.rdata := rfl
@[simp] theorem State.rset_rerr (s : State) (a : PWord) (v : Word) : (s.rset a v).rerr = s.rerr := rfl
@[simp] theorem State.rset_cyc (s : State) (a : PWord) (v : Word) : (s.rset a v).cyc = s.cyc := rfl
@[simp] theorem State.rset_tb (s : State) (a : PWord) (v : Word) : (s.rset a v).tb = s.tb := rfl
@[simp] theorem State.rset_ang (s : State) (a : PWord) (v : Word) : (s.rset a v).ang = s.ang := rfl
@[simp] theorem State.rset_sch (s : State) (a : PWord) (v : Word) : (s.rset a v).sch = s.sch := rfl
@[simp] theorem State.rset_core (s : State) (a : PWord) (v : Word) : (s.rset a v).core = s.core := rfl
@[simp] theorem State.rset_mem (s : State) (a : PWord) (v : Word) : (s.rset a v).mem = s.mem := rfl
@[simp] theorem State.rset_dram (s : State) (a : PWord) (v : Word) : (s.rset a v).dram = s.dram := rfl
@[simp] theorem State.rset_net (s : State) (a : PWord) (v : Word) : (s.rset a v).net = s.net := rfl
@[simp] theorem State.rset_pd (s : State) (a : PWord) (v : Word) : (s.rset a v).pd = s.pd := rfl
@[simp] theorem State.rset_rook (s : State) (a : PWord) (v : Word) : (s.rset a v).rook = s.rook := rfl
@[simp] theorem State.rset_dict (s : State) (a : PWord) (v : Word) : (s.rset a v).dict = s.dict := rfl
@[simp] theorem State.rset_mor (s : State) (a : PWord) (v : Word) : (s.rset a v).mor = s.mor := rfl
@[simp] theorem State.rset_pcie (s : State) (a : PWord) (v : Word) : (s.rset a v).pcie = s.pcie := rfl
@[simp] theorem State.rset_pow (s : State) (a : PWord) (v : Word) : (s.rset a v).pow = s.pow := rfl
@[simp] theorem State.rset_boot (s : State) (a : PWord) (v : Word) : (s.rset a v).boot = s.boot := rfl
@[simp] theorem State.rset_trc (s : State) (a : PWord) (v : Word) : (s.rset a v).trc = s.trc := rfl
@[simp] theorem State.rset_tap (s : State) (a : PWord) (v : Word) : (s.rset a v).tap = s.tap := rfl
@[simp] theorem State.rset_freeCtr (s : State) (a : PWord) (v : Word) : (s.rset a v).freeCtr = s.freeCtr := rfl
@[simp] theorem State.rset_pending (s : State) (a : PWord) (v : Word) : (s.rset a v).pending = s.pending := rfl

@[simp] theorem State.fset_rdata (s : State) (f : Field) (v : Nat) : (s.fset f v).rdata = s.rdata := rfl
@[simp] theorem State.fset_rerr (s : State) (f : Field) (v : Nat) : (s.fset f v).rerr = s.rerr := rfl
@[simp] theorem State.fset_cyc (s : State) (f : Field) (v : Nat) : (s.fset f v).cyc = s.cyc := rfl
@[simp] theorem State.fset_tb (s : State) (f : Field) (v : Nat) : (s.fset f v).tb = s.tb := rfl
@[simp] theorem State.fset_ang (s : State) (f : Field) (v : Nat) : (s.fset f v).ang = s.ang := rfl
@[simp] theorem State.fset_sch (s : State) (f : Field) (v : Nat) : (s.fset f v).sch = s.sch := rfl
@[simp] theorem State.fset_core (s : State) (f : Field) (v : Nat) : (s.fset f v).core = s.core := rfl
@[simp] theorem State.fset_mem (s : State) (f : Field) (v : Nat) : (s.fset f v).mem = s.mem := rfl
@[simp] theorem State.fset_dram (s : State) (f : Field) (v : Nat) : (s.fset f v).dram = s.dram := rfl
@[simp] theorem State.fset_net (s : State) (f : Field) (v : Nat) : (s.fset f v).net = s.net := rfl
@[simp] theorem State.fset_pd (s : State) (f : Field) (v : Nat) : (s.fset f v).pd = s.pd := rfl
@[simp] theorem State.fset_rook (s : State) (f : Field) (v : Nat) : (s.fset f v).rook = s.rook := rfl
@[simp] theorem State.fset_dict (s : State) (f : Field) (v : Nat) : (s.fset f v).dict = s.dict := rfl
@[simp] theorem State.fset_mor (s : State) (f : Field) (v : Nat) : (s.fset f v).mor = s.mor := rfl
@[simp] theorem State.fset_pcie (s : State) (f : Field) (v : Nat) : (s.fset f v).pcie = s.pcie := rfl
@[simp] theorem State.fset_pow (s : State) (f : Field) (v : Nat) : (s.fset f v).pow = s.pow := rfl
@[simp] theorem State.fset_boot (s : State) (f : Field) (v : Nat) : (s.fset f v).boot = s.boot := rfl
@[simp] theorem State.fset_trc (s : State) (f : Field) (v : Nat) : (s.fset f v).trc = s.trc := rfl
@[simp] theorem State.fset_tap (s : State) (f : Field) (v : Nat) : (s.fset f v).tap = s.tap := rfl
@[simp] theorem State.fset_freeCtr (s : State) (f : Field) (v : Nat) : (s.fset f v).freeCtr = s.freeCtr := rfl
@[simp] theorem State.fset_pending (s : State) (f : Field) (v : Nat) : (s.fset f v).pending = s.pending := rfl

@[simp] theorem State.fadd_rdata (s : State) (f : Field) (n : Nat) : (s.fadd f n).rdata = s.rdata := rfl
@[simp] theorem State.fadd_rerr (s : State) (f : Field) (n : Nat) : (s.fadd f n).rerr = s.rerr := rfl
@[simp] theorem State.fadd_cyc (s : State) (f : Field) (n : Nat) : (s.fadd f n).cyc = s.cyc := rfl
@[simp] theorem State.fadd_tb (s : State) (f : Field) (n : Nat) : (s.fadd f n).tb = s.tb := rfl
@[simp] theorem State.fadd_ang (s : State) (f : Field) (n : Nat) : (s.fadd f n).ang = s.ang := rfl
@[simp] theorem State.fadd_sch (s : State) (f : Field) (n : Nat) : (s.fadd f n).sch = s.sch := rfl
@[simp] theorem State.fadd_core (s : State) (f : Field) (n : Nat) : (s.fadd f n).core = s.core := rfl
@[simp] theorem State.fadd_mem (s : State) (f : Field) (n : Nat) : (s.fadd f n).mem = s.mem := rfl
@[simp] theorem State.fadd_dram (s : State) (f : Field) (n : Nat) : (s.fadd f n).dram = s.dram := rfl
@[simp] theorem State.fadd_net (s : State) (f : Field) (n : Nat) : (s.fadd f n).net = s.net := rfl
@[simp] theorem State.fadd_pd (s : State) (f : Field) (n : Nat) : (s.fadd f n).pd = s.pd := rfl
@[simp] theorem State.fadd_rook (s : State) (f : Field) (n : Nat) : (s.fadd f n).rook = s.rook := rfl
@[simp] theorem State.fadd_dict (s : State) (f : Field) (n : Nat) : (s.fadd f n).dict = s.dict := rfl
@[simp] theorem State.fadd_mor (s : State) (f : Field) (n : Nat) : (s.fadd f n).mor = s.mor := rfl
@[simp] theorem State.fadd_pcie (s : State) (f : Field) (n : Nat) : (s.fadd f n).pcie = s.pcie := rfl
@[simp] theorem State.fadd_pow (s : State) (f : Field) (n : Nat) : (s.fadd f n).pow = s.pow := rfl
@[simp] theorem State.fadd_boot (s : State) (f : Field) (n : Nat) : (s.fadd f n).boot = s.boot := rfl
@[simp] theorem State.fadd_trc (s : State) (f : Field) (n : Nat) : (s.fadd f n).trc = s.trc := rfl
@[simp] theorem State.fadd_tap (s : State) (f : Field) (n : Nat) : (s.fadd f n).tap = s.tap := rfl
@[simp] theorem State.fadd_freeCtr (s : State) (f : Field) (n : Nat) : (s.fadd f n).freeCtr = s.freeCtr := rfl
@[simp] theorem State.fadd_pending (s : State) (f : Field) (n : Nat) : (s.fadd f n).pending = s.pending := rfl

@[simp] theorem State.flag_rdata (s : State) (f more : Field) (i : Nat) : (s.flag f more i).rdata = s.rdata := by
  unfold State.flag; split <;> rfl
@[simp] theorem State.flag_rerr (s : State) (f more : Field) (i : Nat) : (s.flag f more i).rerr = s.rerr := by
  unfold State.flag; split <;> rfl
@[simp] theorem State.flag_cyc (s : State) (f more : Field) (i : Nat) : (s.flag f more i).cyc = s.cyc := by
  unfold State.flag; split <;> rfl
@[simp] theorem State.flag_tb (s : State) (f more : Field) (i : Nat) : (s.flag f more i).tb = s.tb := by
  unfold State.flag; split <;> rfl
@[simp] theorem State.flag_ang (s : State) (f more : Field) (i : Nat) : (s.flag f more i).ang = s.ang := by
  unfold State.flag; split <;> rfl
@[simp] theorem State.flag_sch (s : State) (f more : Field) (i : Nat) : (s.flag f more i).sch = s.sch := by
  unfold State.flag; split <;> rfl
@[simp] theorem State.flag_core (s : State) (f more : Field) (i : Nat) : (s.flag f more i).core = s.core := by
  unfold State.flag; split <;> rfl
@[simp] theorem State.flag_mem (s : State) (f more : Field) (i : Nat) : (s.flag f more i).mem = s.mem := by
  unfold State.flag; split <;> rfl
@[simp] theorem State.flag_dram (s : State) (f more : Field) (i : Nat) : (s.flag f more i).dram = s.dram := by
  unfold State.flag; split <;> rfl
@[simp] theorem State.flag_net (s : State) (f more : Field) (i : Nat) : (s.flag f more i).net = s.net := by
  unfold State.flag; split <;> rfl
@[simp] theorem State.flag_pd (s : State) (f more : Field) (i : Nat) : (s.flag f more i).pd = s.pd := by
  unfold State.flag; split <;> rfl
@[simp] theorem State.flag_rook (s : State) (f more : Field) (i : Nat) : (s.flag f more i).rook = s.rook := by
  unfold State.flag; split <;> rfl
@[simp] theorem State.flag_dict (s : State) (f more : Field) (i : Nat) : (s.flag f more i).dict = s.dict := by
  unfold State.flag; split <;> rfl
@[simp] theorem State.flag_mor (s : State) (f more : Field) (i : Nat) : (s.flag f more i).mor = s.mor := by
  unfold State.flag; split <;> rfl
@[simp] theorem State.flag_pcie (s : State) (f more : Field) (i : Nat) : (s.flag f more i).pcie = s.pcie := by
  unfold State.flag; split <;> rfl
@[simp] theorem State.flag_pow (s : State) (f more : Field) (i : Nat) : (s.flag f more i).pow = s.pow := by
  unfold State.flag; split <;> rfl
@[simp] theorem State.flag_boot (s : State) (f more : Field) (i : Nat) : (s.flag f more i).boot = s.boot := by
  unfold State.flag; split <;> rfl
@[simp] theorem State.flag_trc (s : State) (f more : Field) (i : Nat) : (s.flag f more i).trc = s.trc := by
  unfold State.flag; split <;> rfl
@[simp] theorem State.flag_tap (s : State) (f more : Field) (i : Nat) : (s.flag f more i).tap = s.tap := by
  unfold State.flag; split <;> rfl
@[simp] theorem State.flag_freeCtr (s : State) (f more : Field) (i : Nat) : (s.flag f more i).freeCtr = s.freeCtr := by
  unfold State.flag; split <;> rfl
@[simp] theorem State.flag_pending (s : State) (f more : Field) (i : Nat) : (s.flag f more i).pending = s.pending := by
  unfold State.flag; split <;> rfl

@[simp] theorem State.freeNext_regs (s : State) : s.freeNext.regs = s.regs := rfl
@[simp] theorem State.freeNext_rdata (s : State) : s.freeNext.rdata = s.rdata := rfl
@[simp] theorem State.freeNext_rerr (s : State) : s.freeNext.rerr = s.rerr := rfl
@[simp] theorem State.freeNext_cyc (s : State) : s.freeNext.cyc = s.cyc := rfl
@[simp] theorem State.freeNext_tb (s : State) : s.freeNext.tb = s.tb := rfl
@[simp] theorem State.freeNext_ang (s : State) : s.freeNext.ang = s.ang := rfl
@[simp] theorem State.freeNext_sch (s : State) : s.freeNext.sch = s.sch := rfl
@[simp] theorem State.freeNext_core (s : State) : s.freeNext.core = s.core := rfl
@[simp] theorem State.freeNext_mem (s : State) : s.freeNext.mem = s.mem := rfl
@[simp] theorem State.freeNext_dram (s : State) : s.freeNext.dram = s.dram := rfl
@[simp] theorem State.freeNext_net (s : State) : s.freeNext.net = s.net := rfl
@[simp] theorem State.freeNext_pd (s : State) : s.freeNext.pd = s.pd := rfl
@[simp] theorem State.freeNext_rook (s : State) : s.freeNext.rook = s.rook := rfl
@[simp] theorem State.freeNext_dict (s : State) : s.freeNext.dict = s.dict := rfl
@[simp] theorem State.freeNext_mor (s : State) : s.freeNext.mor = s.mor := rfl
@[simp] theorem State.freeNext_pcie (s : State) : s.freeNext.pcie = s.pcie := rfl
@[simp] theorem State.freeNext_pow (s : State) : s.freeNext.pow = s.pow := rfl
@[simp] theorem State.freeNext_boot (s : State) : s.freeNext.boot = s.boot := rfl
@[simp] theorem State.freeNext_trc (s : State) : s.freeNext.trc = s.trc := rfl
@[simp] theorem State.freeNext_tap (s : State) : s.freeNext.tap = s.tap := rfl
@[simp] theorem State.freeNext_pending (s : State) : s.freeNext.pending = s.pending := rfl
@[simp] theorem State.freeNext_freeCtr (s : State) : s.freeNext.freeCtr = s.freeCtr + 1 := rfl

/-! ### Slots, images, entries, domains -/

@[simp] theorem State.setSlot_regs (s : State) (i : Nat) (x : Slot) : (s.setSlot i x).regs = s.regs := rfl
@[simp] theorem State.setSlot_rdata (s : State) (i : Nat) (x : Slot) : (s.setSlot i x).rdata = s.rdata := rfl
@[simp] theorem State.setSlot_rerr (s : State) (i : Nat) (x : Slot) : (s.setSlot i x).rerr = s.rerr := rfl
@[simp] theorem State.setSlot_cyc (s : State) (i : Nat) (x : Slot) : (s.setSlot i x).cyc = s.cyc := rfl
@[simp] theorem State.setSlot_tb (s : State) (i : Nat) (x : Slot) : (s.setSlot i x).tb = s.tb := rfl
@[simp] theorem State.setSlot_ang (s : State) (i : Nat) (x : Slot) : (s.setSlot i x).ang = s.ang := rfl
@[simp] theorem State.setSlot_sch (s : State) (i : Nat) (x : Slot) : (s.setSlot i x).sch = s.sch := rfl
@[simp] theorem State.setSlot_mem (s : State) (i : Nat) (x : Slot) : (s.setSlot i x).mem = s.mem := rfl
@[simp] theorem State.setSlot_dram (s : State) (i : Nat) (x : Slot) : (s.setSlot i x).dram = s.dram := rfl
@[simp] theorem State.setSlot_net (s : State) (i : Nat) (x : Slot) : (s.setSlot i x).net = s.net := rfl
@[simp] theorem State.setSlot_pd (s : State) (i : Nat) (x : Slot) : (s.setSlot i x).pd = s.pd := rfl
@[simp] theorem State.setSlot_rook (s : State) (i : Nat) (x : Slot) : (s.setSlot i x).rook = s.rook := rfl
@[simp] theorem State.setSlot_dict (s : State) (i : Nat) (x : Slot) : (s.setSlot i x).dict = s.dict := rfl
@[simp] theorem State.setSlot_mor (s : State) (i : Nat) (x : Slot) : (s.setSlot i x).mor = s.mor := rfl
@[simp] theorem State.setSlot_pcie (s : State) (i : Nat) (x : Slot) : (s.setSlot i x).pcie = s.pcie := rfl
@[simp] theorem State.setSlot_pow (s : State) (i : Nat) (x : Slot) : (s.setSlot i x).pow = s.pow := rfl
@[simp] theorem State.setSlot_boot (s : State) (i : Nat) (x : Slot) : (s.setSlot i x).boot = s.boot := rfl
@[simp] theorem State.setSlot_trc (s : State) (i : Nat) (x : Slot) : (s.setSlot i x).trc = s.trc := rfl
@[simp] theorem State.setSlot_tap (s : State) (i : Nat) (x : Slot) : (s.setSlot i x).tap = s.tap := rfl
@[simp] theorem State.setSlot_freeCtr (s : State) (i : Nat) (x : Slot) : (s.setSlot i x).freeCtr = s.freeCtr := rfl
@[simp] theorem State.setSlot_pending (s : State) (i : Nat) (x : Slot) : (s.setSlot i x).pending = s.pending := rfl

@[simp] theorem State.setImg_regs (s : State) (i w : Nat) (v : Word) : (s.setImg i w v).regs = s.regs := rfl
@[simp] theorem State.setImg_rdata (s : State) (i w : Nat) (v : Word) : (s.setImg i w v).rdata = s.rdata := rfl
@[simp] theorem State.setImg_rerr (s : State) (i w : Nat) (v : Word) : (s.setImg i w v).rerr = s.rerr := rfl
@[simp] theorem State.setImg_cyc (s : State) (i w : Nat) (v : Word) : (s.setImg i w v).cyc = s.cyc := rfl
@[simp] theorem State.setImg_tb (s : State) (i w : Nat) (v : Word) : (s.setImg i w v).tb = s.tb := rfl
@[simp] theorem State.setImg_ang (s : State) (i w : Nat) (v : Word) : (s.setImg i w v).ang = s.ang := rfl
@[simp] theorem State.setImg_sch (s : State) (i w : Nat) (v : Word) : (s.setImg i w v).sch = s.sch := rfl
@[simp] theorem State.setImg_mem (s : State) (i w : Nat) (v : Word) : (s.setImg i w v).mem = s.mem := rfl
@[simp] theorem State.setImg_dram (s : State) (i w : Nat) (v : Word) : (s.setImg i w v).dram = s.dram := rfl
@[simp] theorem State.setImg_net (s : State) (i w : Nat) (v : Word) : (s.setImg i w v).net = s.net := rfl
@[simp] theorem State.setImg_pd (s : State) (i w : Nat) (v : Word) : (s.setImg i w v).pd = s.pd := rfl
@[simp] theorem State.setImg_rook (s : State) (i w : Nat) (v : Word) : (s.setImg i w v).rook = s.rook := rfl
@[simp] theorem State.setImg_dict (s : State) (i w : Nat) (v : Word) : (s.setImg i w v).dict = s.dict := rfl
@[simp] theorem State.setImg_mor (s : State) (i w : Nat) (v : Word) : (s.setImg i w v).mor = s.mor := rfl
@[simp] theorem State.setImg_pcie (s : State) (i w : Nat) (v : Word) : (s.setImg i w v).pcie = s.pcie := rfl
@[simp] theorem State.setImg_pow (s : State) (i w : Nat) (v : Word) : (s.setImg i w v).pow = s.pow := rfl
@[simp] theorem State.setImg_boot (s : State) (i w : Nat) (v : Word) : (s.setImg i w v).boot = s.boot := rfl
@[simp] theorem State.setImg_trc (s : State) (i w : Nat) (v : Word) : (s.setImg i w v).trc = s.trc := rfl
@[simp] theorem State.setImg_tap (s : State) (i w : Nat) (v : Word) : (s.setImg i w v).tap = s.tap := rfl
@[simp] theorem State.setImg_freeCtr (s : State) (i w : Nat) (v : Word) : (s.setImg i w v).freeCtr = s.freeCtr := rfl
@[simp] theorem State.setImg_pending (s : State) (i w : Nat) (v : Word) : (s.setImg i w v).pending = s.pending := rfl

@[simp] theorem State.setWin_regs (s : State) (i l k : Nat) (v : Word) : (s.setWin i l k v).regs = s.regs := rfl
@[simp] theorem State.setWin_rdata (s : State) (i l k : Nat) (v : Word) : (s.setWin i l k v).rdata = s.rdata := rfl
@[simp] theorem State.setWin_rerr (s : State) (i l k : Nat) (v : Word) : (s.setWin i l k v).rerr = s.rerr := rfl
@[simp] theorem State.setWin_cyc (s : State) (i l k : Nat) (v : Word) : (s.setWin i l k v).cyc = s.cyc := rfl
@[simp] theorem State.setWin_tb (s : State) (i l k : Nat) (v : Word) : (s.setWin i l k v).tb = s.tb := rfl
@[simp] theorem State.setWin_ang (s : State) (i l k : Nat) (v : Word) : (s.setWin i l k v).ang = s.ang := rfl
@[simp] theorem State.setWin_sch (s : State) (i l k : Nat) (v : Word) : (s.setWin i l k v).sch = s.sch := rfl
@[simp] theorem State.setWin_mem (s : State) (i l k : Nat) (v : Word) : (s.setWin i l k v).mem = s.mem := rfl
@[simp] theorem State.setWin_dram (s : State) (i l k : Nat) (v : Word) : (s.setWin i l k v).dram = s.dram := rfl
@[simp] theorem State.setWin_net (s : State) (i l k : Nat) (v : Word) : (s.setWin i l k v).net = s.net := rfl
@[simp] theorem State.setWin_pd (s : State) (i l k : Nat) (v : Word) : (s.setWin i l k v).pd = s.pd := rfl
@[simp] theorem State.setWin_rook (s : State) (i l k : Nat) (v : Word) : (s.setWin i l k v).rook = s.rook := rfl
@[simp] theorem State.setWin_dict (s : State) (i l k : Nat) (v : Word) : (s.setWin i l k v).dict = s.dict := rfl
@[simp] theorem State.setWin_mor (s : State) (i l k : Nat) (v : Word) : (s.setWin i l k v).mor = s.mor := rfl
@[simp] theorem State.setWin_pcie (s : State) (i l k : Nat) (v : Word) : (s.setWin i l k v).pcie = s.pcie := rfl
@[simp] theorem State.setWin_pow (s : State) (i l k : Nat) (v : Word) : (s.setWin i l k v).pow = s.pow := rfl
@[simp] theorem State.setWin_boot (s : State) (i l k : Nat) (v : Word) : (s.setWin i l k v).boot = s.boot := rfl
@[simp] theorem State.setWin_trc (s : State) (i l k : Nat) (v : Word) : (s.setWin i l k v).trc = s.trc := rfl
@[simp] theorem State.setWin_tap (s : State) (i l k : Nat) (v : Word) : (s.setWin i l k v).tap = s.tap := rfl
@[simp] theorem State.setWin_freeCtr (s : State) (i l k : Nat) (v : Word) : (s.setWin i l k v).freeCtr = s.freeCtr := rfl
@[simp] theorem State.setWin_pending (s : State) (i l k : Nat) (v : Word) : (s.setWin i l k v).pending = s.pending := rfl

@[simp] theorem State.setEntry_regs (s : State) (c : Nat) (e : Entry) : (s.setEntry c e).regs = s.regs := by
  unfold State.setEntry; split <;> rfl
@[simp] theorem State.setEntry_rdata (s : State) (c : Nat) (e : Entry) : (s.setEntry c e).rdata = s.rdata := by
  unfold State.setEntry; split <;> rfl
@[simp] theorem State.setEntry_rerr (s : State) (c : Nat) (e : Entry) : (s.setEntry c e).rerr = s.rerr := by
  unfold State.setEntry; split <;> rfl
@[simp] theorem State.setEntry_cyc (s : State) (c : Nat) (e : Entry) : (s.setEntry c e).cyc = s.cyc := by
  unfold State.setEntry; split <;> rfl
@[simp] theorem State.setEntry_tb (s : State) (c : Nat) (e : Entry) : (s.setEntry c e).tb = s.tb := by
  unfold State.setEntry; split <;> rfl
@[simp] theorem State.setEntry_ang (s : State) (c : Nat) (e : Entry) : (s.setEntry c e).ang = s.ang := by
  unfold State.setEntry; split <;> rfl
@[simp] theorem State.setEntry_core (s : State) (c : Nat) (e : Entry) : (s.setEntry c e).core = s.core := by
  unfold State.setEntry; split <;> rfl
@[simp] theorem State.setEntry_mem (s : State) (c : Nat) (e : Entry) : (s.setEntry c e).mem = s.mem := by
  unfold State.setEntry; split <;> rfl
@[simp] theorem State.setEntry_dram (s : State) (c : Nat) (e : Entry) : (s.setEntry c e).dram = s.dram := by
  unfold State.setEntry; split <;> rfl
@[simp] theorem State.setEntry_net (s : State) (c : Nat) (e : Entry) : (s.setEntry c e).net = s.net := by
  unfold State.setEntry; split <;> rfl
@[simp] theorem State.setEntry_pd (s : State) (c : Nat) (e : Entry) : (s.setEntry c e).pd = s.pd := by
  unfold State.setEntry; split <;> rfl
@[simp] theorem State.setEntry_rook (s : State) (c : Nat) (e : Entry) : (s.setEntry c e).rook = s.rook := by
  unfold State.setEntry; split <;> rfl
@[simp] theorem State.setEntry_dict (s : State) (c : Nat) (e : Entry) : (s.setEntry c e).dict = s.dict := by
  unfold State.setEntry; split <;> rfl
@[simp] theorem State.setEntry_mor (s : State) (c : Nat) (e : Entry) : (s.setEntry c e).mor = s.mor := by
  unfold State.setEntry; split <;> rfl
@[simp] theorem State.setEntry_pcie (s : State) (c : Nat) (e : Entry) : (s.setEntry c e).pcie = s.pcie := by
  unfold State.setEntry; split <;> rfl
@[simp] theorem State.setEntry_pow (s : State) (c : Nat) (e : Entry) : (s.setEntry c e).pow = s.pow := by
  unfold State.setEntry; split <;> rfl
@[simp] theorem State.setEntry_boot (s : State) (c : Nat) (e : Entry) : (s.setEntry c e).boot = s.boot := by
  unfold State.setEntry; split <;> rfl
@[simp] theorem State.setEntry_trc (s : State) (c : Nat) (e : Entry) : (s.setEntry c e).trc = s.trc := by
  unfold State.setEntry; split <;> rfl
@[simp] theorem State.setEntry_tap (s : State) (c : Nat) (e : Entry) : (s.setEntry c e).tap = s.tap := by
  unfold State.setEntry; split <;> rfl
@[simp] theorem State.setEntry_freeCtr (s : State) (c : Nat) (e : Entry) : (s.setEntry c e).freeCtr = s.freeCtr := by
  unfold State.setEntry; split <;> rfl
@[simp] theorem State.setEntry_pending (s : State) (c : Nat) (e : Entry) : (s.setEntry c e).pending = s.pending := by
  unfold State.setEntry; split <;> rfl

@[simp] theorem State.setCommit_regs (s : State) (c : Nat) (l : List CommitEntry) : (s.setCommit c l).regs = s.regs := rfl
@[simp] theorem State.setCommit_rdata (s : State) (c : Nat) (l : List CommitEntry) : (s.setCommit c l).rdata = s.rdata := rfl
@[simp] theorem State.setCommit_rerr (s : State) (c : Nat) (l : List CommitEntry) : (s.setCommit c l).rerr = s.rerr := rfl
@[simp] theorem State.setCommit_cyc (s : State) (c : Nat) (l : List CommitEntry) : (s.setCommit c l).cyc = s.cyc := rfl
@[simp] theorem State.setCommit_tb (s : State) (c : Nat) (l : List CommitEntry) : (s.setCommit c l).tb = s.tb := rfl
@[simp] theorem State.setCommit_ang (s : State) (c : Nat) (l : List CommitEntry) : (s.setCommit c l).ang = s.ang := rfl
@[simp] theorem State.setCommit_core (s : State) (c : Nat) (l : List CommitEntry) : (s.setCommit c l).core = s.core := rfl
@[simp] theorem State.setCommit_mem (s : State) (c : Nat) (l : List CommitEntry) : (s.setCommit c l).mem = s.mem := rfl
@[simp] theorem State.setCommit_dram (s : State) (c : Nat) (l : List CommitEntry) : (s.setCommit c l).dram = s.dram := rfl
@[simp] theorem State.setCommit_net (s : State) (c : Nat) (l : List CommitEntry) : (s.setCommit c l).net = s.net := rfl
@[simp] theorem State.setCommit_pd (s : State) (c : Nat) (l : List CommitEntry) : (s.setCommit c l).pd = s.pd := rfl
@[simp] theorem State.setCommit_rook (s : State) (c : Nat) (l : List CommitEntry) : (s.setCommit c l).rook = s.rook := rfl
@[simp] theorem State.setCommit_dict (s : State) (c : Nat) (l : List CommitEntry) : (s.setCommit c l).dict = s.dict := rfl
@[simp] theorem State.setCommit_mor (s : State) (c : Nat) (l : List CommitEntry) : (s.setCommit c l).mor = s.mor := rfl
@[simp] theorem State.setCommit_pcie (s : State) (c : Nat) (l : List CommitEntry) : (s.setCommit c l).pcie = s.pcie := rfl
@[simp] theorem State.setCommit_pow (s : State) (c : Nat) (l : List CommitEntry) : (s.setCommit c l).pow = s.pow := rfl
@[simp] theorem State.setCommit_boot (s : State) (c : Nat) (l : List CommitEntry) : (s.setCommit c l).boot = s.boot := rfl
@[simp] theorem State.setCommit_trc (s : State) (c : Nat) (l : List CommitEntry) : (s.setCommit c l).trc = s.trc := rfl
@[simp] theorem State.setCommit_tap (s : State) (c : Nat) (l : List CommitEntry) : (s.setCommit c l).tap = s.tap := rfl
@[simp] theorem State.setCommit_freeCtr (s : State) (c : Nat) (l : List CommitEntry) : (s.setCommit c l).freeCtr = s.freeCtr := rfl
@[simp] theorem State.setCommit_pending (s : State) (c : Nat) (l : List CommitEntry) : (s.setCommit c l).pending = s.pending := rfl

@[simp] theorem State.setPort_regs (s : State) (i : Nat) (p : Port) : (s.setPort i p).regs = s.regs := rfl
@[simp] theorem State.setPort_rdata (s : State) (i : Nat) (p : Port) : (s.setPort i p).rdata = s.rdata := rfl
@[simp] theorem State.setPort_rerr (s : State) (i : Nat) (p : Port) : (s.setPort i p).rerr = s.rerr := rfl
@[simp] theorem State.setPort_cyc (s : State) (i : Nat) (p : Port) : (s.setPort i p).cyc = s.cyc := rfl
@[simp] theorem State.setPort_tb (s : State) (i : Nat) (p : Port) : (s.setPort i p).tb = s.tb := rfl
@[simp] theorem State.setPort_ang (s : State) (i : Nat) (p : Port) : (s.setPort i p).ang = s.ang := rfl
@[simp] theorem State.setPort_core (s : State) (i : Nat) (p : Port) : (s.setPort i p).core = s.core := rfl
@[simp] theorem State.setPort_mem (s : State) (i : Nat) (p : Port) : (s.setPort i p).mem = s.mem := rfl
@[simp] theorem State.setPort_dram (s : State) (i : Nat) (p : Port) : (s.setPort i p).dram = s.dram := rfl
@[simp] theorem State.setPort_net (s : State) (i : Nat) (p : Port) : (s.setPort i p).net = s.net := rfl
@[simp] theorem State.setPort_pd (s : State) (i : Nat) (p : Port) : (s.setPort i p).pd = s.pd := rfl
@[simp] theorem State.setPort_rook (s : State) (i : Nat) (p : Port) : (s.setPort i p).rook = s.rook := rfl
@[simp] theorem State.setPort_dict (s : State) (i : Nat) (p : Port) : (s.setPort i p).dict = s.dict := rfl
@[simp] theorem State.setPort_mor (s : State) (i : Nat) (p : Port) : (s.setPort i p).mor = s.mor := rfl
@[simp] theorem State.setPort_pcie (s : State) (i : Nat) (p : Port) : (s.setPort i p).pcie = s.pcie := rfl
@[simp] theorem State.setPort_pow (s : State) (i : Nat) (p : Port) : (s.setPort i p).pow = s.pow := rfl
@[simp] theorem State.setPort_boot (s : State) (i : Nat) (p : Port) : (s.setPort i p).boot = s.boot := rfl
@[simp] theorem State.setPort_trc (s : State) (i : Nat) (p : Port) : (s.setPort i p).trc = s.trc := rfl
@[simp] theorem State.setPort_tap (s : State) (i : Nat) (p : Port) : (s.setPort i p).tap = s.tap := rfl
@[simp] theorem State.setPort_freeCtr (s : State) (i : Nat) (p : Port) : (s.setPort i p).freeCtr = s.freeCtr := rfl
@[simp] theorem State.setPort_pending (s : State) (i : Nat) (p : Port) : (s.setPort i p).pending = s.pending := rfl

@[simp] theorem State.setDir_regs (s : State) (l : Nat) (e : DirEntry) : (s.setDir l e).regs = s.regs := rfl
@[simp] theorem State.setDir_rdata (s : State) (l : Nat) (e : DirEntry) : (s.setDir l e).rdata = s.rdata := rfl
@[simp] theorem State.setDir_rerr (s : State) (l : Nat) (e : DirEntry) : (s.setDir l e).rerr = s.rerr := rfl
@[simp] theorem State.setDir_cyc (s : State) (l : Nat) (e : DirEntry) : (s.setDir l e).cyc = s.cyc := rfl
@[simp] theorem State.setDir_tb (s : State) (l : Nat) (e : DirEntry) : (s.setDir l e).tb = s.tb := rfl
@[simp] theorem State.setDir_ang (s : State) (l : Nat) (e : DirEntry) : (s.setDir l e).ang = s.ang := rfl
@[simp] theorem State.setDir_sch (s : State) (l : Nat) (e : DirEntry) : (s.setDir l e).sch = s.sch := rfl
@[simp] theorem State.setDir_core (s : State) (l : Nat) (e : DirEntry) : (s.setDir l e).core = s.core := rfl
@[simp] theorem State.setDir_dram (s : State) (l : Nat) (e : DirEntry) : (s.setDir l e).dram = s.dram := rfl
@[simp] theorem State.setDir_net (s : State) (l : Nat) (e : DirEntry) : (s.setDir l e).net = s.net := rfl
@[simp] theorem State.setDir_pd (s : State) (l : Nat) (e : DirEntry) : (s.setDir l e).pd = s.pd := rfl
@[simp] theorem State.setDir_rook (s : State) (l : Nat) (e : DirEntry) : (s.setDir l e).rook = s.rook := rfl
@[simp] theorem State.setDir_dict (s : State) (l : Nat) (e : DirEntry) : (s.setDir l e).dict = s.dict := rfl
@[simp] theorem State.setDir_mor (s : State) (l : Nat) (e : DirEntry) : (s.setDir l e).mor = s.mor := rfl
@[simp] theorem State.setDir_pcie (s : State) (l : Nat) (e : DirEntry) : (s.setDir l e).pcie = s.pcie := rfl
@[simp] theorem State.setDir_pow (s : State) (l : Nat) (e : DirEntry) : (s.setDir l e).pow = s.pow := rfl
@[simp] theorem State.setDir_boot (s : State) (l : Nat) (e : DirEntry) : (s.setDir l e).boot = s.boot := rfl
@[simp] theorem State.setDir_trc (s : State) (l : Nat) (e : DirEntry) : (s.setDir l e).trc = s.trc := rfl
@[simp] theorem State.setDir_tap (s : State) (l : Nat) (e : DirEntry) : (s.setDir l e).tap = s.tap := rfl
@[simp] theorem State.setDir_freeCtr (s : State) (l : Nat) (e : DirEntry) : (s.setDir l e).freeCtr = s.freeCtr := rfl
@[simp] theorem State.setDir_pending (s : State) (l : Nat) (e : DirEntry) : (s.setDir l e).pending = s.pending := rfl

@[simp] theorem State.setLineQ_regs (s : State) (l : Nat) (q : LineQ) : (s.setLineQ l q).regs = s.regs := rfl
@[simp] theorem State.setLineQ_rdata (s : State) (l : Nat) (q : LineQ) : (s.setLineQ l q).rdata = s.rdata := rfl
@[simp] theorem State.setLineQ_rerr (s : State) (l : Nat) (q : LineQ) : (s.setLineQ l q).rerr = s.rerr := rfl
@[simp] theorem State.setLineQ_cyc (s : State) (l : Nat) (q : LineQ) : (s.setLineQ l q).cyc = s.cyc := rfl
@[simp] theorem State.setLineQ_tb (s : State) (l : Nat) (q : LineQ) : (s.setLineQ l q).tb = s.tb := rfl
@[simp] theorem State.setLineQ_ang (s : State) (l : Nat) (q : LineQ) : (s.setLineQ l q).ang = s.ang := rfl
@[simp] theorem State.setLineQ_sch (s : State) (l : Nat) (q : LineQ) : (s.setLineQ l q).sch = s.sch := rfl
@[simp] theorem State.setLineQ_core (s : State) (l : Nat) (q : LineQ) : (s.setLineQ l q).core = s.core := rfl
@[simp] theorem State.setLineQ_dram (s : State) (l : Nat) (q : LineQ) : (s.setLineQ l q).dram = s.dram := rfl
@[simp] theorem State.setLineQ_net (s : State) (l : Nat) (q : LineQ) : (s.setLineQ l q).net = s.net := rfl
@[simp] theorem State.setLineQ_pd (s : State) (l : Nat) (q : LineQ) : (s.setLineQ l q).pd = s.pd := rfl
@[simp] theorem State.setLineQ_rook (s : State) (l : Nat) (q : LineQ) : (s.setLineQ l q).rook = s.rook := rfl
@[simp] theorem State.setLineQ_dict (s : State) (l : Nat) (q : LineQ) : (s.setLineQ l q).dict = s.dict := rfl
@[simp] theorem State.setLineQ_mor (s : State) (l : Nat) (q : LineQ) : (s.setLineQ l q).mor = s.mor := rfl
@[simp] theorem State.setLineQ_pcie (s : State) (l : Nat) (q : LineQ) : (s.setLineQ l q).pcie = s.pcie := rfl
@[simp] theorem State.setLineQ_pow (s : State) (l : Nat) (q : LineQ) : (s.setLineQ l q).pow = s.pow := rfl
@[simp] theorem State.setLineQ_boot (s : State) (l : Nat) (q : LineQ) : (s.setLineQ l q).boot = s.boot := rfl
@[simp] theorem State.setLineQ_trc (s : State) (l : Nat) (q : LineQ) : (s.setLineQ l q).trc = s.trc := rfl
@[simp] theorem State.setLineQ_tap (s : State) (l : Nat) (q : LineQ) : (s.setLineQ l q).tap = s.tap := rfl
@[simp] theorem State.setLineQ_freeCtr (s : State) (l : Nat) (q : LineQ) : (s.setLineQ l q).freeCtr = s.freeCtr := rfl
@[simp] theorem State.setLineQ_pending (s : State) (l : Nat) (q : LineQ) : (s.setLineQ l q).pending = s.pending := rfl

@[simp] theorem State.setAgentLine_regs (s : State) (a l : Nat) (x : AgentLine) : (s.setAgentLine a l x).regs = s.regs := rfl
@[simp] theorem State.setAgentLine_rdata (s : State) (a l : Nat) (x : AgentLine) : (s.setAgentLine a l x).rdata = s.rdata := rfl
@[simp] theorem State.setAgentLine_rerr (s : State) (a l : Nat) (x : AgentLine) : (s.setAgentLine a l x).rerr = s.rerr := rfl
@[simp] theorem State.setAgentLine_cyc (s : State) (a l : Nat) (x : AgentLine) : (s.setAgentLine a l x).cyc = s.cyc := rfl
@[simp] theorem State.setAgentLine_tb (s : State) (a l : Nat) (x : AgentLine) : (s.setAgentLine a l x).tb = s.tb := rfl
@[simp] theorem State.setAgentLine_ang (s : State) (a l : Nat) (x : AgentLine) : (s.setAgentLine a l x).ang = s.ang := rfl
@[simp] theorem State.setAgentLine_sch (s : State) (a l : Nat) (x : AgentLine) : (s.setAgentLine a l x).sch = s.sch := rfl
@[simp] theorem State.setAgentLine_core (s : State) (a l : Nat) (x : AgentLine) : (s.setAgentLine a l x).core = s.core := rfl
@[simp] theorem State.setAgentLine_dram (s : State) (a l : Nat) (x : AgentLine) : (s.setAgentLine a l x).dram = s.dram := rfl
@[simp] theorem State.setAgentLine_net (s : State) (a l : Nat) (x : AgentLine) : (s.setAgentLine a l x).net = s.net := rfl
@[simp] theorem State.setAgentLine_pd (s : State) (a l : Nat) (x : AgentLine) : (s.setAgentLine a l x).pd = s.pd := rfl
@[simp] theorem State.setAgentLine_rook (s : State) (a l : Nat) (x : AgentLine) : (s.setAgentLine a l x).rook = s.rook := rfl
@[simp] theorem State.setAgentLine_dict (s : State) (a l : Nat) (x : AgentLine) : (s.setAgentLine a l x).dict = s.dict := rfl
@[simp] theorem State.setAgentLine_mor (s : State) (a l : Nat) (x : AgentLine) : (s.setAgentLine a l x).mor = s.mor := rfl
@[simp] theorem State.setAgentLine_pcie (s : State) (a l : Nat) (x : AgentLine) : (s.setAgentLine a l x).pcie = s.pcie := rfl
@[simp] theorem State.setAgentLine_pow (s : State) (a l : Nat) (x : AgentLine) : (s.setAgentLine a l x).pow = s.pow := rfl
@[simp] theorem State.setAgentLine_boot (s : State) (a l : Nat) (x : AgentLine) : (s.setAgentLine a l x).boot = s.boot := rfl
@[simp] theorem State.setAgentLine_trc (s : State) (a l : Nat) (x : AgentLine) : (s.setAgentLine a l x).trc = s.trc := rfl
@[simp] theorem State.setAgentLine_tap (s : State) (a l : Nat) (x : AgentLine) : (s.setAgentLine a l x).tap = s.tap := rfl
@[simp] theorem State.setAgentLine_freeCtr (s : State) (a l : Nat) (x : AgentLine) : (s.setAgentLine a l x).freeCtr = s.freeCtr := rfl
@[simp] theorem State.setAgentLine_pending (s : State) (a l : Nat) (x : AgentLine) : (s.setAgentLine a l x).pending = s.pending := rfl

@[simp] theorem State.setL1Set_regs (s : State) (c : Nat) (f : Bool) (l : Nat) (x : L1Set) : (s.setL1Set c f l x).regs = s.regs := rfl
@[simp] theorem State.setL1Set_rdata (s : State) (c : Nat) (f : Bool) (l : Nat) (x : L1Set) : (s.setL1Set c f l x).rdata = s.rdata := rfl
@[simp] theorem State.setL1Set_rerr (s : State) (c : Nat) (f : Bool) (l : Nat) (x : L1Set) : (s.setL1Set c f l x).rerr = s.rerr := rfl
@[simp] theorem State.setL1Set_cyc (s : State) (c : Nat) (f : Bool) (l : Nat) (x : L1Set) : (s.setL1Set c f l x).cyc = s.cyc := rfl
@[simp] theorem State.setL1Set_tb (s : State) (c : Nat) (f : Bool) (l : Nat) (x : L1Set) : (s.setL1Set c f l x).tb = s.tb := rfl
@[simp] theorem State.setL1Set_ang (s : State) (c : Nat) (f : Bool) (l : Nat) (x : L1Set) : (s.setL1Set c f l x).ang = s.ang := rfl
@[simp] theorem State.setL1Set_sch (s : State) (c : Nat) (f : Bool) (l : Nat) (x : L1Set) : (s.setL1Set c f l x).sch = s.sch := rfl
@[simp] theorem State.setL1Set_core (s : State) (c : Nat) (f : Bool) (l : Nat) (x : L1Set) : (s.setL1Set c f l x).core = s.core := rfl
@[simp] theorem State.setL1Set_dram (s : State) (c : Nat) (f : Bool) (l : Nat) (x : L1Set) : (s.setL1Set c f l x).dram = s.dram := rfl
@[simp] theorem State.setL1Set_net (s : State) (c : Nat) (f : Bool) (l : Nat) (x : L1Set) : (s.setL1Set c f l x).net = s.net := rfl
@[simp] theorem State.setL1Set_pd (s : State) (c : Nat) (f : Bool) (l : Nat) (x : L1Set) : (s.setL1Set c f l x).pd = s.pd := rfl
@[simp] theorem State.setL1Set_rook (s : State) (c : Nat) (f : Bool) (l : Nat) (x : L1Set) : (s.setL1Set c f l x).rook = s.rook := rfl
@[simp] theorem State.setL1Set_dict (s : State) (c : Nat) (f : Bool) (l : Nat) (x : L1Set) : (s.setL1Set c f l x).dict = s.dict := rfl
@[simp] theorem State.setL1Set_mor (s : State) (c : Nat) (f : Bool) (l : Nat) (x : L1Set) : (s.setL1Set c f l x).mor = s.mor := rfl
@[simp] theorem State.setL1Set_pcie (s : State) (c : Nat) (f : Bool) (l : Nat) (x : L1Set) : (s.setL1Set c f l x).pcie = s.pcie := rfl
@[simp] theorem State.setL1Set_pow (s : State) (c : Nat) (f : Bool) (l : Nat) (x : L1Set) : (s.setL1Set c f l x).pow = s.pow := rfl
@[simp] theorem State.setL1Set_boot (s : State) (c : Nat) (f : Bool) (l : Nat) (x : L1Set) : (s.setL1Set c f l x).boot = s.boot := rfl
@[simp] theorem State.setL1Set_trc (s : State) (c : Nat) (f : Bool) (l : Nat) (x : L1Set) : (s.setL1Set c f l x).trc = s.trc := rfl
@[simp] theorem State.setL1Set_tap (s : State) (c : Nat) (f : Bool) (l : Nat) (x : L1Set) : (s.setL1Set c f l x).tap = s.tap := rfl
@[simp] theorem State.setL1Set_freeCtr (s : State) (c : Nat) (f : Bool) (l : Nat) (x : L1Set) : (s.setL1Set c f l x).freeCtr = s.freeCtr := rfl
@[simp] theorem State.setL1Set_pending (s : State) (c : Nat) (f : Bool) (l : Nat) (x : L1Set) : (s.setL1Set c f l x).pending = s.pending := rfl

@[simp] theorem State.setDom_rdata (s : State) (d st : Nat) : (s.setDom d st).rdata = s.rdata := rfl
@[simp] theorem State.setDom_rerr (s : State) (d st : Nat) : (s.setDom d st).rerr = s.rerr := rfl
@[simp] theorem State.setDom_cyc (s : State) (d st : Nat) : (s.setDom d st).cyc = s.cyc := rfl
@[simp] theorem State.setDom_tb (s : State) (d st : Nat) : (s.setDom d st).tb = s.tb := rfl
@[simp] theorem State.setDom_ang (s : State) (d st : Nat) : (s.setDom d st).ang = s.ang := rfl
@[simp] theorem State.setDom_sch (s : State) (d st : Nat) : (s.setDom d st).sch = s.sch := rfl
@[simp] theorem State.setDom_core (s : State) (d st : Nat) : (s.setDom d st).core = s.core := rfl
@[simp] theorem State.setDom_mem (s : State) (d st : Nat) : (s.setDom d st).mem = s.mem := rfl
@[simp] theorem State.setDom_dram (s : State) (d st : Nat) : (s.setDom d st).dram = s.dram := rfl
@[simp] theorem State.setDom_net (s : State) (d st : Nat) : (s.setDom d st).net = s.net := rfl
@[simp] theorem State.setDom_pd (s : State) (d st : Nat) : (s.setDom d st).pd = s.pd := rfl
@[simp] theorem State.setDom_rook (s : State) (d st : Nat) : (s.setDom d st).rook = s.rook := rfl
@[simp] theorem State.setDom_dict (s : State) (d st : Nat) : (s.setDom d st).dict = s.dict := rfl
@[simp] theorem State.setDom_mor (s : State) (d st : Nat) : (s.setDom d st).mor = s.mor := rfl
@[simp] theorem State.setDom_pcie (s : State) (d st : Nat) : (s.setDom d st).pcie = s.pcie := rfl
@[simp] theorem State.setDom_pow (s : State) (d st : Nat) : (s.setDom d st).pow = s.pow := rfl
@[simp] theorem State.setDom_boot (s : State) (d st : Nat) : (s.setDom d st).boot = s.boot := rfl
@[simp] theorem State.setDom_trc (s : State) (d st : Nat) : (s.setDom d st).trc = s.trc := rfl
@[simp] theorem State.setDom_tap (s : State) (d st : Nat) : (s.setDom d st).tap = s.tap := rfl
@[simp] theorem State.setDom_freeCtr (s : State) (d st : Nat) : (s.setDom d st).freeCtr = s.freeCtr := rfl
@[simp] theorem State.setDom_pending (s : State) (d st : Nat) : (s.setDom d st).pending = s.pending := rfl

end Sys2Proof.Machine
end

