-- ==== Sys2Proof/Laws/Tab.lean ====
section
/-! SUPPORT. Sparse tables: what is read after a write, and that every operation keeps the canonical form. -/

namespace Sys2Proof.Machine

variable {α : Type}

@[simp] theorem Tab.get_nil (d : α) (x : Nat) : Tab.get d [] x = d := rfl

theorem Tab.get_cons (d : α) (k : Nat) (v : α) (t : Tab α) (x : Nat) :
    Tab.get d ((k, v) :: t) x = if k = x then v else Tab.get d t x := rfl

theorem Tab.get_erase_same (d : α) (t : Tab α) (x : Nat) : Tab.get d (Tab.erase t x) x = d := by
  induction t with
  | nil => rfl
  | cons e t ih =>
    obtain ⟨k, v⟩ := e
    by_cases h : k = x <;> simp [Tab.erase, Tab.get, h, ih]

theorem Tab.get_erase_other (d : α) (t : Tab α) {x y : Nat} (hxy : x ≠ y) : Tab.get d (Tab.erase t x) y = Tab.get d t y := by
  induction t with
  | nil => rfl
  | cons e t ih =>
    obtain ⟨k, v⟩ := e
    by_cases h : k = x
    · subst h; simp [Tab.erase, Tab.get, hxy, ih]
    · simp [Tab.erase, Tab.get, h, ih]

theorem Tab.get_insert_same (d : α) (t : Tab α) (x : Nat) (v : α) : Tab.get d (Tab.insert t x v) x = v := by
  induction t with
  | nil => simp [Tab.insert, Tab.get]
  | cons e t ih =>
    obtain ⟨k, w⟩ := e
    unfold Tab.insert
    split
    · simp [Tab.get]
    · split
      · simp [Tab.get]
      · rename_i h; simp [Tab.get, Ne.symm h, ih]

theorem Tab.get_insert_other (d : α) (t : Tab α) {x y : Nat} (v : α) (hxy : x ≠ y) :
    Tab.get d (Tab.insert t x v) y = Tab.get d t y := by
  induction t with
  | nil => simp [Tab.insert, Tab.get, hxy]
  | cons e t ih =>
    obtain ⟨k, w⟩ := e
    unfold Tab.insert
    split
    · simp [Tab.get, hxy]
    · split
      · rename_i h; subst h; simp [Tab.get, hxy]
      · simp [Tab.get, ih]

/-- What was written is read back. -/
@[simp] theorem Tab.get_set_same [DecidableEq α] (d : α) (t : Tab α) (x : Nat) (v : α) : Tab.get d (Tab.set d t x v) x = v := by
  unfold Tab.set
  split
  · rename_i h; rw [Tab.get_erase_same, h]
  · exact Tab.get_insert_same d t x v

/-- A write leaves every other key alone. -/
theorem Tab.get_set_other [DecidableEq α] (d e : α) (t : Tab α) {x y : Nat} (v : α) (hxy : x ≠ y) :
    Tab.get e (Tab.set d t x v) y = Tab.get e t y := by
  unfold Tab.set
  split
  · exact Tab.get_erase_other e t hxy
  · exact Tab.get_insert_other e t v hxy

theorem Tab.get_set [DecidableEq α] (d : α) (t : Tab α) (x y : Nat) (v : α) :
    Tab.get d (Tab.set d t x v) y = if x = y then v else Tab.get d t y := by
  split
  · rename_i h; subst h; exact Tab.get_set_same d t x v
  · rename_i h; exact Tab.get_set_other d d t v h

theorem Tab.get_keep (d : α) (p : Nat → Bool) (t : Tab α) (x : Nat) :
    Tab.get d (Tab.keep p t) x = if p x then Tab.get d t x else d := by
  induction t with
  | nil => simp [Tab.keep, Tab.get]
  | cons e t ih =>
    obtain ⟨k, v⟩ := e
    by_cases hk : p k
    · by_cases hx : k = x
      · subst hx; simp [Tab.keep, Tab.get, hk]
      · simp [Tab.keep, Tab.get, hk, hx, ih]
    · by_cases hx : k = x
      · subst hx; simp [Tab.keep, hk, ih]
      · simp [Tab.keep, Tab.get, hk, hx, ih]

theorem Tab.get_setRange_below [DecidableEq α] (d : α) (t : Tab α) {x y : Nat} (vs : List α) (h : y < x) :
    Tab.get d (Tab.setRange d t x vs) y = Tab.get d t y := by
  induction vs generalizing t x with
  | nil => rfl
  | cons v vs ih =>
    rw [Tab.setRange, ih _ (Nat.lt_succ_of_lt h), Tab.get_set_other d d t v (Nat.ne_of_gt h)]

/-- The values that a range write puts at consecutive keys. -/
theorem Tab.get_setRange [DecidableEq α] (d : α) (t : Tab α) (x y : Nat) (vs : List α) :
    Tab.get d (Tab.setRange d t x vs) y = if x ≤ y ∧ y < x + vs.length then vs.getD (y - x) d else Tab.get d t y := by
  induction vs generalizing t x with
  | nil => simp [Tab.setRange]
  | cons v vs ih =>
    rw [Tab.setRange]
    rcases Nat.lt_trichotomy y x with h | h | h
    · rw [Tab.get_setRange_below d _ vs (Nat.lt_succ_of_lt h), Tab.get_set_other d d t v (Nat.ne_of_gt h)]
      rw [if_neg (by omega)]
    · subst h
      rw [Tab.get_setRange_below d _ vs (Nat.lt_succ_self y), Tab.get_set_same]
      rw [if_pos (by simp)]
      simp
    · rw [ih, Tab.get_set_other d d t v (Nat.ne_of_lt h)]
      by_cases hy : y < x + 1 + vs.length
      · rw [if_pos (by omega), if_pos (by simp only [List.length_cons]; omega)]
        have : y - x = (y - (x + 1)) + 1 := by omega
        rw [this, List.getD_cons_succ]
      · rw [if_neg (by omega), if_neg (by simp only [List.length_cons]; omega)]

@[simp] theorem Tab.length_getRange (d : α) (t : Tab α) (x n : Nat) : (Tab.getRange d t x n).length = n := by
  induction n generalizing x with
  | zero => rfl
  | succ n ih => simp [Tab.getRange, ih]

/-! ## The canonical form -/

theorem Tab.above_erase {n : Nat} {t : Tab α} (x : Nat) (h : Tab.above n t = true) : Tab.above n (Tab.erase t x) = true := by
  induction t with
  | nil => rfl
  | cons e t ih =>
    obtain ⟨k, v⟩ := e
    simp only [Tab.above, Bool.and_eq_true, decide_eq_true_eq] at h
    by_cases hk : k = x
    · simpa [Tab.erase, hk] using ih h.2
    · simp [Tab.erase, Tab.above, hk, h.1, ih h.2]

theorem Tab.above_insert {n : Nat} {t : Tab α} {x : Nat} (v : α) (hx : n < x) (h : Tab.above n t = true) :
    Tab.above n (Tab.insert t x v) = true := by
  induction t with
  | nil => simp [Tab.insert, Tab.above, hx]
  | cons e t ih =>
    obtain ⟨k, w⟩ := e
    simp only [Tab.above, Bool.and_eq_true, decide_eq_true_eq] at h
    unfold Tab.insert
    split
    · simp [Tab.above, hx, h.1, h.2]
    · split
      · simp [Tab.above, hx, h.2]
      · simp [Tab.above, h.1, ih h.2]

theorem Tab.above_keep {n : Nat} {t : Tab α} (p : Nat → Bool) (h : Tab.above n t = true) : Tab.above n (Tab.keep p t) = true := by
  induction t with
  | nil => rfl
  | cons e t ih =>
    obtain ⟨k, v⟩ := e
    simp only [Tab.above, Bool.and_eq_true, decide_eq_true_eq] at h
    by_cases hk : p k <;> simp [Tab.keep, Tab.above, hk, ih h.2, h.1]

theorem Tab.above_of_lt {n m : Nat} {t : Tab α} (hnm : n < m) (h : Tab.above m t = true) : Tab.above n t = true := by
  induction t with
  | nil => rfl
  | cons e t ih =>
    obtain ⟨k, v⟩ := e
    simp only [Tab.above, Bool.and_eq_true, decide_eq_true_eq] at h ⊢
    exact ⟨Nat.lt_trans hnm h.1, ih h.2⟩

@[simp] theorem Tab.wf_nil [DecidableEq α] (d : Nat → α) : Tab.wf d ([] : Tab α) = true := rfl

theorem Tab.wf_cons [DecidableEq α] {d : Nat → α} {k : Nat} {v : α} {t : Tab α} :
    Tab.wf d ((k, v) :: t) = true ↔ Tab.above k t = true ∧ v ≠ d k ∧ Tab.wf d t = true := by
  simp only [Tab.wf, Bool.and_eq_true, decide_eq_true_eq, and_assoc]

theorem Tab.wf_erase [DecidableEq α] {d : Nat → α} {t : Tab α} (x : Nat) (h : Tab.wf d t = true) :
    Tab.wf d (Tab.erase t x) = true := by
  induction t with
  | nil => rfl
  | cons e t ih =>
    obtain ⟨k, v⟩ := e
    have ⟨ha, hv, ht⟩ := Tab.wf_cons.1 h
    by_cases hk : k = x
    · simpa [Tab.erase, hk] using ih ht
    · simp only [Tab.erase, hk, if_false]
      exact Tab.wf_cons.2 ⟨Tab.above_erase x ha, hv, ih ht⟩

theorem Tab.wf_insert [DecidableEq α] {d : Nat → α} {t : Tab α} {x : Nat} {v : α} (hv : v ≠ d x) (h : Tab.wf d t = true) :
    Tab.wf d (Tab.insert t x v) = true := by
  induction t with
  | nil => simp [Tab.insert, Tab.wf, Tab.above, hv]
  | cons e t ih =>
    obtain ⟨k, w⟩ := e
    have ⟨ha, hw, ht⟩ := Tab.wf_cons.1 h
    unfold Tab.insert
    split
    · rename_i hx
      refine Tab.wf_cons.2 ⟨?_, hv, h⟩
      simp [Tab.above, hx, Tab.above_of_lt hx ha]
    · split
      · rename_i hx; subst hx; exact Tab.wf_cons.2 ⟨ha, hv, ht⟩
      · exact Tab.wf_cons.2 ⟨Tab.above_insert v (by omega) ha, hw, ih ht⟩

/-- A write keeps the canonical form. -/
theorem Tab.wf_set [DecidableEq α] {d : Nat → α} {t : Tab α} (x : Nat) (v : α) (h : Tab.wf d t = true) :
    Tab.wf d (Tab.set (d x) t x v) = true := by
  unfold Tab.set
  split
  · exact Tab.wf_erase x h
  · rename_i hv; exact Tab.wf_insert hv h

theorem Tab.wf_keep [DecidableEq α] {d : Nat → α} {t : Tab α} (p : Nat → Bool) (h : Tab.wf d t = true) :
    Tab.wf d (Tab.keep p t) = true := by
  induction t with
  | nil => rfl
  | cons e t ih =>
    obtain ⟨k, v⟩ := e
    have ⟨ha, hv, ht⟩ := Tab.wf_cons.1 h
    by_cases hk : p k
    · simp only [Tab.keep, hk, if_true]
      exact Tab.wf_cons.2 ⟨Tab.above_keep p ha, hv, ih ht⟩
    · simpa [Tab.keep, hk] using ih ht

theorem Tab.wf_setRange [DecidableEq α] (d : α) {t : Tab α} (x : Nat) (vs : List α) (h : Tab.wf (fun _ => d) t = true) :
    Tab.wf (fun _ => d) (Tab.setRange d t x vs) = true := by
  induction vs generalizing t x with
  | nil => exact h
  | cons v vs ih => exact ih _ (Tab.wf_set (d := fun _ => d) x v h)

/-- Equal contents are equal data: two canonical tables that read the same everywhere are the same table. -/
theorem Tab.wf_ext [DecidableEq α] {d : α} {t u : Tab α} (ht : Tab.wf (fun _ => d) t = true) (hu : Tab.wf (fun _ => d) u = true)
    (h : ∀ x, Tab.get d t x = Tab.get d u x) : t = u := by
  have low : ∀ (w : Tab α) (n x : Nat), Tab.above n w = true → x ≤ n → Tab.get d w x = d := by
    intro w
    induction w with
    | nil => intros; rfl
    | cons e w ih =>
      obtain ⟨k, v⟩ := e
      intro n x ha hx
      simp only [Tab.above, Bool.and_eq_true, decide_eq_true_eq] at ha
      rw [Tab.get_cons, if_neg (by omega)]
      exact ih n x ha.2 hx
  induction t generalizing u with
  | nil =>
    cases u with
    | nil => rfl
    | cons e u =>
      obtain ⟨k, v⟩ := e
      have hv := (Tab.wf_cons.1 hu).2.1
      have := h k
      simp only [Tab.get, if_true] at this
      exact absurd this.symm hv
  | cons e t ih =>
    obtain ⟨k, v⟩ := e
    have ⟨hak, hvk, htw⟩ := Tab.wf_cons.1 ht
    cases u with
    | nil =>
      have := h k
      simp only [Tab.get, if_true] at this
      exact absurd this hvk
    | cons f u =>
      obtain ⟨m, w⟩ := f
      have ⟨ham, hwm, huw⟩ := Tab.wf_cons.1 hu
      have hkm : k = m := by
        rcases Nat.lt_trichotomy k m with hlt | heq | hgt
        · have := h k
          rw [Tab.get_cons, if_pos rfl, Tab.get_cons, if_neg (by omega), low u m k ham (by omega)] at this
          exact absurd this hvk
        · exact heq
        · have := h m
          rw [Tab.get_cons, if_neg (by omega), low t k m hak (by omega), Tab.get_cons, if_pos rfl] at this
          exact absurd this.symm hwm
      subst hkm
      have hvw : v = w := by simpa [Tab.get] using h k
      subst hvw
      congr 1
      refine ih htw huw fun x => ?_
      by_cases hx : k = x
      · subst hx; rw [low t k k hak (Nat.le_refl k), low u k k ham (Nat.le_refl k)]
      · simpa [Tab.get, hx] using h x

end Sys2Proof.Machine
end

