-- ==== Sys2Proof/Laws/Regs.lean ====
section
/-! SUPPORT. Registers and their fields: what is read after a write, and the rule of W1C flags. -/

namespace Sys2Proof.Machine

/-! ## Bit fields -/

theorem testBit_bits (w : Word) (lo n i : Nat) : (bits w lo n).testBit i = (decide (i < n) && w.getLsbD (lo + i)) := by
  simp [bits, Nat.testBit_mod_two_pow, Nat.testBit_shiftRight, BitVec.getLsbD]

theorem getLsbD_maskBits (lo n i : Nat) : (maskBits lo n).getLsbD i = (decide (i < 36) && decide (lo ≤ i ∧ i < lo + n)) := by
  simp only [maskBits, BitVec.getLsbD_ofNat, Nat.testBit_shiftLeft, Nat.testBit_two_pow_sub_one]
  by_cases h : lo ≤ i
  · have : i - lo < n ↔ i < lo + n := by omega
    simp [h, this]
  · simp [h]

/-- A bit of a word with a field replaced. -/
theorem getLsbD_setBits (w : Word) (lo n v i : Nat) :
    (setBits w lo n v).getLsbD i =
      if i < 36 ∧ lo ≤ i ∧ i < lo + n then v.testBit (i - lo) else w.getLsbD i := by
  simp only [setBits, BitVec.getLsbD_or, BitVec.getLsbD_and, BitVec.getLsbD_not, getLsbD_maskBits, BitVec.getLsbD_ofNat,
    Nat.testBit_shiftLeft, Nat.testBit_mod_two_pow]
  by_cases h36 : i < 36
  · by_cases hlo : lo ≤ i
    · by_cases hhi : i < lo + n
      · have : i - lo < n := by omega
        simp [h36, hlo, hhi, this]
      · have : ¬ i - lo < n := by omega
        simp [h36, hlo, hhi, this]
    · simp [h36, hlo]
  · simp [h36, BitVec.getLsbD_of_ge w i (by omega)]

theorem bits_lt (w : Word) (lo n : Nat) : bits w lo n < 2 ^ n := Nat.mod_lt _ (Nat.two_pow_pos n)

/-- A field replaced reads as its new value. -/
theorem bits_setBits_same (w : Word) {lo n : Nat} (v : Nat) (h : lo + n ≤ 36) : bits (setBits w lo n v) lo n = v % 2 ^ n := by
  apply Nat.eq_of_testBit_eq
  intro i
  rw [testBit_bits, Nat.testBit_mod_two_pow, getLsbD_setBits]
  by_cases hi : i < n
  · rw [if_pos ⟨by omega, by omega, by omega⟩]
    simp [hi]
  · simp [hi]

/-- A field apart from the one replaced reads as before. -/
theorem bits_setBits_other (w : Word) {lo n lo' n' : Nat} (v : Nat) (h : lo + n ≤ lo' ∨ lo' + n' ≤ lo) :
    bits (setBits w lo n v) lo' n' = bits w lo' n' := by
  apply Nat.eq_of_testBit_eq
  intro i
  rw [testBit_bits, testBit_bits, getLsbD_setBits]
  by_cases hi : i < n'
  · rw [if_neg (by omega)]
  · simp [hi]

theorem bitAt_eq_bits (w : Word) (i : Nat) : bitAt w i = decide (bits w i 1 = 1) := by
  have h := testBit_bits w i 1 0
  have hlt := bits_lt w i 1
  simp only [Nat.add_zero, Nat.lt_one_iff, decide_true, Bool.true_and] at h
  rw [bitAt, ← h]
  have : bits w i 1 = 0 ∨ bits w i 1 = 1 := by omega
  rcases this with h0 | h1
  · simp [h0]
  · simp [h1]

theorem bitAt_setBits_one (w : Word) {i : Nat} (h : i < 36) : bitAt (setBits w i 1 1) i = true := by
  rw [bitAt, getLsbD_setBits, if_pos ⟨h, by omega, by omega⟩]
  simp

/-! ## Registers -/

@[simp] theorem State.rget_rset_same (s : State) (a : PWord) (v : Word) : (s.rset a v).rget a = v := by
  simp [State.rget, State.rset]

theorem State.rget_rset_other (s : State) {a b : PWord} (v : Word) (h : a ≠ b) : (s.rset a v).rget b = s.rget b := by
  simp only [State.rget, State.rset]
  exact Tab.get_set_other _ _ _ v h

theorem State.rget_rset (s : State) (a b : PWord) (v : Word) : (s.rset a v).rget b = if a = b then v else s.rget b := by
  split
  · rename_i h; subst h; simp
  · rename_i h; exact State.rget_rset_other s v h

/-- A register reads as before where the register file is unchanged. -/
theorem State.rget_congr {s t : State} (h : t.regs = s.regs) (a : PWord) : t.rget a = s.rget a := by
  simp [State.rget, h]

theorem State.fget_congr {s t : State} (h : t.regs = s.regs) (f : Field) : t.fget f = s.fget f := by
  simp [State.fget, State.rget_congr h]

theorem State.fget_lt (s : State) (f : Field) : s.fget f < 2 ^ f.width := bits_lt _ _ _

theorem State.fget_fset_same (s : State) {f : Field} (v : Nat) (h : f.lo + f.width ≤ 36) :
    (s.fset f v).fget f = v % 2 ^ f.width := by
  simp [State.fget, State.fset, bits_setBits_same _ v h]

/-- A write of a field leaves the fields of other registers, and the other fields of its own, as they were. -/
theorem State.fget_fset_other (s : State) {f g : Field} (v : Nat)
    (h : f.addr ≠ g.addr ∨ f.lo + f.width ≤ g.lo ∨ g.lo + g.width ≤ f.lo) : (s.fset f v).fget g = s.fget g := by
  by_cases ha : f.addr = g.addr
  · have hd : f.lo + f.width ≤ g.lo ∨ g.lo + g.width ≤ f.lo := by
      rcases h with h | h
      · exact absurd ha h
      · exact h
    simp only [State.fget, State.fset, ← ha, State.rget_rset_same]
    exact bits_setBits_other _ v hd
  · simp only [State.fget, State.fset]
    rw [State.rget_rset_other s _ ha]

theorem State.rget_fset_other (s : State) {f : Field} {a : PWord} (v : Nat) (h : f.addr ≠ a) : (s.fset f v).rget a = s.rget a :=
  State.rget_rset_other s _ h

theorem State.fget_rset_other (s : State) {a : PWord} {f : Field} (v : Word) (h : a ≠ f.addr) : (s.rset a v).fget f = s.fget f := by
  simp [State.fget, State.rget_rset_other s v h]

/-- An event of hardware writes no register but its flag's. -/
theorem State.rget_flag_other (s : State) {f more : Field} (i : Nat) {a : PWord} (hf : f.addr ≠ a) (hm : more.addr ≠ a) :
    (s.flag f more i).rget a = s.rget a := by
  unfold State.flag
  split
  · exact State.rget_rset_other s _ hm
  · exact State.rget_rset_other s _ hf

/-- The flag of an event of hardware is 1 afterwards (R11). -/
theorem State.bitAt_flag (s : State) {f more : Field} {i : Nat} (ha : f.addr = more.addr) (hne : f.lo ≠ more.lo) (hlo : f.lo + i < 36) :
    bitAt ((s.flag f more i).rget f.addr) (f.lo + i) = true := by
  unfold State.flag
  split
  · rename_i h
    rw [← ha, State.rget_rset_same, bitAt, getLsbD_setBits, if_neg (by omega)]
    exact h
  · rw [State.rget_rset_same]
    exact bitAt_setBits_one _ hlo

end Sys2Proof.Machine
end

