-- ==== Sys2Proof/Laws/Act.lean ====
section
/-! SUPPORT. What surrounds the effect of a command: where the result waits for nothing and brings no further change with it, the
command is its plain effect. -/

namespace Sys2Proof.Machine

/-- What a table reads as at a key is listed there, or its default. -/
theorem Tab.get_mem {α : Type} (d : α) (t : Tab α) (x : Nat) : Tab.get d t x = d ∨ ∃ k, (k, Tab.get d t x) ∈ t := by
  induction t with
  | nil => exact .inl rfl
  | cons e t ih =>
    obtain ⟨k, v⟩ := e
    by_cases h : k = x
    · exact .inr ⟨k, by simp [Tab.get, h]⟩
    · rcases ih with h' | ⟨m, h'⟩
      · exact .inl (by simp [Tab.get, h, h'])
      · exact .inr ⟨m, by simp [Tab.get, h, h']⟩

theorem State.settled_iff (s : State) : s.settled = true ↔
    s.pcie.failed = [] ∧ s.tap.cmd = none ∧ s.pow.rstReq = 0 ∧ (∀ k x, (k, x) ∈ s.dict.sess → (x.map Session.still).getD true = true) ∧
      s.pd.jobs = [] ∧ s.trc.vis = [] ∧ s.relayDue 0 = false ∧ s.relayDue 1 = false := by
  simp only [State.settled, Bool.and_eq_true, List.all_eq_true, List.isEmpty_iff, Option.isNone_iff_eq_none, decide_eq_true_eq,
    Bool.not_eq_true', and_assoc, Prod.forall]

theorem State.serveSession_settled {s : State} (h : s.settled = true) (n : Nat) : s.serveSession n = s := by
  have hall := (s.settled_iff.1 h).2.2.2.1
  unfold State.serveSession
  split
  · rename_i x hx
    have hst : x.still = true := by
      rcases Tab.get_mem none s.dict.sess n with h0 | ⟨k, hm⟩
      · simp [State.sess, h0] at hx
      · have := hall k _ hm
        rw [State.sess] at hx
        rw [hx] at this
        simpa using this
    split
    · rename_i a ha
      simp [Session.still, ha] at hst
    · rfl
  · rfl

/-- Nothing that waits means nothing to serve. -/
theorem State.serve_settled {s : State} (h : s.settled = true) : s.serve = s := by
  have ⟨hf, hc, hr, _, hj, hv, _⟩ := s.settled_iff.1 h
  have hdx : s.serveDx = s := by
    unfold State.serveDx
    induction s.dict.sess.map (·.1) with
    | nil => rfl
    | cons n l ih => rw [List.foldl_cons, State.serveSession_settled h, ih]
  have ho : s.serveOut = s := by
    unfold State.serveOut
    rw [hf]
    simp only [List.foldl_nil, State.setPx]
    rw [← hf]
  have hd : s.serveDb = s := by
    unfold State.serveDb
    rw [hc]
  have hw : s.work = s := if_pos hj
  have hs : s.showRings = s := if_pos (Or.inl hv)
  have hz : s.serveReset = s := by
    unfold State.serveReset
    rw [hr]
    rfl
  unfold State.serve State.live
  split
  · show (((((s.serveOut).serveDb).serveDx).work).showRings).serveReset = s
    rw [ho, hd, hdx, hw, hs, hz]
  · rfl

/-- A change that starts or stops no engine, moves no output binding, holds no pair and lets no relay go brings nothing with it. -/
theorem State.follow_same {s t : State} (hd : t.pdDown = true → s.pdDown = true)
    (hb : ∀ n, n < 8 → t.rget (Reg.PD_DOB n) = s.rget (Reg.PD_DOB n))
    (hp : ∀ k, k < 24 → t.pairState k = lsHold → s.pairState k = lsHold)
    (h0 : t.relayDue 0 = false) (hr1 : t.relayDue 1 = false) : s.follow t = t := by
  have h1 : s.followOutputs t = t := by
    unfold State.followOutputs
    split
    · rename_i h
      simp only [Bool.and_eq_true, Bool.not_eq_true'] at h
      have := hd h.1
      simp [this] at h
    · rfl
  have h2 : s.followBinds t = t := by
    unfold State.followBinds
    split
    · rename_i h
      simp only [List.any_eq_true, List.mem_range, decide_eq_true_eq] at h
      obtain ⟨n, hn, hne⟩ := h
      exact absurd (hb n hn).symm hne
    · rfl
  have h3 : s.followHolds t = t := by
    have fold : ∀ l : List Nat, (∀ k ∈ l, k < 24) → l.foldl (fun u k =>
        if s.pairState k ≠ lsHold ∧ t.pairState k = lsHold then u.traceHold k else u) t = t := by
      intro l
      induction l with
      | nil => intro _; rfl
      | cons k l ih =>
        intro hl
        rw [List.foldl_cons, if_neg]
        · exact ih fun j hj => hl j (List.mem_cons_of_mem _ hj)
        · rintro ⟨hn, hh⟩
          exact hn (hp k (hl k List.mem_cons_self) hh)
    exact fold _ fun k hk => List.mem_range.1 hk
  have h4 : t.followBypass = t := by
    have h0' : ¬(t.fbit (Reg.NP_BYP_HEALTHY 0) && !t.bypassHealthy 0 true) = true := Bool.not_eq_true _ ▸ h0
    have h1' : ¬(t.fbit (Reg.NP_BYP_HEALTHY 1) && !t.bypassHealthy 1 true) = true := Bool.not_eq_true _ ▸ hr1
    simp only [State.followBypass, List.foldl_cons, List.foldl_nil]
    rw [if_neg h0', if_neg h1']
  unfold State.follow
  rw [h1, h2, h3, h4]

/-- The effect of a command whose result is settled and brings nothing with it. -/
theorem State.act_plain {s : State} {b : Block} {f : State → State} (hr : s.running = true) (hb : s.released b = true)
    (hs : (f s).settled = true) (hd : (f s).pdDown = true → s.pdDown = true)
    (ho : ∀ n, n < 8 → (f s).rget (Reg.PD_DOB n) = s.rget (Reg.PD_DOB n))
    (hp : ∀ k, k < 24 → (f s).pairState k = lsHold → s.pairState k = lsHold) : s.act b f = f s := by
  have ⟨_, _, _, _, _, _, h0, h1⟩ := (f s).settled_iff.1 hs
  unfold State.act
  rw [if_pos (by simp [hr, hb]), State.follow_same hd ho hp h0 h1, State.serve_settled hs]

/-- The effect of a command whose result is settled. -/
theorem State.act_settled {s : State} {b : Block} {f : State → State} (hr : s.running = true) (hb : s.released b = true)
    (hs : (s.follow (f s)).settled = true) : s.act b f = s.follow (f s) := by
  unfold State.act
  rw [if_pos (by simp [hr, hb]), State.serve_settled hs]

/-- A command does nothing while the part, or its block, is held. -/
theorem State.act_held {s : State} (b : Block) (f : State → State) (h : (s.running && s.released b) = false) : s.act b f = s := by
  unfold State.act
  rw [if_neg (by simp [h])]

/-- Every block of a booted part is released. -/
theorem State.released_booted {s : State} (h : s.booted = true) (b : Block) : s.released b = true := by
  simp only [State.booted, Bool.and_eq_true, Bool.not_eq_true', decide_eq_true_eq] at h
  obtain ⟨hr, hn⟩ := h
  cases b <;> simp [State.released, hr] <;> omega

theorem State.calm_iff (s : State) : s.calm = true ↔ s.running = true ∧ s.booted = true ∧ s.settled = true := by
  simp only [State.calm, Bool.and_eq_true, and_assoc]

/-- Every block of a part that runs past its boot acts. -/
theorem State.calm_released {s : State} (h : s.calm = true) (b : Block) : s.released b = true :=
  State.released_booted ((s.calm_iff.1 h).2.1) b

end Sys2Proof.Machine
end

