-- ==== Sys2Proof/Laws/Memory.lean ====
section
/-! SUPPORT. Every operation that writes a word of memory, of the Firn, of a thread image or of a register keeps the canonical form of
these stores, and so do raising a source and recording. -/

namespace Sys2Proof.Machine

theorem State.canonical_iff (s : State) :
    s.canonical = true ↔ Tab.wf regReset s.regs = true ∧ Tab.wf (fun _ => 0) s.core.image = true ∧
      Tab.wf (fun _ => 0) s.sch.firn = true ∧ Memory.wf s.mem s.dram = true := by
  simp only [State.canonical, Bool.and_eq_true, and_assoc]

theorem Memory.wf_iff (m : Mem) (d : Dram) :
    Memory.wf m d = true ↔ Tab.wf (fun _ => DirEntry.none) m.dirs = true ∧ Tab.wf (fun _ => AgentLine.none) m.agents = true ∧
      Tab.wf (fun _ => L1Set.none) m.l1 = true ∧ Tab.wf (fun _ => 0) m.sram = true ∧ Tab.wf (fun _ => 0) d.cells = true := by
  simp only [Memory.wf, Bool.and_eq_true, and_assoc]

/-- Only these stores matter. -/
theorem State.canonical_congr {s t : State} (hr : t.regs = s.regs) (hi : t.core.image = s.core.image) (hf : t.sch.firn = s.sch.firn)
    (hm : Memory.wf t.mem t.dram = Memory.wf s.mem s.dram) : t.canonical = s.canonical := by
  simp only [State.canonical, hr, hi, hf, hm]

/-- A fold of operations that each keep the form keeps it. -/
theorem canonical_foldl {α : Type} (f : State → α → State) (hf : ∀ s a, s.canonical = true → (f s a).canonical = true) (l : List α)
    {s : State} (h : s.canonical = true) : (l.foldl f s).canonical = true := by
  induction l generalizing s with
  | nil => exact h
  | cons a l ih => exact ih (hf s a h)

/-! ## Registers -/

theorem State.canonical_rset {s : State} (a : PWord) (v : Word) (h : s.canonical = true) : (s.rset a v).canonical = true := by
  have ⟨hr, hi, hf, hm⟩ := s.canonical_iff.1 h
  exact (State.canonical_iff _).2 ⟨Tab.wf_set (d := regReset) a v hr, hi, hf, hm⟩

theorem State.canonical_fset {s : State} (f : Field) (v : Nat) (h : s.canonical = true) : (s.fset f v).canonical = true :=
  State.canonical_rset _ _ h

theorem State.canonical_fadd {s : State} (f : Field) (n : Nat) (h : s.canonical = true) : (s.fadd f n).canonical = true :=
  State.canonical_fset _ _ h

theorem State.canonical_fmax {s : State} (f : Field) (n : Nat) (h : s.canonical = true) : (s.fmax f n).canonical = true :=
  State.canonical_fset _ _ h

theorem State.canonical_flag {s : State} (f more : Field) (i : Nat) (h : s.canonical = true) : (s.flag f more i).canonical = true := by
  unfold State.flag
  split <;> exact State.canonical_rset _ _ h

/-- Registers dropped from the table read as after reset. -/
theorem State.canonical_keepRegs {s : State} (p : Nat → Bool) (h : s.canonical = true) :
    State.canonical { s with regs := Tab.keep p s.regs } = true := by
  have ⟨hr, hi, hf, hm⟩ := s.canonical_iff.1 h
  exact (State.canonical_iff _).2 ⟨Tab.wf_keep p hr, hi, hf, hm⟩

/-! ## One store replaced by another in its canonical form -/

theorem State.canonical_withImage {s : State} {f : Tab Word} (h : s.canonical = true) (hf : Tab.wf (fun _ => 0) f = true) :
    State.canonical { s with core := { s.core with image := f } } = true :=
  have ⟨hr, _, hi, hm⟩ := s.canonical_iff.1 h
  (State.canonical_iff _).2 ⟨hr, hf, hi, hm⟩

theorem State.canonical_withFirn {s : State} {f : Tab Sealed} (h : s.canonical = true) (hf : Tab.wf (fun _ => 0) f = true) :
    State.canonical { s with sch := { s.sch with firn := f } } = true :=
  have ⟨hr, hi, _, hm⟩ := s.canonical_iff.1 h
  (State.canonical_iff _).2 ⟨hr, hi, hf, hm⟩

theorem State.canonical_withMem {s : State} {m : Mem} {d : Dram} (h : s.canonical = true) (hm : Memory.wf m d = true) :
    State.canonical { s with mem := m, dram := d } = true :=
  have ⟨hr, hi, hf, _⟩ := s.canonical_iff.1 h
  (State.canonical_iff _).2 ⟨hr, hi, hf, hm⟩

theorem State.canonical_withDirs {s : State} {f : Tab DirEntry} (h : s.canonical = true) (hf : Tab.wf (fun _ => DirEntry.none) f = true) :
    State.canonical { s with mem := { s.mem with dirs := f } } = true :=
  have ⟨_, hb, hc, hs, hd⟩ := (Memory.wf_iff _ _).1 (s.canonical_iff.1 h).2.2.2
  State.canonical_withMem h ((Memory.wf_iff _ _).2 ⟨hf, hb, hc, hs, hd⟩)

theorem State.canonical_withAgents {s : State} {f : Tab AgentLine} (h : s.canonical = true) (hf : Tab.wf (fun _ => AgentLine.none) f = true) :
    State.canonical { s with mem := { s.mem with agents := f } } = true :=
  have ⟨ha, _, hc, hs, hd⟩ := (Memory.wf_iff _ _).1 (s.canonical_iff.1 h).2.2.2
  State.canonical_withMem h ((Memory.wf_iff _ _).2 ⟨ha, hf, hc, hs, hd⟩)

theorem State.canonical_withL1 {s : State} {f : Tab L1Set} (h : s.canonical = true) (hf : Tab.wf (fun _ => L1Set.none) f = true) :
    State.canonical { s with mem := { s.mem with l1 := f } } = true :=
  have ⟨ha, hb, _, hs, hd⟩ := (Memory.wf_iff _ _).1 (s.canonical_iff.1 h).2.2.2
  State.canonical_withMem h ((Memory.wf_iff _ _).2 ⟨ha, hb, hf, hs, hd⟩)

theorem State.canonical_withSram {s : State} {f : Tab Sealed} (h : s.canonical = true) (hf : Tab.wf (fun _ => 0) f = true) :
    State.canonical { s with mem := { s.mem with sram := f } } = true :=
  have ⟨ha, hb, hc, _, hd⟩ := (Memory.wf_iff _ _).1 (s.canonical_iff.1 h).2.2.2
  State.canonical_withMem h ((Memory.wf_iff _ _).2 ⟨ha, hb, hc, hf, hd⟩)

theorem State.canonical_withCells {s : State} {f : Tab Sealed} (h : s.canonical = true) (hf : Tab.wf (fun _ => 0) f = true) :
    State.canonical { s with dram := { s.dram with cells := f } } = true :=
  have ⟨ha, hb, hc, hs, _⟩ := (Memory.wf_iff _ _).1 (s.canonical_iff.1 h).2.2.2
  State.canonical_withMem h ((Memory.wf_iff _ _).2 ⟨ha, hb, hc, hs, hf⟩)

theorem State.wf_image {s : State} (h : s.canonical = true) : Tab.wf (fun _ => 0) s.core.image = true := (s.canonical_iff.1 h).2.1
theorem State.wf_firn {s : State} (h : s.canonical = true) : Tab.wf (fun _ => 0) s.sch.firn = true := (s.canonical_iff.1 h).2.2.1
theorem State.wf_mem {s : State} (h : s.canonical = true) : Memory.wf s.mem s.dram = true := (s.canonical_iff.1 h).2.2.2
theorem State.wf_dirs {s : State} (h : s.canonical = true) : Tab.wf (fun _ => DirEntry.none) s.mem.dirs = true :=
  ((Memory.wf_iff _ _).1 (State.wf_mem h)).1
theorem State.wf_agents {s : State} (h : s.canonical = true) : Tab.wf (fun _ => AgentLine.none) s.mem.agents = true :=
  ((Memory.wf_iff _ _).1 (State.wf_mem h)).2.1
theorem State.wf_l1 {s : State} (h : s.canonical = true) : Tab.wf (fun _ => L1Set.none) s.mem.l1 = true :=
  ((Memory.wf_iff _ _).1 (State.wf_mem h)).2.2.1
theorem State.wf_sram {s : State} (h : s.canonical = true) : Tab.wf (fun _ => 0) s.mem.sram = true :=
  ((Memory.wf_iff _ _).1 (State.wf_mem h)).2.2.2.1
theorem State.wf_cells {s : State} (h : s.canonical = true) : Tab.wf (fun _ => 0) s.dram.cells = true :=
  ((Memory.wf_iff _ _).1 (State.wf_mem h)).2.2.2.2

theorem wf_setSealed {t : Tab Sealed} (x : Nat) (v : Sealed) (h : Tab.wf (fun _ => 0) t = true) :
    Tab.wf (fun _ => 0) (Tab.set 0 t x v) = true := Tab.wf_set (d := fun _ => 0) x v h

/-! ## Thread images and the Firn -/

theorem State.canonical_setImg {s : State} (i w : Nat) (v : Word) (h : s.canonical = true) : (s.setImg i w v).canonical = true := by
  unfold State.setImg
  exact State.canonical_withImage h (Tab.wf_set (d := fun _ => 0) _ v (State.wf_image h))

theorem State.canonical_setFirn {s : State} (c w : Nat) (v : Word) (h : s.canonical = true) : (s.setFirn c w v).canonical = true := by
  unfold State.setFirn
  exact State.canonical_withFirn h (wf_setSealed _ _ (State.wf_firn h))

theorem State.canonical_zeroFirn {s : State} (c : Nat) (h : s.canonical = true) : (s.zeroFirn c).canonical = true := by
  unfold State.zeroFirn
  exact State.canonical_withFirn h (Tab.wf_keep _ (State.wf_firn h))

theorem State.canonical_writeBack {s : State} (i c : Nat) (h : s.canonical = true) : (s.writeBack i c).canonical = true := by
  unfold State.writeBack
  exact State.canonical_withFirn h (Tab.wf_setRange 0 _ _ (State.wf_firn h))

/-! ## Memory -/

theorem State.canonical_setDir {s : State} (line : Nat) (e : DirEntry) (h : s.canonical = true) : (s.setDir line e).canonical = true :=
  State.canonical_withDirs h (Tab.wf_set (d := fun _ => DirEntry.none) _ e (State.wf_dirs h))

theorem State.canonical_setAgentLine {s : State} (a line : Nat) (x : AgentLine) (h : s.canonical = true) :
    (s.setAgentLine a line x).canonical = true :=
  State.canonical_withAgents h (Tab.wf_set (d := fun _ => AgentLine.none) _ x (State.wf_agents h))

theorem State.canonical_setL1Set {s : State} (c : Nat) (f : Bool) (line : Nat) (x : L1Set) (h : s.canonical = true) :
    (s.setL1Set c f line x).canonical = true :=
  State.canonical_withL1 h (Tab.wf_set (d := fun _ => L1Set.none) _ x (State.wf_l1 h))

theorem State.canonical_putWords {s : State} (line : Nat) (ws : List (Fin 16 × Word)) (h : s.canonical = true) :
    (s.putWords line ws).canonical = true := State.canonical_setDir _ _ h

theorem State.canonical_touchAgent {s : State} (a line : Nat) (h : s.canonical = true) : (s.touchAgent a line).canonical = true :=
  State.canonical_setAgentLine (s := s.nextTurn) _ _ _ (((State.canonical_congr rfl rfl rfl rfl)).trans h)

/-- A word of the secure SRAM after a store. -/
theorem State.canonical_sramWord {st : State × Bool} (w : PWord × BitVec 4 × Word) (h : st.1.canonical = true) :
    (State.sramWord st w).1.canonical = true := by
  unfold State.sramWord
  dsimp only
  split
  · exact h
  · split
    · exact State.canonical_withSram h (wf_setSealed _ _ (State.wf_sram h))
    · split
      · exact State.canonical_withSram h (wf_setSealed _ _ (State.wf_sram h))
      · exact h

/-- The cells of a line of DRAM after the write of a queued line. -/
theorem State.canonical_setCells {s : State} (k : Nat) (ws : List Sealed) (h : s.canonical = true) :
    State.canonical { s with dram := { s.dram with cells := Tab.setRange 0 s.dram.cells k ws } } = true :=
  State.canonical_withCells h (Tab.wf_setRange 0 _ _ (State.wf_cells h))

/-- The cells of a channel that is zeroed. -/
theorem State.canonical_keepCells {s : State} (p : Nat → Bool) (h : s.canonical = true) :
    State.canonical { s with dram := { s.dram with cells := Tab.keep p s.dram.cells } } = true :=
  State.canonical_withCells h (Tab.wf_keep p (State.wf_cells h))

/-- The lines of an agent that has lost its power, and of its cores. -/
theorem State.canonical_keepAgents {s : State} (p q : Nat → Bool) (h : s.canonical = true) :
    State.canonical { s with mem := { s.mem with agents := Tab.keep p s.mem.agents, l1 := Tab.keep q s.mem.l1 } } = true :=
  State.canonical_withL1 (State.canonical_withAgents h (Tab.wf_keep p (State.wf_agents h))) (Tab.wf_keep q (State.wf_l1 h))

/-! ## What writes none of these stores -/

theorem State.canonical_setLineQ (s : State) (l : Nat) (q : LineQ) : (s.setLineQ l q).canonical = s.canonical := rfl
theorem State.canonical_setEntry (s : State) (c : Nat) (e : Entry) : (s.setEntry c e).canonical = s.canonical := by
  unfold State.setEntry; split <;> rfl
theorem State.canonical_setSlot (s : State) (i : Nat) (x : Slot) : (s.setSlot i x).canonical = s.canonical := rfl
theorem State.canonical_setMor (s : State) (m : Mor) : (s.setMor m).canonical = s.canonical := rfl
theorem State.canonical_setDict (s : State) (d : Dict) : (s.setDict d).canonical = s.canonical := rfl
theorem State.canonical_setNet (s : State) (n : Net) : (s.setNet n).canonical = s.canonical := rfl
theorem State.canonical_setPx (s : State) (p : Pcie) : (s.setPx p).canonical = s.canonical := rfl
theorem State.canonical_setPow (s : State) (p : Pow) : (s.setPow p).canonical = s.canonical := rfl
theorem State.canonical_setTap (s : State) (t : Tap) : (s.setTap t).canonical = s.canonical := rfl
theorem State.canonical_setBoot (s : State) (b : Boot) : (s.setBoot b).canonical = s.canonical := rfl
theorem State.canonical_setTrc (s : State) (t : Trc) : (s.setTrc t).canonical = s.canonical := rfl

/-! ## Sources and records -/

theorem State.canonical_setEntry' {s : State} (c : Nat) (e : Entry) (h : s.canonical = true) : (s.setEntry c e).canonical = true :=
  (State.canonical_setEntry s c e).trans h

theorem State.canonical_markWake (s : State) (p l : Nat) (w : Bool) : (s.markWake p l w).canonical = s.canonical := by
  unfold State.markWake
  split <;> rfl

theorem State.canonical_missed {s : State} (c n : Nat) (h : s.canonical = true) : (s.missed c n).canonical = true := by
  unfold State.missed
  split
  · exact h
  · dsimp only
    split
    · exact State.canonical_setEntry' _ _ h
    · exact State.canonical_flag _ _ _ (State.canonical_fadd _ _ (State.canonical_setEntry' _ _ h))

theorem State.canonical_eventDue {s : State} (c : Nat) (h : s.canonical = true) : (s.eventDue c).canonical = true := by
  unfold State.eventDue
  dsimp only
  split
  · exact State.canonical_missed _ _ h
  · split
    · exact State.canonical_missed _ _ (State.canonical_setEntry' _ _ h)
    · exact State.canonical_setEntry' _ _ h

theorem State.canonical_raiseEntries (n : Nat) (l : Tab Entry) {s : State} (h : s.canonical = true) :
    (State.raiseEntries n l s).canonical = true := by
  induction l generalizing s with
  | nil => exact h
  | cons x l ih =>
    obtain ⟨c, e⟩ := x
    unfold State.raiseEntries
    split
    · exact ih (State.canonical_eventDue c h)
    · exact ih h

theorem State.canonical_pendLine {s : State} (p l : Nat) (h : s.canonical = true) : (s.pendLine p l).canonical = true := by
  have h1 : (s.flag (Reg.CP_IPEND_PEND p (l / 16)) (Reg.CP_IPEND_PEND_MORE p (l / 16)) (l % 16)).canonical = true :=
    State.canonical_flag _ _ _ h
  unfold State.pendLine
  generalize s.flag (Reg.CP_IPEND_PEND p (l / 16)) (Reg.CP_IPEND_PEND_MORE p (l / 16)) (l % 16) = s1 at h1
  dsimp only
  split
  · split
    · exact h1
    · exact (State.canonical_markWake _ _ _ _).trans h1
  · exact State.canonical_flag _ _ _ ((State.canonical_markWake _ _ _ _).trans h1)

theorem State.canonical_raiseLines (n : Nat) (l : Tab Word) {s : State} (h : s.canonical = true) :
    (State.raiseLines n l s).canonical = true := by
  induction l generalizing s with
  | nil => exact h
  | cons x l ih =>
    obtain ⟨a, w⟩ := x
    unfold State.raiseLines
    apply ih
    split
    · exact h
    · split
      · exact State.canonical_pendLine _ _ h
      · exact h

theorem State.canonical_raise {s : State} (n : Nat) (h : s.canonical = true) : (s.raise n).canonical = true :=
  State.canonical_raiseLines n _ (State.canonical_raiseEntries n _ h)

theorem State.canonical_qdep {s : State} (h : s.canonical = true) : s.qdep.canonical = true := State.canonical_fset _ _ h

theorem State.canonical_dropRecord {s : State} (h : s.canonical = true) : s.dropRecord.canonical = true := by
  unfold State.dropRecord
  exact State.canonical_raise _ (State.canonical_flag _ _ _ (State.canonical_fadd _ _ h))

theorem State.canonical_ffFull {s : State} (h : s.canonical = true) : s.ffFull.canonical = true := by
  unfold State.ffFull
  dsimp only
  split
  · exact State.canonical_flag _ _ _ (State.canonical_fset _ _ h)
  · exact State.canonical_raise _ (State.canonical_flag _ _ _ (State.canonical_fset _ _ h))

theorem State.canonical_record {s : State} (ty code part subj : Nat) (data : Word) (conts : List (List Word)) (h : s.canonical = true) :
    (s.record ty code part subj data conts).canonical = true := by
  have fin : ∀ (u : State) (b : Bool) (q : List MoPend), u.canonical = true →
      (if b = true then u.dropRecord else ({ u with mor := { u.mor with queue := q } } : State).qdep).canonical = true := by
    intro u b q hu
    split
    · exact State.canonical_dropRecord hu
    · exact State.canonical_qdep (s := { u with mor := { u.mor with queue := q } }) hu
  unfold State.record
  dsimp only
  apply fin
  split
  · exact State.canonical_ffFull h
  · exact h

theorem State.canonical_refusal {s : State} (status part subj blk op arg : Nat) (h : s.canonical = true) :
    (s.refusal status part subj blk op arg).canonical = true := State.canonical_record _ _ _ _ _ _ h

end Sys2Proof.Machine
end

