-- ==== Sys2Proof/Laws/Ops.lean ====
section
/-! SUPPORT. What raising a source and recording can change. -/

namespace Sys2Proof.Machine

/-- Two states that differ in nothing but registers, scheduler entries, alarms and the Moraine. -/
def State.sameBut (s t : State) : Prop :=
  t = { s with regs := t.regs, sch := { s.sch with entries := t.sch.entries, entryErr := t.sch.entryErr, wakes := t.sch.wakes }, dict := { s.dict with alarms := t.dict.alarms },
               mor := t.mor }

theorem State.sameBut_refl (s : State) : s.sameBut s := rfl

theorem State.sameBut_trans {s t u : State} (h : s.sameBut t) (k : t.sameBut u) : s.sameBut u := by
  unfold State.sameBut at *
  rw [k, h]

theorem State.sameBut_rset (s : State) (a : PWord) (v : Word) : s.sameBut (s.rset a v) := rfl

theorem State.sameBut_fset (s : State) (f : Field) (v : Nat) : s.sameBut (s.fset f v) := rfl

theorem State.sameBut_fadd (s : State) (f : Field) (n : Nat) : s.sameBut (s.fadd f n) := rfl

theorem State.sameBut_flag (s : State) (f more : Field) (i : Nat) : s.sameBut (s.flag f more i) := by
  unfold State.flag
  split <;> rfl

theorem State.sameBut_setEntry (s : State) (c : Nat) (e : Entry) : s.sameBut (s.setEntry c e) := by
  unfold State.setEntry
  split <;> rfl

theorem State.sameBut_missed (s : State) (c n : Nat) : s.sameBut (s.missed c n) := by
  unfold State.missed
  split
  · rfl
  · dsimp only
    split
    · exact State.sameBut_setEntry _ _ _
    · exact State.sameBut_trans (State.sameBut_trans (State.sameBut_setEntry s c _) (State.sameBut_fadd _ _ _))
        (State.sameBut_flag _ _ _ _)

theorem State.sameBut_eventDue (s : State) (c : Nat) : s.sameBut (s.eventDue c) := by
  unfold State.eventDue
  dsimp only
  split
  · exact State.sameBut_missed s c 1
  · split
    · exact State.sameBut_trans (State.sameBut_setEntry s c _) (State.sameBut_missed _ c 1)
    · exact State.sameBut_setEntry s c _

theorem State.sameBut_markWake (s : State) (p l : Nat) (w : Bool) : s.sameBut (s.markWake p l w) := by
  unfold State.markWake
  split <;> rfl

theorem State.sameBut_raiseEntries (n : Nat) (l : Tab Entry) (s : State) : s.sameBut (State.raiseEntries n l s) := by
  induction l generalizing s with
  | nil => rfl
  | cons x l ih =>
    obtain ⟨c, e⟩ := x
    unfold State.raiseEntries
    split
    · exact State.sameBut_trans (State.sameBut_eventDue s c) (ih _)
    · exact ih s

theorem State.sameBut_pendLine (s : State) (p l : Nat) : s.sameBut (s.pendLine p l) := by
  have h1 := State.sameBut_flag s (Reg.CP_IPEND_PEND p (l / 16)) (Reg.CP_IPEND_PEND_MORE p (l / 16)) (l % 16)
  unfold State.pendLine
  generalize s.flag (Reg.CP_IPEND_PEND p (l / 16)) (Reg.CP_IPEND_PEND_MORE p (l / 16)) (l % 16) = s1 at h1
  dsimp only
  split
  · split
    · exact h1
    · exact State.sameBut_trans h1 (State.sameBut_markWake _ _ _ _)
  · exact State.sameBut_trans (State.sameBut_trans h1 (State.sameBut_markWake _ _ _ _)) (State.sameBut_flag _ _ _ _)

theorem State.sameBut_raiseLines (n : Nat) (l : Tab Word) (s : State) : s.sameBut (State.raiseLines n l s) := by
  induction l generalizing s with
  | nil => rfl
  | cons x l ih =>
    obtain ⟨a, w⟩ := x
    unfold State.raiseLines
    refine State.sameBut_trans ?_ (ih _)
    split
    · rfl
    · split
      · exact State.sameBut_pendLine s _ _
      · rfl

/-- Raising a source changes registers, entries and alarms alone (R83, R229, R461). -/
theorem State.sameBut_raise (s : State) (n : Nat) : s.sameBut (s.raise n) := by
  unfold State.raise
  exact State.sameBut_trans (State.sameBut_trans (State.sameBut_raiseEntries n _ s) (State.sameBut_raiseLines n _ _)) rfl

theorem State.sameBut_qdep (s : State) : s.sameBut s.qdep := rfl

theorem State.sameBut_dropRecord (s : State) : s.sameBut s.dropRecord := by
  have put : ∀ (u : State) (m : Mor), s.sameBut u → s.sameBut { u with mor := m } := fun u m hu => State.sameBut_trans hu rfl
  unfold State.dropRecord
  exact State.sameBut_trans (put _ _ (State.sameBut_trans (State.sameBut_fadd _ _ _) (State.sameBut_flag _ _ _ _)))
    (State.sameBut_raise _ 116)

/-- A full first-fault region changes its flags, and what source 117 changes (R476). -/
theorem State.sameBut_ffFull (s : State) : s.sameBut s.ffFull := by
  unfold State.ffFull
  dsimp only
  split
  · exact State.sameBut_trans (State.sameBut_fset _ _ _) (State.sameBut_flag _ _ _ _)
  · exact State.sameBut_trans (State.sameBut_trans (State.sameBut_fset _ _ _) (State.sameBut_flag _ _ _ _)) (State.sameBut_raise _ 117)

/-- A record changes the Moraine, and what a source raised for want of room changes (R475 to R477, R479). -/
theorem State.sameBut_record (s : State) (ty code part subj : Nat) (data : Word) (conts : List (List Word)) :
    s.sameBut (s.record ty code part subj data conts) := by
  have fin : ∀ (u : State) (b : Bool) (q : List MoPend), s.sameBut u →
      s.sameBut (if b = true then u.dropRecord else ({ u with mor := { u.mor with queue := q } } : State).qdep) := by
    intro u b q hu
    split
    · exact State.sameBut_trans hu (State.sameBut_dropRecord u)
    · exact State.sameBut_trans hu rfl
  unfold State.record
  dsimp only
  apply fin
  split
  · exact State.sameBut_ffFull s
  · rfl

theorem State.sameBut_refusal (s : State) (status part subj blk op arg : Nat) : s.sameBut (s.refusal status part subj blk op arg) :=
  State.sameBut_record _ _ _ _ _ _ _

/-- What no source and no record touches. -/
theorem State.sameBut_core {s t : State} (h : s.sameBut t) : t.core = s.core ∧ t.mem = s.mem ∧ t.dram = s.dram ∧ t.pow = s.pow ∧
    t.tap = s.tap ∧ t.pcie = s.pcie ∧ t.net = s.net ∧ t.pd = s.pd ∧ t.cyc = s.cyc ∧ t.tb = s.tb := by
  unfold State.sameBut at h
  rw [h]
  simp

/-- A settled state stays settled, where no relay is due to be let go. -/
theorem State.sameBut_settled {s t : State} (h : s.sameBut t) (h0 : t.relayDue 0 = s.relayDue 0) (h1 : t.relayDue 1 = s.relayDue 1) :
    t.settled = s.settled := by
  have e : t.pcie = s.pcie ∧ t.tap = s.tap ∧ t.pow = s.pow ∧ t.dict.sess = s.dict.sess ∧ t.pd = s.pd ∧ t.trc = s.trc := by
    unfold State.sameBut at h
    rw [h]
    simp
  simp only [State.settled, e, h0, h1]

end Sys2Proof.Machine
end

