-- ==== Sys2Proof/Tests/Slice0.lean ====
section
/-! SUPPORT. Tests: ill-formed commands that the check refuses, small effects, and for every statement with hypotheses a named theorem
that shows a concrete state and operands that meet them together. The helper states are small: a part past its boot, and one thread. -/

namespace Sys2Proof.Tests
set_option Elab.async false
open Machine

/-- The part with every domain on, past its boot, and its pairs split. -/
def up : State :=
  let s := (List.range 5).foldl (fun t i => t.rset (Reg.PM_DSTAT i) 0x555555555) State.reset
  let s := s.setBoot { s.boot with rom := false, done := 6 }
  let s := ((s.fset Reg.FN_STAT_H0UP 1).fset Reg.FN_STAT_H1UP 1).fset Reg.SC_CFG_EN 1
  (List.range 24).foldl (fun t k => t.fset (Reg.LS_STAT_STATE k) 3) s

/-- A request from level `l` of context 0 of partition 0. -/
def req (l : Level) : Requester := ⟨l, decide (l = .m), 0, 0, false⟩

/-- An entry: trigger type, class G, enabled, state and slot. -/
def ent (ttype : Nat) (g en : Bool) (st : Nat) (slot : Nat := 0) : Entry :=
  { Entry.free with
    cfg := BitVec.ofNat 36 (ttype + b2n g * 4 + b2n en * 8), stat := BitVec.ofNat 36 (st + slot * 16), bud := 1000 }

/-! ## Time base and references -/

/-- The time base in state `st` with source `act` in use; PRI is PPS (2) and SEC is PTP (1). -/
def inTb (st act : Nat) : State :=
  (((up.fset Reg.AN_TB_STAT_STATE st).fset Reg.AN_TB_STAT_ACT act).fset Reg.AN_TB_CFG_PRI 2).fset Reg.AN_TB_CFG_SEC 1

/-- Reference 3 measured, locked, its last phasor accepted long ago. -/
def refAt (st : Nat) : State :=
  let s := up.fset (Reg.AN_REF_STAT_STATE 3) st
  { (s.setRef 3 { s.ref 3 with cfg := 1, lastAcc := some 0 }) with tb := 2 ^ 64 }

/-- The same with the time set, REFSEL and PPSOUT and a leap second announced. -/
def timeSet : State := ((up.fset Reg.AN_TB_STAT_SET 1).fset Reg.AN_TB_CFG_PPSOUT 1).fset Reg.AN_UTC_LEAP61 1

/-- An IRIG-B frame of a second in 1971, and one that does not decode. -/
def frame71 (good : Bool) : IrigFrame := { good := good, year := some 1971, day := 1, hour := 0, minute := 0, second := 5, ext := none }

theorem witness_TimeBaseCommands :
    (let s := up
     s.calm = true ∧ true ≠ s.fbit Reg.AN_TB_CFG_PPSEDGE ∧ s.priSrc ≠ 2 ∧ s.priSrc ≠ 4 ∧ s.secSrc ≠ 2 ∧ s.secSrc ≠ 4 ∧
       s.storeGuard .m Reg.AN_SET_LO = none ∧ s.tbState = 0 ∧ bits (999999999 * 4) 2 30 < 1000000000) ∧
    (let s := (((inTb 2 4).fset Reg.AN_TB_CFG_PRI 4).fset Reg.AN_TB_STAT_SET 1)
     s.calm = true ∧ true ≠ s.fbit Reg.AN_TB_CFG_PPSEDGE ∧ s.priSrc = 4 ∧ s.secSrc ≠ 2 ∧ s.tbState = 2 ∧
       s.fbit Reg.AN_TB_STAT_SET = true ∧ s.fget Reg.AN_TB_STAT_ACT = 4 ∧
       (secOffset (s.nowNs - s.fget Reg.AN_TB_INDLY_INDLY)).natAbs ≤ s.fget Reg.AN_TB_LIM_OFFLIM ∧
       let u := { s with tb := 300000000 * 2 ^ 32 }
       s.fget Reg.AN_TB_LIM_OFFLIM < (secOffset (u.nowNs - u.fget Reg.AN_TB_INDLY_INDLY)).natAbs) ∧
    (let s := { (((inTb 2 3).fset Reg.AN_TB_CFG_PRI 3).fset Reg.AN_TB_STAT_SET 1) with tb := 31536042000000100 * 2 ^ 32 }
     let f := frame71 true
     let sec : Int := ((daysToYear 1971 + (f.day - 1) : Nat) * 86400 + f.hour * 3600 + f.minute * 60 + f.second : Nat) + sint (s.fget Reg.AN_UTC_OFFS) 18
     s.calm = true ∧ f.good = true ∧ f.year = some 1971 ∧ f.ext = none ∧ 1 ≤ f.day ∧ 0 ≤ sec ∧ s.fbit Reg.AN_TB_STAT_SET = true ∧
       s.priSrc = 3 ∧ s.tbState = 2 ∧ s.fget Reg.AN_TB_STAT_ACT = 3 ∧ (frame71 false).good = false ∧
       ((s.nowNs - s.fget Reg.AN_TB_INDLY_INDLY : Nat) - sec * 1000000000 : Int).natAbs ≤ s.fget Reg.AN_TB_LIM_OFFLIM) ∧
    (let s := { (inTb 2 1).setUsable 1 true with cyc := 16000000000 }
     s.calm = true ∧ s.usable 1 = true ∧
       (if s.fget Reg.AN_TB_CFG_LOSST = 0 then 1 else s.fget Reg.AN_TB_CFG_LOSST) * 1600000000 ≤ s.cyc - Tab.get 0 s.ang.lastOk 1 ∧
       s.tbState = 2 ∧ 1 = s.secSrc ∧ 1 = s.fget Reg.AN_TB_STAT_ACT ∧ 1 ≠ s.priSrc ∧ s.usable s.priSrc = false ∧
       (s.setUsable 2 true).usable s.priSrc = true ∧ s.tbState ≠ 0) ∧
    (let s := (((inTb 3 0).fset Reg.AN_TB_HOLD_HOLDMAX 3600).fset Reg.AN_TB_HOLD_HOLDSPEC 3600).fset Reg.AN_TB_STAT_HSEC 3600
     s.calm = true ∧ s.tbState = 3 ∧ s.fget Reg.AN_TB_HOLD_HOLDMAX ≤ s.fget Reg.AN_TB_STAT_HSEC ∧
       s.fget Reg.AN_TB_HOLD_HOLDSPEC ≤ s.fget Reg.AN_TB_STAT_HSEC) := by decide +kernel

theorem witness_TimeReadings :
    let s := timeSet
    let t := s.rset Reg.AN_TB_CFG (s.storedWord .m Reg.AN_TB_CFG 0 0)
    s.calm = true ∧ s.storeGuard .m Reg.AN_TB_CFG = none ∧ t.priSrc = s.priSrc ∧ t.secSrc = s.secSrc ∧
      s.fget Reg.AN_TB_STAT_ACT = 0 ∧ s.fbit Reg.AN_TB_CFG_PPSOUT = true ∧ s.fbit Reg.AN_TB_STAT_SET = true ∧
      s.fbit Reg.AN_UTC_LEAP61 = true ∧ s.fbit Reg.AN_UTC_LEAP59 = false ∧ sint (s.fget Reg.AN_UTC_OFFS) 18 < 131071 := by
  decide +kernel

/-- A measured reference 3 that is locked and aligned and whose phasors come. -/
def refLocked : State :=
  let s := ((up.fset (Reg.AN_REF_STAT_STATE 3) 2).fset (Reg.AN_REF_STAT_ALIGNED 3) 1).rset (Reg.AN_REF_CFG 3) 1
  s.setRef 3 { s.ref 3 with cfg := 1, lastAcc := some 0, started := true, freq := 50 }

theorem witness_ReferenceCommands :
    (let s := refLocked
     s.calm = true ∧ s.cyc % 1024 = 0 ∧ cfgEn (s.ref 3).cfg = true ∧ cfgNom (s.ref 3).cfg = false ∧ s.refState 3 = 2 ∧
       s.aligned 3 = true ∧ (s.ref 3).alignNow = none ∧ s.phasorTimeout 3 = false ∧ s.rget (Reg.AN_REF_CFG 3) = (s.ref 3).cfg ∧
       s.fget (Reg.AN_REF_PHOFF_PHOFF 3) = (s.ref 3).phoff) ∧
    (let s := refAt 2
     s.calm = true ∧ s.refState 3 = 2 ∧ cfgNom (s.ref 3).cfg = false ∧ s.phasorTimeout 3 = true ∧ s.cyc % 1024 = 0 ∧
       s.storeGuard .m (Reg.AN_REF_CFG 3) = none ∧ s.refBound 3 = false ∧ s.storeGuard .m (Reg.AN_VIEW 15) = none ∧
       s.viewBreaks 15 (s.storedWord .m (Reg.AN_VIEW 15) 8 0) = false) ∧
    (let s := (refAt 3).fset (Reg.AN_REF_HOLD_HOLDMS 3) 0
     s.calm = true ∧ s.refState 3 = 3 ∧ cfgNom (s.ref 3).cfg = false ∧ s.cyc % 1024 = 0 ∧
       s.fget (Reg.AN_REF_HOLD_HOLDMS 3) ≤ s.fget (Reg.AN_REF_STAT_HMS 3)) := by decide +kernel


/-! ## Scheduler -/

/-- Context 1 with entry `e`. -/
def with1 (e : Entry) (s : State := up) : State := s.setEntry 1 e

/-- Reference 0 seen by partition 0, enabled and past the angle of point 1 of 4, time at 5 s. -/
def angled : State :=
  let s := up.setRef 0 { up.ref 0 with cfg := 1, acc := BitVec.ofNat 72 (2 ^ 70 + 2 ^ 62), started := true }
  { ((s.rset (Reg.AN_VIEW 0) 8).fset (Reg.AN_REF_STAT_STATE 0) 2).fset (Reg.AN_REF_STAT_ALIGNED 0) 1 with tb := 5000000000 * 2 ^ 32 }

/-- An angle entry at point 1 of 4 in turn 0. -/
def angleEnt (st : Nat) : Entry := { ent 1 false true st with trig := 0o30, next0 := 0o10000 }

/-- A time entry whose point is 5 s. -/
def timeEnt (st : Nat) (slot : Nat := 0) : Entry := { (ent 2 false true st slot).setNextNs 5000000000 with trig := 1000000 }

/-- Pair 0 in lockstep for partition 0. -/
def locked0 : State := angled.fset (Reg.LS_STAT_STATE 0) 2

/-- Slot 0 with context 1. -/
def in0 (f : Slot → Slot) (s : State := angled) : State := s.setSlot 0 (f { Slot.empty with ctx := some 1, gate := true })

/-- A transfer of context 1 and slot 0. -/
def move (stageIn : Bool) : Transfer := { ctx := 1, slot := 0, stageIn := stageIn, classD := true, due := 0, req := 0 }

/-- Line 63 of partition 0 pending for context 1, which it wakes. -/
def waking : State :=
  let s := with1 (ent 0 true false stIdle)
    ((((up.rset (Reg.CP_IPEND 0 3) (BitVec.ofNat 36 (2 ^ 15))).fset (Reg.CP_IRQ_TGT 0 63) 1).fset (Reg.CP_IRQ_WAKE 0 63) 1))
  { s with sch := { s.sch with wakes := [63] } }

/-- Pair 0 in lockstep, its slots full of running class-G contexts. -/
def crowded : State :=
  (List.range 8).foldl (fun t i => (t.setEntry (10 + i) (ent 0 true false stRunning i)).setSlot i
    { Slot.empty with ctx := some (10 + i), gate := true }) locked0

/-- A run of context 1 in slot 0 that has ended, and its write-back. -/
def leavingRun (f : Slot → Slot := id) (s : State := angled) : State :=
  with1 (timeEnt stCommit) (in0 (fun x => f { x with stopped := true, leaving := .commit }) s)

/-- The state in which a command of context 1 is judged. -/
def judged (s : State) : State := s.hardwareFirst 0 1

theorem witness_SchedulerCommands :
    (up.calm = true ∧ (judged up).settled = true ∧ (judged up).fbit (Reg.SC_RESULT_DONE 0) = true ∧
      1 < 16 * (judged up).fget (Reg.SC_PRANGE_COUNT 0) ∧ (judged up).fget (Reg.SC_PRANGE_BASE 0) = 0 ∧
      (judged up).lowestFree 0 = some 0) ∧
    (let s := (with1 (ent 2 false false stIdle)).fset (Reg.SC_OPAGE_C_CTX 255) 1
     let u := judged s
     s.calm = true ∧ u.settled = true ∧ u.fbit (Reg.SC_RESULT_DONE 0) = true ∧ (u.entry 1).state = stIdle ∧
       (u.entry 1).classG = false ∧ (u.entry 1).ttype = 2 ∧ (u.entry 1).budget ≠ 0 ∧ u.fget (Reg.SC_OPAGE_C_CTX 255) = 1) ∧
    (let s := with1 (timeEnt stArmed)
     let u := judged s
     s.calm = true ∧ u.settled = true ∧ u.fbit (Reg.SC_RESULT_DONE 0) = true ∧ (u.entry 1).state = stArmed ∧ (u.entry 1).classG = false) ∧
    (let s := with1 (ent 0 true false stIdle)
     let u := judged s
     s.calm = true ∧ u.settled = true ∧ u.fbit (Reg.SC_RESULT_DONE 0) = true ∧ (u.entry 1).classG = true ∧ (u.entry 1).state = stIdle ∧
       0xFFFFF % 64 = 63 ∧ (u.slotsG 0).find? (u.freeFor 1) = some 0) ∧
    (let s := in0 id (with1 (ent 0 true false stRunning))
     let u := judged s
     s.calm = true ∧ u.settled = true ∧ u.fbit (Reg.SC_RESULT_DONE 0) = true ∧ (u.entry 1).classG = true ∧ (u.entry 1).state = stRunning ∧
       u.level (u.entry 1).slot < 2 ∧ (u.slot (u.entry 1).slot).parkReq = false ∧ (u.slot (u.entry 1).slot).stopped = false) ∧
    (let s := with1 (ent 0 true false stUnavail)
     let u := judged s
     s.calm = true ∧ u.settled = true ∧ u.fbit (Reg.SC_RESULT_DONE 0) = true ∧ (u.entry 1).state = stUnavail) ∧
    (let s := (up.fset (Reg.SC_RESULT_DONE 0) 0)
     s.calm = true ∧ (judged s).settled = true ∧ (judged s).fbit (Reg.SC_RESULT_DONE 0) = false) ∧
    (let s := (up.fset (Reg.SC_PRANGE_COUNT 0) 1)
     s.calm = true ∧ (s.hardwareFirst 0 16).settled = true ∧ s.fbit (Reg.SC_RESULT_DONE 0) = true ∧
       16 * s.fget (Reg.SC_PRANGE_COUNT 0) ≤ 16) := by decide +kernel

theorem witness_SchedulerEvents :
    (let s := with1 (angleEnt stArmed) locked0
     let e := s.entry 1
     s.calm = true ∧ e.classG = false ∧ e.en = true ∧ e.pend = false ∧ e.awaits = true ∧ s.reached 1 e = true ∧ s.gatedOff e = false ∧
       (s.fset Reg.SC_CFG_EN 0).gatedOff e = true ∧ e.ttype = 1 ∧ e.state = stArmed ∧ s.fbit Reg.SC_CFG_EN = true ∧
       s.decisionReached 1 e = true ∧ s.partOf 1 = some 0 ∧
       bestSlot (s.predictDue 1 e) ((s.eligibleFor 0 1).filter (s.freeFor 1)) = some 1) ∧
    (let s := with1 (timeEnt stRunning) angled
     let e := s.entry 1
     s.calm = true ∧ e.classG = false ∧ e.en = true ∧ e.pend = false ∧ e.awaits = true ∧ s.reached 1 e = true ∧ s.gatedOff e = false ∧
       (s.fset Reg.SC_CFG_EN 0).gatedOff e = true ∧ e.ttype = 2) ∧
    (let s := with1 (angleEnt stArmed) crowded
     let e := s.entry 1
     s.calm = true ∧ e.en = true ∧ e.state = stArmed ∧ s.fbit Reg.SC_CFG_EN = true ∧ s.decisionReached 1 e = true ∧
       bestSlot (s.predictDue 1 e) ((s.eligibleFor 0 1).filter (s.freeFor 1)) = none ∧
       bestSlot (s.predictDue 1 e) ((s.eligibleFor 0 1).filter s.displaceable) = some 1) ∧
    (let s := with1 (angleEnt stArmed) angled
     let e := s.entry 1
     s.calm = true ∧ s.decisionReached 1 e = true ∧ s.eligibleFor 0 1 = []) ∧
    (let s := with1 (timeEnt stWaiting) locked0
     s.calm = true ∧ s.freeSlot 0 = true ∧ s.nextWaiting 0 = some 1 ∧ s.fbit Reg.SC_CFG_EN = true) ∧
    (let s := with1 (timeEnt stWaiting) crowded
     s.calm = true ∧ s.displaceable 0 = true ∧ s.nextWaiting 0 = some 1 ∧ s.fbit Reg.SC_CFG_EN = true) ∧
    (let s := with1 (ent 0 true false stRunning) (in0 fun x => { x with parkReq := true })
     s.calm = true ∧ s.mayIssue 0 = true ∧ s.cyc % 8 = 0 ∧ (s.slot 0).next ≤ s.cyc ∧ (s.slot 0).judged ≤ s.cyc ∧ s.parks 0 = true ∧
       (s.slot 0).ase = none) ∧
    (let s := with1 { timeEnt stStaged with pend := true } (in0 fun x => { x with gate := false })
     s.calm = true ∧ (s.entry 1).state = stStaged ∧ (s.entry 1).classG = false ∧ (s.entry 1).pend = true) := by decide +kernel

theorem witness_SchedulerEvents_stores :
    (waking.calm = true ∧ waking.wakes 0 63 = true ∧ (waking.slotsG 0).find? (waking.freeFor (waking.lineTarget 0 63)) = some 0) ∧
    (let s := with1 (ent 0 true false stIdle) (up.setFirn 1 165 5)
     s.calm = true ∧ firnReachable (s.entry 1).state = true ∧ s.firnUp 1 = true ∧ (readSealed (s.firn 1 165)).word = some 5 ∧
       s.inRange 0 1 = true ∧ s.fget (Reg.SC_PRANGE_BASE 0) = 0) ∧
    (let s := with1 (timeEnt stArmed)
     s.calm = true ∧ firnReachable (s.entry 1).state = false ∧ s.firnUp 1 = true ∧ s.inRange 0 1 = true ∧
       (s.entry 1).state ≠ stFree ∧ (s.entry 1).state ≠ stIdle) ∧
    (up.storeGuard .m (Reg.SC_OPAGE_F 255) = none ∧ up.storeGuard .m (Reg.SC_OPAGE_C 255) = none ∧
      up.fbit (Reg.SC_OPAGE_F_V 255) = false ∧ pageIdle (up.entry (up.fget (Reg.SC_OPAGE_C_CTX 255))).state = true ∧
      up.storeGuard .m (Reg.SC_PRANGE 15) = none ∧ up.rangeFree 15 (bits 255 0 8) (bits 255 8 9) = true ∧ up.srcOwner 1023 = 0 ∧
      up.srcOwner 512 ≠ 15) := by
  decide +kernel

theorem witness_RunsAndTransfers :
    (let s := angled.setPort 0 { queue := [move true], cur := none }
     s.calm = true ∧ (s.port 0).cur = none ∧ pickTransfer (s.port 0).queue = some (move true)) ∧
    (let s := with1 (timeEnt stStaging) (angled.setPort 0 { queue := [], cur := some (move true) })
     s.calm = true ∧ (s.port 0).cur = some (move true) ∧ (move true).disabled = false ∧ s.firnBad 1 176 = none ∧
       bitAt ((readSealed (s.firn 1 2)).word.getD 0) 7 = false) ∧
    (let s := (with1 (timeEnt stStaging) (angled.setPort 0 { queue := [], cur := some (move true) })).setFirn 1 2 0o201
     s.calm = true ∧ s.firnBad 1 176 = none ∧ bits ((readSealed (s.firn 1 2)).word.getD 0) 0 2 = 1 ∧
       bitAt ((readSealed (s.firn 1 2)).word.getD 0) 7 = true) ∧
    (let t := with1 (timeEnt stStaging) (angled.setPort 0 { queue := [], cur := some (move true) })
     let s := { t with sch := { t.sch with firn := Tab.set 0 t.sch.firn (256 + 175) (lostWord 5) } }
     s.calm = true ∧ (s.port 0).cur = some (move true) ∧ s.firnBad 1 176 = some 175) ∧
    (let s := angled.setPort 0 { queue := [], cur := some { move true with disabled := true } }
     s.calm = true ∧ (s.slot 0).ctx ≠ some 1) := by decide +kernel

theorem witness_RunsAndTransfers_ends :
    (let s := leavingRun
     s.calm = true ∧ (s.slot 0).ctx = some 1 ∧ (s.slot 0).stopped = true ∧ (s.slot 0).leaving ≠ .none ∧
       (s.entry 1).agreed = false ∧ (s.port (portOf 0)).cur = none ∧ (s.slot 0).long = [] ∧
       (s.port (portOf 0)).queue.all (fun x => decide (x.slot ≠ 0) || x.stageIn) = true ∧
       ((leavingRun fun x => { x with long := [{ writes := [], stat := 0, due := 5 }] }).slot 0).long ≠ []) ∧
    (let s := leavingRun id (angled.setPort 0 { queue := [], cur := some (move false) })
     s.calm = true ∧ (s.port 0).cur = some (move false) ∧ (move false).stageIn = false ∧ s.pairState (pairOf 0) ≠ lsLockstep ∧
       (s.fset (Reg.LS_STAT_STATE 0) 2).pairState (pairOf 0) = lsLockstep) ∧
    (let s := (with1 (timeEnt stRunning) (in0 id)).setImg 0 13 1000
     s.calm = true ∧ (s.slot 0).ctx = some 1 ∧ (s.entry 1).classG = false ∧ (s.entry 1).state = stRunning ∧
       (s.slot 0).gate = true ∧ (s.slot 0).stopped = false ∧ (s.slot 0).first = false ∧ (s.slot 0).ase = none ∧
       (s.entry 1).budget ≤ (s.img 0 iwRuncyc).toNat ∧ s.partOf 1 = some 0) ∧
    (let s := with1 { timeEnt stCommit with agreed := true } angled
     s.calm = true ∧ (s.entry 1).classG = false ∧ (s.entry 1).state = stCommit ∧ (s.entry 1).agreed = true ∧
       s.judging 1 = false ∧ s.fget Reg.RK_PSTAT_PROF ≠ 1 ∧ (s.commitOf 1).all (fun e => !e.page) = true ∧
       (s.entry 1).pin = false) ∧
    (let s := with1 { timeEnt stCommit with agreed := true, cfg := (timeEnt stCommit).cfg ||| 0o40000 } (in0 id)
     s.calm = true ∧ (s.entry 1).state = stCommit ∧ (s.entry 1).pin = true ∧ (s.entry 1).oneShot = false ∧ (s.entry 1).pend = false) ∧
    (let t := with1 (timeEnt stCommit) angled
     let s := { t with sch := { t.sch with intlk := [(1, [])] } }
     s.calm = true ∧ s.fbit Reg.RK_PSTAT_HUNG = false ∧ s.sch.intlk = [(1, [])]) := by decide +kernel


/-! ## Threads and their instructions -/

/-- A line in an agent, by its directory entry and its words. -/
def holds (a l : Nat) (st : LineSt) (ws : List Word) (s : State) : State :=
  (s.setDir l { DirEntry.none with st := if st = .s then .ds else .dx, ptrs := [a], words := ws.map sealWord }).setAgentLine a l
    { st := st, words := ws.map sealWord, used := 0 }

/-- A line in a core's L1. -/
def inL1 (core l : Nat) (fetch : Bool) (ws : List Word) (s : State) : State :=
  s.setL1Set core fetch l ((s.l1Set core fetch l).put 0 { line := l, st := .s, words := ws.map sealWord })

/-- A leaf that maps a region of 2^(z + 12) nonets, global, with every permission. -/
def leaf (vb z pb : Nat) (u : Bool := true) (attr : Nat := 0) : TlbEntry :=
  { vbase := vb, z := z, pbase := pb, r := true, w := true, x := true, u := u, g := true, a := true, d := true, attr := attr,
    secure := false, part := 0, root := 0, pinned := false, inD := true, inI := true, used := 0, ue := false }

/-- The words of a line. -/
def lineWords (l : Nat) : List Word := (List.range 16).map fun k => BitVec.ofNat 36 (0x900000000 + l * 64 + k)

/-- Context `c` running in slot `i` at a level in one of its cycles, PC 0x100, with c1 = 0x104, c2 = 3 and c3 = 0x200; its root is in force,
its cluster holds lines 4, 5 and 8 and its L1D line 4. -/
def thr (i c lvl : Nat) (g : Bool) : State :=
  let s := up.setEntry c (ent 2 g true stRunning i)
  let s := s.setSlot i { Slot.empty with ctx := some c, gate := true, fetch := [⟨16, List.replicate 4 (.word 0)⟩] }
  let s := [(0, 0x100), (1, 0x104), (2, lvl + 512), (3, 18), (10, 2 ^ 35), (14, c), (15, 0x700), (17, 0x104), (18, 3), (19, 0x200)].foldl
    (fun (t : State) (x : Nat × Nat) => t.setImg i x.1 (BitVec.ofNat 36 x.2)) s
  let s := s.setTlb (i / 8) [leaf 0 20 0]
  let s := [4, 5, 8].foldl (fun t l => holds (i / 32) l .e (lineWords l) t) s
  { inL1 (i / 8) 4 false (lineWords 4) s with cyc := i % 8 }

/-- Slot 0 of a state changed. -/
def slot0 (f : Slot → Slot) (s : State) : State := s.setSlot 0 (f (s.slot 0))

def f0 : RFields := ⟨0, 0, 0, 0⟩

theorem witness_IntegerRegisterResults :
    (let s := thr 0 0 0 true
     s.calm = true ∧ s.ready 0 = true ∧ s.clear 0 (s.places 0 [0, 1, 2]) = true) ∧
    (let s := thr 383 4095 3 true
     s.calm = true ∧ s.ready 383 = true ∧ s.clear 383 (s.places 383 [1, 1, 1]) = true) ∧
    (let s := slot0 (fun x => { x with long := [{ writes := [(.img 20, 5)], stat := 1, due := 5 }] }) (thr 0 0 0 true)
     s.calm = true ∧ s.ready 0 = true ∧ s.clear 0 (s.places 0 [1, 2, 3]) = true ∧ s.clear 0 (s.places 0 [4, 2, 3]) = false) := by
  decide +kernel

theorem witness_IntegerUnaryAndImmediateResults :
    let s := thr 0 0 0 true
    s.calm = true ∧ s.ready 0 = true ∧ s.clear 0 (s.places 0 [1, 2]) = true ∧ s.clear 0 (s.places 0 [0]) = true ∧
      (35 : BitVec 10).toNat < 36 := by decide +kernel

theorem witness_LongIntegerResults :
    (let s := thr 9 7 0 false
     s.calm = true ∧ s.ready 9 = true ∧ s.clear 9 (s.places 9 [1, 2, 3]) = true) ∧
    (let o : LongOp := { writes := [(.img 20, 5)], stat := 1, due := 1 }
     let q : LongOp := { writes := [(.zero, 7)], stat := 0, due := 9 }
     let s := slot0 (fun x => { x with long := [q, o] }) (thr 0 0 0 true)
     s.calm = true ∧ (s.slot 0).long = [q] ++ { writes := [(.img 20, 5)], stat := 1, rsat := false, due := s.cyc + 1 } :: [] ∧
       s.cyc + 1 < q.due ∧ (Place.img 20) ≠ .step ∧ 20 ≠ iwSpstat ∧ 20 < 256) := by decide +kernel

theorem witness_DivisionNeverFaults :
    let s := (thr 0 0 0 true).setImg 0 17 (BitVec.intMin 36)
    let t := s.setImg 0 18 (-1)
    s.calm = true ∧ s.ready 0 = true ∧ s.clear 0 (s.places 0 [0, 1, 0]) = true ∧ s.reg 0 0 = 0 ∧ s.reg 0 1 = BitVec.intMin 36 ∧
      t.calm = true ∧ t.ready 0 = true ∧ t.clear 0 (t.places 0 [0, 1, 2]) = true ∧ t.reg 0 2 = -1 := by decide +kernel

/-- A store of the context of slot 0 to the word at 0x204 that waits in its buffer. -/
def waiting : StoreEntry :=
  { group := 32, va := 0x204, en := 0xF0, data := 0x123, attr := 0, req := ⟨.u, false, 0, 0, false⟩, root := 0, waits := [], wpend := false }

theorem witness_LoadResults :
    (let s := thr 9 7 0 false
     s.calm = true ∧ s.ready 9 = true ∧ s.clear 9 (s.places 9 [0, 1]) = true ∧
       s.reg 9 1 + (0 : BitVec 20).signExtend 36 = 0x104 ∧ (0x104 : Word).toNat % 4 = 0 ∧
       s.reads 9 4 false 0x104 (leaf 0 20 0) (BitVec.ofNat 36 (0x900000000 + 256 + 1)) = true) ∧
    (let s := thr 0 0 1 true
     s.calm = true ∧ s.ready 0 = true ∧ s.level 0 = 1 ∧ s.reg 0 1 = 0x104 ∧
       s.reads 0 4 true 0x104 (leaf 0 20 0) (BitVec.ofNat 36 (0x900000000 + 256 + 1)) = true) ∧
    (let s := slot0 (fun x => { x with sb := [waiting] }) (thr 0 0 0 true)
     s.calm = true ∧ s.ready 0 = true ∧ s.reg 0 3 + (4 : BitVec 20).signExtend 36 = 0x204 ∧
       s.allows 0 false .load 4 0x204 (leaf 0 20 0) = true ∧ isOutbound 0x204 = false ∧ (s.captured 0 0x204).isNone = true ∧
       (List.range 4).all (fun k => (s.buffered 0 (0x204 + k)).isSome) = true) ∧
    (let s := thr 9 7 0 false
     let u := s.begun 9 true
     let t := (u.resolve 9 (u.who 9) .load 4 0x200).1
     s.calm = true ∧ s.ready 9 = true ∧ s.reg 9 3 = 0x200 ∧ (u.resolve 9 (u.who 9) .load 4 0x200).2 = .ok (0x200, 0) ∧
       isOutbound 0x200 = false ∧ (t.loadData 9 0x200 0 4 0x200).2 = .ok (BitVec.ofNat 36 (0x900000000 + 512)) ∧
       (t.loadData 9 0x200 0 4 0x200).1.settled = true) := by decide +kernel

theorem witness_StoreResults :
    (let s := thr 9 7 0 false
     s.calm = true ∧ s.ready 9 = true ∧ s.clear 9 (s.places 9 [1, 3]) = true ∧
       s.reg 9 3 + (0 : BitVec 20).signExtend 36 = 0x200 ∧ (0x200 : Word).toNat % 4 = 0 ∧
       s.mayStore 9 4 false 0x200 (leaf 0 20 0) = true ∧ (leaf 0 20 0).pa 0x200 % 4 = 0 ∧ (s.slot 9).sb.length < 4) ∧
    (let s := thr 0 0 1 true
     s.calm = true ∧ s.ready 0 = true ∧ s.level 0 = 1 ∧ s.mayStore 0 4 true 0x200 (leaf 0 20 0) = true) ∧
    (let s := thr 9 7 0 false
     let u := s.begun 9 true
     let t := (u.resolve 9 (u.who 9) .store 4 0x200).1
     (u.resolve 9 (u.who 9) .store 4 0x200).2 = .ok (0x200, 0) ∧ isMemory (16 * (0x200 / 16)) = true ∧
       t.targetOf 9 0x200 = none ∧ (t.slot 9).sb.length < 4 ∧ (t.askLine 9 0x200 0).settled = true) := by decide +kernel

/-- Context 7 in slot 9 with the aligned page at 0 an output page of its partition, and what a store to 0x200 targets. -/
def capturing : State := (((thr 9 7 0 false).rset (Reg.SC_OPAGE_F 3) (BitVec.ofNat 36 (2 ^ 26))).fset (Reg.SC_OPAGE_C_CTX 3) 7)
def target3 : Word := BitVec.ofNat 36 (2 ^ 33 + 3 * 2 ^ 10 + 0x200 / 4)

theorem witness_CaptureResults :
    (let s := capturing
     s.calm = true ∧ s.ready 9 = true ∧ s.clear 9 (s.places 9 [1, 3]) = true ∧ s.reg 9 3 + (0 : BitVec 20).signExtend 36 = 0x200 ∧
       s.allows 9 false .store 4 0x200 (leaf 0 20 0) = true ∧ (s.slot 9).ctx = some 7 ∧ s.targetOf 9 0x200 = some target3 ∧
       (s.commitOf 7).any (fun e => decide (e.target = target3)) = false ∧ (s.commitOf 7).length < 32 ∧
       ((s.setCommit 7 [{ target := target3, value := 5 }]).commitOf 7).any (fun e => decide (e.target = target3)) = true) ∧
    (let s := capturing.setCommit 7 (List.replicate 32 { target := 1, value := 5 })
     s.calm = true ∧ s.ready 9 = true ∧ s.targetOf 9 0x200 = some target3 ∧
       (s.commitOf 7).any (fun e => decide (e.target = target3)) = false ∧ 32 ≤ (s.commitOf 7).length ∧ (s.slot 9).ase = none) := by
  decide +kernel

theorem witness_AtomicResults :
    (let s := inL1 0 4 false (lineWords 4) (thr 0 0 0 true)
     s.calm = true ∧ s.ready 0 = true ∧ s.clear 0 (s.places 0 [2, 1, 3]) = true ∧ (s.slot 0).sb = [] ∧ s.reg 0 1 = 0x104 ∧
       s.allows 0 false .atomic 4 0x104 (leaf 0 20 0) = true ∧ s.targetOf 0 0x104 = none ∧
       s.near 0 false 0x104 (BitVec.ofNat 36 (0x900000000 + 257)) = true ∧ s.owned 0 0x104 = true ∧
       s.pageBars (s.slot 0).ctx 0x104 = false) ∧
    (let s := thr 0 0 0 true
     let u := s.begun 0 true
     let t := (u.resolve 0 (u.who 0) .atomic 4 0x104).1
     let r := fun f => (t.late 0 false (some 9)).swapWord 0 0x104 0 0x104 f
     (u.resolve 0 (u.who 0) .atomic 4 0x104).2 = .ok (0x104, 0) ∧ t.targetOf 0 0x104 = none ∧
       (r fun _ => some (u.reg 0 3)).2 = .ok (BitVec.ofNat 36 (0x900000000 + 257)) ∧
       (r fun old => if old = u.reg 0 2 then some (u.reg 0 3) else none).2 = .ok (BitVec.ofNat 36 (0x900000000 + 257)) ∧
       (r fun old => some (old + u.reg 0 3)).2 = .ok (BitVec.ofNat 36 (0x900000000 + 257)) ∧
       (r fun _ => some (u.reg 0 3)).1.settled = true ∧
       (r fun old => if old = u.reg 0 2 then some (u.reg 0 3) else none).1.settled = true ∧
       (r fun old => some (old + u.reg 0 3)).1.settled = true) := by decide +kernel

theorem witness_AlignmentFault :
    let s := thr 0 0 0 true
    s.calm = true ∧ s.ready 0 = true ∧ s.clear 0 (s.places 0 [2, 1]) = true ∧ s.level 0 = 0 ∧
      (s.reg 0 1 + (3 : BitVec 20).signExtend 36).toNat % 4 ≠ 0 ∧ (s.reg 0 1 + (3 : BitVec 20).signExtend 36).toNat % 2 ≠ 0 ∧
      (s.slot 0).sb = [] := by decide +kernel

theorem witness_HeldWordReads :
    let s := thr 383 4095 0 true
    s.sliceLost 4 = false ∧ s.inL1 47 false (65 / 16) = true ∧
      readSealed ((s.l1Way 47 false (65 / 16)).words.getD (65 % 16) 0) = .good (BitVec.ofNat 36 (0x900000000 + 257)) ∧
      s.inL1 47 true (65 / 16) = false ∧ s.lineQ (65 / 16) = LineQ.idle ∧ (s.agentSt 11 (65 / 16)).holds = true ∧
      ((clusterCores 11).all fun n => decide ((s.l1Way n false (65 / 16)).st ≠ .m)) = true ∧
      readSealed ((s.agentLine 11 (65 / 16)).words.getD (65 % 16) 0) = .good (BitVec.ofNat 36 (0x900000000 + 257)) := by
  decide +kernel

theorem witness_ControlTransfers :
    let s := thr 0 0 0 true
    s.calm = true ∧ s.ready 0 = true ∧ (s.slot 0).dslot = false ∧ s.clear 0 (s.places 0 [1, 2]) = true ∧
      s.clear 0 (s.places 0 [30]) = true ∧ (s.reg 0 1 + (0xFFFFC : BitVec 20).signExtend 36).toNat % 4 = 0 := by decide +kernel

theorem witness_WindowRotation :
    (let s := thr 0 0 0 true
     s.calm = true ∧ s.ready 0 = true ∧ (s.slot 0).long = [] ∧ s.level 0 = 0 ∧ s.depth 0 ≠ 7 ∧ s.depth 0 ≠ 0) ∧
    (let s := thr 0 0 1 true
     s.calm = true ∧ s.ready 0 = true ∧ s.level 0 = 1 ∧ s.trapMode 0 = false ∧ s.depth 0 ≠ 7) ∧
    (let s := (thr 0 0 0 true).setImg 0 3 (2 + 8 * 7)
     s.calm = true ∧ s.ready 0 = true ∧ s.depth 0 = 7 ∧ s.level 0 = 0 ∧ (s.slot 0).sb = []) ∧
    (let s := (thr 0 0 0 true).setImg 0 3 2
     s.calm = true ∧ s.ready 0 = true ∧ s.depth 0 = 0 ∧ s.level 0 = 0 ∧ (s.slot 0).sb = []) := by decide +kernel


/-- A thread whose SLHEAD names an area of six modified lines at 0x1000 with these words, and whose PROG is `prog`. -/
def area (lvl prog : Nat) (ws : List Word) : State :=
  let s := ((thr 0 0 lvl true).setImg 0 4 0x1000).setImg 0 2 (BitVec.ofNat 36 (lvl + 512 + 2048 * prog))
  (List.range 6).foldl (fun t l =>
    let w := (ws.drop (16 * l) ++ List.replicate 16 0).take 16
    inL1 0 (64 + l) false w (holds 0 (64 + l) .m w t)) s

/-- An area as SAVEL and SAVEU leave it: header, link, words and check. -/
def saved (upper : Bool) (ws : List Word) : List Word :=
  let h : Word := BitVec.ofNat 36 (0o547 * 2 ^ 27 + b2n upper * 2 ^ 26)
  [h, 0x1200] ++ ws ++ (List.replicate (88 - ws.length) 0) ++ [areaCheck h ws]

/-- The lower words of the thread of `area 1`, which returns to 0x140 at U. -/
def lowerWords : List Word :=
  [0x140, 0x144, 512, 18] ++ List.replicate 12 0 ++ (List.range 72).map fun j => (thr 0 0 1 true).img 0 (16 + j)

def saving : State := area 0 87 (saved false [])
def restoring : State := area 1 71 (saved false lowerWords)
def restoringUpper : State := area 0 79 (saved true (List.replicate 80 0))

/-- The state on which a block instruction begins. -/
def blk (s : State) : State := s.begun 0 true

/-- A step that goes on, and where to. -/
def goes : Done → Option State
  | .next q => some q
  | _ => none

/-- The end of a save of an area whose words have been stored, and of a restore whose words are in. -/
def savedAll : State := area 0 88 (saved false [])
def restoredAll : State := area 0 80 (saved true (List.replicate 80 0))

theorem witness_BlockInstructionResults_saves :
    (let u := blk saving
     let a : Word := 0x1000
     saving.calm = true ∧ saving.ready 0 = true ∧ (saving.slot 0).dslot = false ∧ dueAll (saving.slot 0).long ≤ saving.cyc ∧
       saving.level 0 = 0 ∧ saving.img 0 iwSlhead = a ∧ a.toNat % 32 = 0 ∧
       (goes (State.blockRun 0 (State.saveStep 0 a 0) 1 (State.saveEnd 0 a false) 0 88 u)).any State.settled = true ∧
       (goes (State.blockRun 0 (State.saveStep 0 a 88) 1 (State.saveEnd 0 a true) 88 88 u)).any State.settled = true) ∧
    (let s := savedAll
     let a : Word := 0x1000
     s.calm = true ∧ s.ready 0 = true ∧ (s.slot 0).dslot = false ∧ s.prog 0 = 88 ∧ (s.slot 0).sb = [] ∧ s.img 0 iwSlhead = a ∧
       s.reads 0 4 false (a + 4) (leaf 0 20 0) 0x1200 = true ∧ s.mayStore 0 4 false a (leaf 0 20 0) = true ∧
       s.mayStore 0 4 false (a + 360) (leaf 0 20 0) = true ∧ (leaf 0 20 0).pa (a + 360) = (leaf 0 20 0).pa a + 360 ∧
       (leaf 0 20 0).pa a % 32 = 0) := by
  decide +kernel

theorem witness_BlockInstructionResults_restl :
    let u := blk restoring
    let a : Word := 0x1000
    let hs := [(saved false lowerWords).getD 0 0, 0x1200] ++ lowerWords.take 16
    restoring.calm = true ∧ restoring.ready 0 = true ∧ (restoring.slot 0).dslot = false ∧ restoring.level 0 = 1 ∧
      restoring.sbusy 0 = false ∧ restoring.img 0 iwSlhead = a ∧
      ((goes (State.blockRun 0 (State.restStep 0 a 0) 1 Done.next 16 72 u)).any fun p =>
        (goes (State.areaWords 0 a (fun x ws => if ws = hs then .next x else .wait x) 18 0 [] p)).any fun v =>
          let (q, r) := v.load 0 4 false (a + 360)
          decide (r = .ok (areaCheck (hs.getD 0 0) (hs.drop 2 ++ (List.range 72).map fun j => q.img 0 (16 + j)))) && q.settled) = true ∧
      bits (hs.getD 0 0) 27 9 = 0o547 ∧ bitAt (hs.getD 0 0) 26 = false ∧ bits (hs.getD 4 0) 0 2 ≤ 1 := by
  decide +kernel

theorem witness_BlockInstructionResults_restu :
    (let u := blk restoringUpper
     restoringUpper.calm = true ∧ restoringUpper.ready 0 = true ∧ (restoringUpper.slot 0).dslot = false ∧
       restoringUpper.level 0 = 0 ∧ restoringUpper.img 0 iwSlhead = 0x1000 ∧
       (goes (State.blockRun 0 (State.restStep 0 0x1000 88) 3 (State.restuEnd 0 0x1000) 88 80 u)).any State.settled = true) ∧
    (let s := restoredAll
     let a : Word := 0x1000
     let hdr := (saved true []).getD 0 0
     let chk := areaCheck hdr ((List.range 80).map fun j => (blk s).img 0 (88 + j))
     s.calm = true ∧ s.ready 0 = true ∧ s.prog 0 = 80 ∧ s.reads 0 4 false a (leaf 0 20 0) hdr = true ∧
       s.reads 0 4 false (a + 360) (leaf 0 20 0) chk = true ∧ s.reads 0 4 false (a + 4) (leaf 0 20 0) 0x1200 = true ∧
       bits hdr 27 9 = 0o547 ∧ bitAt hdr 26 = true) ∧
    (let s := area 0 80 (saved false [])
     s.calm = true ∧ s.ready 0 = true ∧ s.level 0 = 0 ∧ (s.slot 0).sb = [] ∧ s.prog 0 = 80 ∧
       s.reads 0 4 false 0x1000 (leaf 0 20 0) ((saved false []).getD 0 0) = true ∧
       s.reads 0 4 false (0x1000 + 360) (leaf 0 20 0) ((saved false []).getD 90 0) = true ∧
       bitAt ((saved false []).getD 0 0) 26 = false) := by
  decide +kernel

theorem witness_BlockInstructionResults_others :
    (let s := thr 0 0 0 true
     let u := s.begun 0
     s.calm = true ∧ s.ready 0 = true ∧ s.clear 0 (s.places 0 [2, 1, 1]) = true ∧ s.level 0 = 0 ∧ s.reg 0 2 = 3 ∧ s.prog 0 = 0 ∧
       (s.reg 0 1).toNat % 4 = 0 ∧ (goes (State.moveWords 0 (s.reg 0 1) (s.reg 0 1) 3 0 u)).any State.settled = true ∧
       bits (s.reg 0 0) 0 12 ≤ s.prog 0) ∧
    (let s := thr 0 0 0 true
     s.calm = true ∧ s.ready 0 = true ∧ (s.slot 0).dslot = false ∧ dueAll (s.slot 0).long ≤ s.cyc ∧ (s.slot 0).sb = [] ∧
       s.level 0 = 0 ∧ s.img 0 iwSlhead = 0) := by decide +kernel

theorem witness_RunControl :
    (let s := thr 0 0 0 true
     s.calm = true ∧ s.ready 0 = true ∧ (s.slot 0).dslot = false ∧ (s.slot 0).ctx = some 0 ∧ (s.slot 0).sb = [] ∧ s.level 0 = 0) ∧
    (let s := (((thr 0 0 1 true).setEntry 3 (ent 2 true true stIdle)).setImg 0 20 4095).fset (Reg.SC_PRANGE_COUNT 0) 255
     s.calm = true ∧ s.ready 0 = true ∧ (s.slot 0).dslot = false ∧ s.level 0 = 1 ∧ s.sbusy 0 = false ∧
       (s.entry 0).classG = true ∧ s.clear 0 (s.places 0 [0, 2]) = true ∧ bits (s.reg 0 2) 0 12 = 3 ∧
       3 < 16 * s.fget (Reg.SC_PRANGE_COUNT (s.slotPart 0)) ∧ s.fget (Reg.SC_PRANGE_BASE (s.slotPart 0)) = 0 ∧
       (s.entry 3).classG = true ∧ (s.entry 3).state = stIdle ∧
       16 * s.fget (Reg.SC_PRANGE_COUNT (s.slotPart 0)) ≤ bits (s.reg 0 4) 0 12) := by
  decide +kernel

theorem witness_CallsAndReturns :
    (let s := thr 0 0 0 true
     s.calm = true ∧ s.ready 0 = true ∧ (s.slot 0).dslot = false ∧ s.level 0 = 0 ∧ (s.slot 0).sb = []) ∧
    (let s := thr 0 0 1 true
     s.calm = true ∧ s.ready 0 = true ∧ (s.slot 0).dslot = false ∧ s.level 0 = 1 ∧ (s.slot 0).sb = [] ∧
       s.returnBad 0 1 (s.savedWord 0 1 2) = false) ∧
    (let s := (thr 0 0 1 true).setImg 0 2 (1 + 128)
     s.calm = true ∧ s.ready 0 = true ∧ (s.slot 0).dslot = false ∧ s.level 0 = 1 ∧ s.sbusy 0 = true) := by decide +kernel

theorem witness_FencesAndPrediction :
    (let s := thr 0 0 1 true
     s.calm = true ∧ s.ready 0 = true ∧ (s.slot 0).sb = [] ∧ s.core.tlbis.all (fun t => decide (t.slot ≠ 0)) = true ∧
       s.clear 0 (s.places 0 [1]) = true ∧ s.level 0 = 1) ∧
    (let s := thr 0 0 0 true
     s.calm = true ∧ s.ready 0 = true ∧ s.level 0 < 2 ∧ (s.slot 0).ctx = some 0) := by decide +kernel

theorem witness_ControlRegisterAccess :
    (let s := thr 0 0 1 true
     s.calm = true ∧ s.ready 0 = true ∧ s.clear 0 (s.places 0 [1]) = true ∧ s.level 0 ≠ 0 ∧
       ctlReadTrap (s.level 0) 15 (bitAt (s.img 0 iwPerfctl) 8) = none) ∧
    (let s := thr 0 0 0 true
     s.calm = true ∧ s.ready 0 = true ∧ s.level 0 = 0 ∧ (s.slot 0).sb = []) := by decide +kernel


/-! ## Signal extensions, thread events, memory management, registers, clocks -/

theorem witness_MultiplyAccumulate :
    (let s := thr 0 0 0 true
     s.calm = true ∧ s.ready 0 = true ∧ s.clear 0 (s.places 0 [1, 2] ++ accPlaces 0) = true ∧ b2n false = 0) ∧
    (let s := thr 0 0 1 true
     s.calm = true ∧ s.ready 0 = true ∧ s.clear 0 (s.places 0 [1, 1] ++ accPlaces 1) = true ∧ b2n true = 1) := by decide +kernel

theorem witness_AccumulatorResults :
    ((-(2 ^ 71) : Int) ≤ 2 ^ 71 - 1 ∧ (2 ^ 71 - 1 : Int) < 2 ^ 71 ∧ (-(2 ^ 71) - 1 : Int) < -(2 ^ 71)) ∧
    (let s := (thr 0 0 0 true).setImg 0 164 3
     bitAt (s.img 0 164) 0 = true ∧ bitAt (s.img 0 164) 1 = true ∧ bitAt ((thr 0 0 0 true).img 0 164) 1 = false ∧
       s.calm = true ∧ s.ready 0 = true ∧ s.clear 0 (rsatPlace :: s.places 0 [1] ++ accPlaces 1) = true ∧
       dueAll (s.slot 0).long ≤ s.cyc) := by
  decide +kernel

/-- Generator 0 names the vector at 0x104. -/
def generating (lvl : Nat := 1) : State := (thr 0 0 lvl true).setImg 0 152 0x104

theorem witness_AddressGenerators :
    let s := generating
    let u := s.begun 0 true
    let t := (u.resolve 0 (u.who 0) .load 4 0x104).1
    s.calm = true ∧ s.ready 0 = true ∧ s.clear 0 (s.places 0 [2, 0]) = true ∧ s.agaddr 0 0 (s.reg 0 0).toInt = .ok 0x104 ∧
      s.reads 0 4 false 0x104 (leaf 0 20 0) (BitVec.ofNat 36 (0x900000000 + 256 + 1)) = true ∧
      s.mayStore 0 4 false 0x104 (leaf 0 20 0) = true ∧ (s.slot 0).sb.length < 4 ∧ agModulus 0 (s.agCtl 0 0) = .ok 4096 ∧
      u.agaddr 0 0 (u.reg 0 0).toInt = .ok 0x104 ∧ (u.resolve 0 (u.who 0) .load 4 0x104).2 = .ok (0x104, 0) ∧
      isOutbound 0x104 = false ∧ (t.loadData 0 0x104 0 4 0x104).2 = .ok (BitVec.ofNat 36 (0x900000000 + 256 + 1)) ∧
      (t.loadData 0 0x104 0 4 0x104).1.settled = true ∧ (u.store 0 4 false 0x104 3).2 = .ok ∧
      (u.store 0 4 false 0x104 3).1.settled = true := by decide +kernel

theorem witness_PhasorResults :
    let s := (thr 0 0 0 true).setImg 0 18 0
    s.calm = true ∧ s.ready 0 = true ∧ s.clear 0 (s.places 0 [3, 1, 2] ++ accPlaces 0 ++ accPlaces 1) = true ∧ s.reg 0 2 = 0 := by
  decide +kernel

theorem witness_SignalRunsComplete :
    let s := generating
    s.calm = true ∧ s.ready 0 = true ∧ (s.slot 0).dslot = false ∧ s.level 0 < 2 ∧
      s.clear 0 (s.places 0 [2] ++ accPlaces (b2n false)) = true ∧ bits (s.reg 0 2) 0 12 - s.prog 0 = 3 ∧
      (goes (State.macrTerms 0 0 0 0 3 0 (s.begun 0))).any State.settled = true ∧ bits (s.reg 0 0) 0 12 ≤ s.prog 0 := by
  decide +kernel

/-- The same thread with an array of one bin at 0x200: its header, the phasor and the angle of the bin. -/
def binned : State :=
  let ws := [1, 0, 0, 0, 5, 7, 9, 11] ++ List.replicate 8 0
  inL1 0 8 false ws (holds 0 8 .e ws (generating.setImg 0 17 0x120))

theorem witness_SignalRunsComplete_dftr :
    let s := binned
    let v := ((s.begun 0 true).load 0 4 false 0x200)
    s.calm = true ∧ s.ready 0 = true ∧ (s.slot 0).dslot = false ∧ s.level 0 < 2 ∧
      s.clear 0 (rsatPlace :: s.places 0 [1, 3, 1]) = true ∧ (s.reg 0 3).toNat % 32 = 0 ∧ v.2 = .ok 1 ∧
      (goes (State.dftrBins 0 (s.reg 0 1) 0x200 (s.reg 0 1) 1 0 v.1)).any State.settled = true ∧
      s.reads 0 4 false 0x200 (leaf 0 20 0) 1 = true ∧
      bits 1 0 9 ≤ (s.setImg 0 2 (BitVec.ofNat 36 (1 + 512 + 2048))).prog 0 := by decide +kernel

/-- A step of CUBI by generator 0: the word is read, and the next step begins. -/
def cubiStep (t : State) (n : Nat) : Option State :=
  match t.agaddr 0 0 ((n : Int) - 1) with
  | .ok a => match t.load 0 4 false a with
    | (u, .ok _) => if (u.nextStep 0).overBudget 0 then none else some (if n = 3 then u else (u.nextStep 0).startStep 0)
    | _ => none
  | _ => none

theorem witness_SignalRunsComplete_cubi :
    let s := (generating.setImg 0 152 0x10C).setImg 0 153 1
    s.calm = true ∧ s.ready 0 = true ∧ s.clear 0 (rsatPlace :: s.places 0 [3, 1]) = true ∧
      (((((cubiStep (s.begun 0 true) 0).bind (cubiStep · 1)).bind (cubiStep · 2)).bind (cubiStep · 3)).any State.settled) = true := by
  decide +kernel

/-- A load of the word at 0x104 whose data are to return. -/
def coming : LoadWait := { place := .img 20, va := 0x104, pa := 0x104, size := 4, signed := false, adv := none, out := false }

/-- The groups of the path in the buffer of slot 0, and the lines they come from in its L1I. -/
def fetched (n : Nat) : State :=
  inL1 0 4 true (lineWords 4) (slot0 (fun x => { x with fetch := (List.range n).map fun k => ⟨16 + k, List.replicate 4 (.word 0)⟩ })
    (thr 0 0 0 true))

theorem witness_ThreadEvents :
    (let s := slot0 (fun x => { x with sb := [waiting] }) (inL1 0 8 false (lineWords 8) (fetched 2))
     s.calm = true ∧ (s.slot 0).sb = [waiting] ∧ s.cyc % 8 = 0 ∧ (s.slot 0).portAt ≤ s.cyc ∧ s.nextFetch 0 = none ∧
       isDevice (16 * 32) = false ∧ s.pageBars (some 0) (16 * 32) = false ∧ s.owned 0 (16 * 32) = true ∧
       (List.range 4).all (fun k => s.near 0 false (16 * 32 + 4 * k) (BitVec.ofNat 36 (0x900000000 + 512 + k))) = true ∧
       (s.drainOne 0).2 = true ∧ (s.follow ((s.drainOne 0).1.usePort 0)).settled = true) ∧
    (let s := fetched 0
     let pc := s.img 0 iwPc
     s.calm = true ∧ (s.slot 0).ctx.isSome = true ∧ (s.slot 0).sb = [] ∧ (s.slot 0).wordAt pc = none ∧
       s.allows 0 false .fetch 4 pc (leaf 0 20 0) = true ∧
       (List.range 4).all (fun k => s.near 0 true (0x100 + 4 * k) (BitVec.ofNat 36 (0x900000000 + 256 + k))) = true) ∧
    (let s := fetched 1
     s.calm = true ∧ s.cyc % 8 = 0 ∧ (s.slot 0).portAt ≤ s.cyc ∧ (s.slot 0).stopped = false ∧
       s.nextFetch 0 = some 0x110 ∧ fetchGroup 0x110 = fetchGroup 0x118 ∧ s.allows 0 false .fetch 4 0x110 (leaf 0 20 0) = true ∧
       (List.range 4).all (fun k => s.near 0 true (0x110 + 4 * k) (BitVec.ofNat 36 (0x900000000 + 256 + 4 + k))) = true ∧
       fetchGroup 0x110 ≠ fetchGroup 0x120) ∧
    (let s := slot0 (fun x => { x with outLoad := some coming }) (thr 0 0 0 true)
     s.calm = true ∧ (s.slot 0).outLoad = some coming ∧ coming.out = false ∧ coming.place ≠ .dbData ∧ coming.place ≠ .step ∧
       coming.adv = none ∧ 20 ≠ iwPc ∧ 20 ≠ iwNpc ∧ s.near 0 false (0x104 / 4 * 4) 0x900000101 = true ∧ s.unbuffered 0 0x104 4 = true ∧
       (s.loadData 0 0x104 0 4 0x104).2 = .ok 0x900000101 ∧ (s.loadData 0 0x104 0 4 0x104).1.settled = true) ∧
    (let s := (thr 0 0 0 true).setPmc 0 7 (BitVec.allOnes 72)
     s.calm = true ∧ s.pmc (0 / 8) 7 = BitVec.allOnes 72 ∧ bitAt (s.pmr (0 / 8) 8) 7 = false) := by decide +kernel

/-- The thread of slot 0 with line 63 pending for it. -/
def interrupted : State :=
  ((thr 0 0 0 true).rset (Reg.CP_IPEND 0 3) (BitVec.ofNat 36 (2 ^ 15))).rset (Reg.CP_IRQ 0 63) (BitVec.ofNat 36 (2 ^ 25 + 600))

theorem witness_BoundaryTraps :
    (let s := slot0 (fun x => { x with ase := some { sub := 2, multi := false } }) (thr 0 0 0 true)
     s.calm = true ∧ s.mayIssue 0 = true ∧ s.level 0 = 0 ∧ (s.slot 0).sb = [] ∧ (s.slot 0).ctx = some 0 ∧ s.cyc % 8 = 0 ∧
       (s.slot 0).next ≤ s.cyc ∧ (s.slot 0).judged ≤ s.cyc ∧ s.overBudget 0 = false ∧ s.opsInRegisters = true ∧
       (s.slot 0).ase = some { sub := 2, multi := false }) ∧
    (let s := interrupted
     s.calm = true ∧ s.mayIssue 0 = true ∧ s.level 0 = 0 ∧ s.overBudget 0 = false ∧ s.opsInRegisters = true ∧ (s.slot 0).ase = none ∧
       s.parks 0 = false ∧ s.lineFor 0 = some 63 ∧ s.partOf 0 = some 0 ∧ (s.slot 0).retire = none ∧ (s.slot 0).hostData = [] ∧
       s.tap.stepSlot ≠ some 0 ∧ (s.slot 0).hasWord (s.img 0 iwPc) = true ∧ (s.slot 0).long = []) ∧
    (let s := (((thr 0 0 0 true).setPmr 0 8 2).setPmr 0 1 (BitVec.ofNat 36 (2 ^ 21))).setImg 0 12 2
     s.calm = true ∧ s.mayIssue 0 = true ∧ s.level 0 = 0 ∧ s.overBudget 0 = false ∧ s.opsInRegisters = true ∧ (s.slot 0).ase = none ∧
       s.parks 0 = false ∧ s.lineFor 0 = none ∧ s.counterFor 0 = some 1) := by decide +kernel

/-- The thread under a page table at 0x1000 whose first entry maps 2^32 nonets. -/
def paged : State := holds 0 64 .e (0xFF :: List.replicate 15 0) ((thr 0 0 0 true).setImg 0 10 (BitVec.ofNat 36 (2 ^ 35 + 64)))

/-- The entry that a walk of that table leaves. -/
def walked : TlbEntry := { leaf 0 32 0 with inD := false, inI := false, root := 64 }

/-- A TLBI of every entry of partition 0 for core 0. -/
def shootdown (arrived : Bool) : Tlbi :=
  { id := 3, core := 0, slot := 0, form := 2, arg := 0, part := 0, secure := false, arrived := arrived }

/-- Core 0 asked to pin 0x300000 under the same table. -/
def pinning : State := ((paged.setTlb 0 []).rset (Reg.TL_PVA 0) 0x300000).rset (Reg.TL_PROOT 0) (BitVec.ofNat 36 (2 ^ 35 + 64))

/-- A pin of that page. -/
def pin0 : Pin := { va := 0x300000, root := 64, z := 32, walk := .none, waits := [] }

theorem witness_MemoryManagement :
    (let s := paged.setTlb 0 []
     s.calm = true ∧ (s.slot 0).ctx.isSome = true ∧ (s.tlb 0).all (fun x => !x.matches (s.who 0) 0x300000 || x.ue) = true ∧
       s.pinWaits 0 (s.who 0) 0x300000 = false ∧ s.l2Walk 0 (s.who 0) 0x300000 = some walked ∧ (s.tlb 0).length < 512 ∧
       (s.walk 0 (s.who 0) .load 0x300000).2 = .ok walked ∧ (s.walk 0 (s.who 0) .load 0x300000).1.settled = true ∧
       bitAt ((s.setImg 0 10 0).who 0).root 35 = false) ∧
    (let s := { paged with core := { paged.core with tlbis := [shootdown false] } }
     s.calm = true ∧ s.core.tlbis.find? (fun y => decide (y.core = 0) && !y.arrived) = some (shootdown false) ∧ s.pins 0 = []) ∧
    (let s := { paged with core := { paged.core with tlbis := [shootdown true] } }
     s.calm = true ∧ s.core.tlbis.find? (fun y => decide (y.core = 0) && y.arrived) = some (shootdown true)) ∧
    (let s := pinning
     s.calm = true ∧ s.fbit (Reg.TL_PRES_DONE 0) = true ∧ s.isChecker 0 = false ∧ s.pinBarred 0 = false ∧ s.prootV 0 = true ∧
       s.pinnedAt 0 = false ∧ s.pins 0 = [] ∧ (s.tlb 0).length < 512 ∧
       s.l2Walk 0 (s.pinWho 0 (bits (s.rget (Reg.TL_PROOT 0)) 0 32)) (s.rget (Reg.TL_PVA 0)) = some walked ∧
       (s.rset (Reg.TL_PROOT 0) 0).prootV 0 = false) := by decide +kernel

theorem witness_MemoryManagement_pins :
    (let s := pinning.setPins 0 (List.replicate 64 { pin0 with va := 0x200000000 })
     s.calm = true ∧ s.fbit (Reg.TL_PRES_DONE 0) = true ∧ s.pinBarred 0 = false ∧ s.prootV 0 = true ∧ s.pinnedAt 0 = false ∧
       64 ≤ (s.pins 0).length) ∧
    (let s := (pinning.setTlb 0 [{ walked with pinned := true }]).setPins 0 [pin0]
     s.calm = true ∧ s.fbit (Reg.TL_PRES_DONE 0) = true ∧ s.pinBarred 0 = false ∧ s.prootV 0 = true ∧
       s.pinnedAt 0 = true) ∧
    (let s := up.fset (Reg.LS_STAT_STATE 0) 2
     s.calm = true ∧ s.fbit (Reg.TL_PRES_DONE 1) = true ∧ s.isChecker 1 = true) ∧
    (let s := up
     s.calm = true ∧ s.storeGuard .m (Reg.TL_WB 15 31) = none ∧ s.fbit (Reg.TL_WL_V 15 31) = false ∧
       s.storeGuard .m (Reg.TL_WL 15 31) = none ∧ bitAt (s.rget (Reg.TL_WL 15 31)) 32 = false) ∧
    (let s := up.fset (Reg.TL_WL_V 15 31) 1
     s.calm = true ∧ s.storeGuard .m (Reg.TL_WB 15 31) = none ∧ s.fbit (Reg.TL_WL_V 15 31) = true ∧
       bitAt (s.rget (Reg.TL_WL 15 31)) 32 = true ∧ s.storeGuard .m (Reg.TL_WL 15 31) = none) := by decide +kernel


theorem witness_FlagRules :
    (match regAt Reg.AN_EVT with
     | some (r, _) => r.fields.any fun f => decide (f.acc = .w1c ∧ f.more < 36 ∧ 0 < f.width)
     | none => false) = true ∧
    Reg.AN_EVT_LEAP.width = 1 ∧ Reg.AN_EVT_LEAP_MORE.width = 1 ∧ Reg.AN_EVT_LEAP.addr = Reg.AN_EVT_LEAP_MORE.addr ∧
      Reg.AN_EVT_LEAP.lo ≠ Reg.AN_EVT_LEAP_MORE.lo ∧ Reg.AN_EVT_LEAP.lo < 36 ∧ Reg.AN_EVT_LEAP_MORE.lo < 36 := by decide +kernel

theorem witness_RegisterAccess :
    (up.calm = true ∧ plainReg (Reg.CP_SVBASE 0 0) = true ∧ (regAt (Reg.CP_SVBASE 0 0)).isSome = true ∧
      up.storeGuard .s (Reg.CP_SVBASE 0 0) = none ∧ Level.s ≠ .u ∧ up.pageWord (Reg.CP_SVBASE 0 0) = Reg.CP_SVBASE 0 0) ∧
    (let s := (thr 0 0 1 true).rset Reg.DX_LOCK 1
     s.calm = true ∧ plainReg (Reg.CP_EVEC 0 0) = true ∧ (regAt (Reg.CP_EVEC 0 0)).isSome = true ∧
       s.storeGuard .s (Reg.CP_EVEC 0 0) = some 2 ∧ s.storeGuard .s (Reg.CP_EVEC 0 1) = some 3 ∧ (req .s).left = false ∧ s.slotOf 0 = some 0 ∧
       (s.slot 0).ase = none ∧ s.mor.powerFail = false ∧ s.mor.queue.length < 253) := by decide +kernel

theorem witness_ClockMonitors :
    (let s := up.rset Reg.PM_CLK 0
     s.calm = true ∧ bitAt (s.rget Reg.PM_CLK) (clockBit (.ser 3)) = false ∧ 100 < 4 * (126 - 100) ∧ 100 < 4 * (100 - 74) ∧
       4 * (125 - 100) ≤ 100 ∧ 4 * (100 - 75) ≤ 100) ∧
    (let s := (inTb 2 1).rset Reg.PM_CLK 0o377
     s.calm = true ∧ bitAt (s.rget Reg.PM_CLK) 0 = true ∧ bitAt (s.rget Reg.PM_CLK) 7 = true ∧
       bitAt (s.rget Reg.PM_CLK) (clockBit (.ser 3)) = true ∧ bitAt (s.rget Reg.PM_CLK) (clockBit .dram) = true ∧ s.tbState = 2) := by
  decide +kernel


/-! ## Caches -/

/-- The words of line 5. -/
def words5 : List Word := (List.range 16).map fun k => BitVec.ofNat 36 (0x300 + k)

/-- Line 5 with a directory state and holders, each holding it in `st`. -/
def shared (d : DirSt) (ptrs : List Nat) (st : LineSt) (dirty : Bool := false) (ws : List Sealed := words5.map sealWord) : State :=
  let s := up.setDir 5 { DirEntry.none with st := d, ptrs := ptrs, dirty := dirty, words := ws }
  ptrs.foldl (fun t a => t.setAgentLine a 5 { st := st, words := ws, used := 0 }) s

/-- An RDX of agent 3 in service while agent 15 is snooped. -/
def snooped (answered : Bool) : State :=
  (shared .dx [15] (if answered then .i else .m)).setLineQ 5
    { service := some { agent := 3, op := .rdx }, snoops := if answered then [] else [15], answers := if answered then [15] else [],
      queue := [] }

/-- Bit 7 of the last word of line 5 is wrong. -/
def flipped : State := shared .dx [0] .e false (putAt 0 (words5.map sealWord) 15 (sealWord 0x30F ^^^ 0x80))

theorem witness_CoherenceTransactions :
    (let s := shared .dn [] .i
     s.calm = true ∧ s.lineQ 5 = LineQ.idle ∧ (s.dir 5).st = .dn ∧ s.sliceLost 5 = false ∧ s.dead 15 = false ∧
       s.agentSt 15 5 = .i ∧ (s.mates 15 5).length + s.asked 15 5 < s.wayCount 15 ∧ s.inLockedLlc 5 = false ∧
       s.canonical = true ∧ s.canPush 11 5 = true ∧ s.agentSt 11 5 = .i ∧
       (clusterCores 11).all (fun n => decide ((s.l1Way n false 5).st ≠ .m)) = true ∧
       (s.mates 11 5).length + s.asked 11 5 < s.wayCount 11) ∧
    (let s := shared .ds [1, 14] .s
     let e := s.dir 5
     s.calm = true ∧ s.lineQ 5 = LineQ.idle ∧ s.agentSt 3 5 = .i ∧ (s.mates 3 5).length + s.asked 3 5 < s.wayCount 3 ∧ e.st = .ds ∧
       e.ptrs.length < 3 ∧ e.ptrs.contains 3 = false) ∧
    (let s := shared .ds [15] .s
     s.calm = true ∧ s.agentSt 3 5 = .i ∧ (s.dir 5).st = .ds ∧ (s.dir 5).ptrs = [15] ∧ s.dead 15 = false ∧ s.dead 3 = false ∧
       s.agentSt 15 5 = .s ∧ s.ordinary 15 5 = true) ∧
    (let s := shared .dx [11] .m
     s.calm = true ∧ s.ordinary 11 5 = true ∧ (s.dir 5).st = .dx ∧ (s.dir 5).ptrs = [11] ∧ s.agentSt 11 5 = .m) ∧
    (let s := shared .dx [11] .e
     s.calm = true ∧ s.ordinary 11 5 = true ∧ (s.dir 5).st = .dx ∧ (s.dir 5).ptrs = [11] ∧ s.agentSt 11 5 = .e) ∧
    (let s := snooped false
     s.calm = true ∧ s.dead 15 = false ∧ (s.lineQ 5).service = some { agent := 3, op := .rdx } ∧
       (s.lineQ 5).snoops.contains 15 = true ∧ s.agentSt 15 5 = .m) ∧
    (let s := snooped true
     s.calm = true ∧
       s.lineQ 5 = { service := some { agent := 3, op := .rdx }, snoops := [], answers := [15], queue := [] } ∧ s.agentSt 3 5 = .i ∧
       (s.agentSt 15 5).evicting = false) ∧
    (let s := flipped
     let ws := (s.agentLine 0 5).words
     s.calm = true ∧ s.fbit Reg.CH_CFG_SCRUBEN = true ∧ s.scrubLines 0 5 = [5] ∧ readSealed (ws.getD 15 0) = .corrected 0x30F 4 ∧
       (List.range 15).all (fun k => quietWord (ws.getD k 0)) = true ∧
       (up.fset Reg.CH_CFG_SCRUBEN 0).fbit Reg.CH_CFG_SCRUBEN = false) := by decide +kernel

/-- L2 region 3 of cluster 11 (target 47): one way from way 15, in a state; LLC region 0 around it is locked. -/
def regional (st : Nat) : State :=
  let s := ((up.fset (Reg.CH_L2C_WAYS 11 3) 1).fset (Reg.CH_L2C_FIRST 11 3) 15).fset (Reg.CH_L2C_STATE 11 3) st
  ((s.fset (Reg.CH_LLC_WAYS 0) 1).fset (Reg.CH_LLC_FIRST 0) 4).fset (Reg.CH_LLC_STATE 0) 2

/-- Cluster 0 holds line 5 and is dead, or not. -/
def deadly (dead : Bool) : State :=
  let s := shared .dx [0] .m
  if dead then s.rset Reg.CH_STAT 1 else s

theorem witness_CacheCommands :
    (let s := regional 0
     let g := s.region 47
     s.calm = true ∧ 47 < 56 ∧ 0 < g.ways ∧ g.ways ≤ 12 ∧ 4 ≤ g.first ∧ g.first + g.ways ≤ 16 ∧ s.loadRefused 47 g = false ∧
       g.state ≠ rgLocked) ∧
    (let s := regional 2
     let g := s.region 47
     s.calm = true ∧ 0 < g.ways ∧ g.ways ≤ 12 ∧ 4 ≤ g.first ∧ g.first + g.ways ≤ 16 ∧ s.loadRefused 47 g = true ∧
       g.state = rgLocked ∧ g.llc = false ∧ s.classDAt g.part (fun home => decide (home / 2 = g.cluster)) = false) ∧
    (let s := deadly false
     s.calm = true ∧ s.dead 0 = false ∧ s.mem.lineq = [] ∧ (s.dir 5).st = .dx ∧ (s.dir 5).ptrs.contains 0 = true) ∧
    (let s := deadly true
     s.calm = true ∧ s.dead 0 = true ∧ s.fbit Reg.CH_STAT_RECL = false ∧ s.domState (agentDomain 0) = 1 ∧
       s.mem.unclean.contains 0 = false) ∧
    (let s := (regional 3).setDir 5 { DirEntry.none with st := .dn, words := words5.map sealWord }
     let g := s.region 47
     let r := ((s.mem.dirs.map (·.1)).filter g.has).foldl (State.unloadLine g) (s, true)
     s.calm = true ∧ g.state = rgDraining ∧ r.2 = true ∧ r.1.settled = true ∧
       (regional 3).mem.dirs.all (fun x => !g.has x.1) = true) := by
  decide +kernel

/-- A region of 2,048 lines that is loading for a cluster that is dead, so that no line comes; and one whose lines the cluster holds. -/
def loading : State := (regional 1).rset Reg.CH_STAT (BitVec.ofNat 36 (2 ^ 11))
def loaded : State :=
  let s := regional 1
  { s with mem := { s.mem with agents := (List.range' (11 * 2 ^ 32) 2048).map fun k => (k, { st := .s, words := [], used := 0 }) } }

theorem loading_idle (l : Nat) : loading.lineQ l = LineQ.idle := by
  have h : loading.mem.lineq = [] := by decide +kernel
  simp [State.lineQ, h]

theorem loading_fixed (b : Bool) (l : Nat) : State.loadLine (loading.region 47) (loading, b) l = (loading, false) := by
  have hs : loading.settle l = loading := by
    simp [State.settle, State.pump, State.settleOnce, loading_idle, LineQ.idle]
  have hd : loading.dead (loading.region 47).cluster = true := by decide +kernel
  have hl : (loading.region 47).llc = false := by decide +kernel
  have ha : loading.mem.agents = [] := by decide +kernel
  have hx : loading.mem.lostSlices = [] := by decide +kernel
  simp [State.loadLine, hl, State.obtain, State.sliceLost, hx, hs, hd, State.agentSt, State.agentLine, AgentLine.none, ha,
    LineSt.suffices, LineSt.holds]

theorem foldl_fixed (f : State × Bool → Nat → State × Bool) (s : State) (l : List Nat) (h : ∀ b x, f (s, b) x = (s, false)) :
    ∃ d, l.foldl f (s, true) = (s, d) := by
  suffices H : ∀ (l : List Nat) (b : Bool), ∃ d, l.foldl f (s, b) = (s, d) from H l true
  intro l
  induction l with
  | nil => exact fun b => ⟨b, rfl⟩
  | cons x t ih => intro b; rw [List.foldl_cons, h]; exact ih false

theorem get_run {α : Type} (d x : α) (n : Nat) : ∀ b k, b ≤ k → k < b + n → Tab.get d ((List.range' b n).map fun i => (i, x)) k = x := by
  induction n with
  | zero => intro b k h1 h2; omega
  | succ n ih =>
    intro b k h1 h2
    simp only [List.range'_succ, List.map_cons, Tab.get]
    split
    · rfl
    · exact ih (b + 1) k (by omega) (by omega)

theorem witness_CacheCommands_load :
    (let s := loading
     let g := s.region 47
     s.calm = true ∧ g.state = rgLoading ∧ g.lines = 2048 ∧
       ∃ q d, ((List.range g.lines).map (g.base + ·)).foldl (State.loadLine g) (s, true) = (q, d) ∧ q.settled = true) ∧
    (let s := loaded
     let g := s.region 47
     s.calm = true ∧ g.state = rgLoading ∧ g.lines = 2048 ∧
       ∀ l, g.has l = true → s.sliceLost l = false ∧
         if g.llc then (s.dir l).st ≠ .absent else s.lineQ l = LineQ.idle ∧ s.agentSt g.cluster l = (if g.wx then .e else .s)) := by
  refine ⟨⟨by decide +kernel, by decide +kernel, by decide +kernel, ?_⟩, by decide +kernel, by decide +kernel, by decide +kernel, ?_⟩
  · obtain ⟨d, h⟩ := foldl_fixed _ _ _ loading_fixed
    exact ⟨loading, d, h, by decide +kernel⟩
  · intro l hl
    have hb : (loaded.region 47).base = 0 := by decide +kernel
    have hn : (loaded.region 47).lines = 2048 := by decide +kernel
    have hc : (loaded.region 47).cluster = 11 := by decide +kernel
    have hw : (loaded.region 47).wx = false := by decide +kernel
    have hx : loaded.mem.lostSlices = [] := by decide +kernel
    have hq : loaded.mem.lineq = [] := by decide +kernel
    have hg : (loaded.region 47).llc = false := by decide +kernel
    simp only [Region.has, hb, hn, decide_eq_true_eq] at hl
    have ha : loaded.agentLine 11 l = { st := .s, words := [], used := 0 } :=
      get_run _ _ 2048 (11 * 2 ^ 32) (11 * 2 ^ 32 + l) (by omega) (by omega)
    simp [State.sliceLost, hx, hg, State.lineQ, hq, hc, hw, State.agentSt, ha]


/-! ## Lockstep pairs -/

/-- Pair 23 in a state. -/
def pair23 (st : Nat) : State := up.fset (Reg.LS_STAT_STATE 23) st

/-- Pair 0 in HOLD with an entry held, and pair 5 its spare. -/
def holding : State :=
  let s := with1 { ent 2 false true stHeld with trig := 1000 } (up.fset (Reg.LS_STAT_STATE 0) lsHold)
  ((s.fset (Reg.LS_CFG_SPARE 0) 5).fset (Reg.LS_CFG_SPAREV 0) 1 |>.fset (Reg.LS_STAT_OWNER 5) poolOwner).fset
    (Reg.LS_STAT_STATE 5) lsLockstep

theorem witness_LockstepCommands :
    (let s := pair23 lsOff
     s.calm = true ∧ s.fbit (Reg.LS_RES_DONE 23) = true ∧ s.pairState 23 = lsOff ∧ s.occupied (pairSlots 23) = false) ∧
    (let s := pair23 lsFenced
     s.calm = true ∧ s.fbit (Reg.LS_RES_DONE 23) = true ∧ s.pairState 23 = lsFenced) ∧
    (let s := pair23 lsLockstep
     s.calm = true ∧ s.fbit (Reg.LS_RES_DONE 23) = true ∧ s.pairState 23 = lsLockstep ∧ s.occupied (pairSlots 23) = false ∧
       s.homeUsed 23 = false ∧ s.domState 46 = 1 ∧ s.domState 47 = 1 ∧ s.fbit (Reg.LS_LOGB_V 23) = false ∧
       (s.fset (Reg.LS_LOGB_V 23) 1).fbit (Reg.LS_LOGB_V 23) = true) ∧
    (let t := { pair23 lsHold with core := { up.core with recon := [(23, true)] } }.setAgentLine 11 5 { st := .m, words := [0], used := 0 }
     let s := t.setL1Set 46 false 5 { ways := [{ line := 5, st := .m, words := [0] }], tree := 0 }
     s.calm = true ∧ Tab.get false s.core.recon 23 = true ∧ (s.l1Way 46 false 5).st = .m ∧ (s.l1Way 47 false 5).st ≠ .m ∧
       ((s.l1Set 46 false 5).ways.filter fun w => decide (w.st ≠ .i ∧ w.line = 5)).length ≤ 1) ∧
    (let s := pair23 lsTest
     s.calm = true ∧ s.pairState 23 = lsTest ∧ Tab.get false s.core.recon 23 = false ∧ Tab.get 0 s.tap.selfTest 23 = 0 ∧ s.domState 46 ≠ 3 ∧
       s.domState 47 ≠ 3) ∧
    (let s := holding
     s.calm = true ∧ s.pairState 0 = lsHold ∧ Tab.get false s.core.recon 0 = false ∧ Tab.get 0 s.tap.selfTest 0 = 0 ∧
       s.pins 0 = [] ∧ s.domState 0 ≠ 3 ∧ s.domState 1 ≠ 3 ∧ (s.entry 1).state = stHeld ∧ (s.entry 1).slot / 16 = 0 ∧ (s.entry 1).oneShot = false ∧
       s.fget (Reg.LS_CFG_SPARE 0) = 5 ∧ s.fbit (Reg.LS_CFG_SPAREV 0) = true ∧ s.isSpare 5 = true ∧
       (s.entry 1).classG = false ∧ (s.entry 1).state ≠ stFree ∧ (s.entry 1).home = 0) := by decide +kernel


/-! ## DRAM -/

/-- Six channels in a state, the map naming all of them, channel 5 as `x`. -/
def dramAt (st : Nat) (x : Chan := Chan.reset) : State :=
  let s := up.rset Reg.MC_MAP 0o77
  ((List.range 6).foldl (fun (t : State) c => t.fset (Reg.MC_CHSTAT_STATE c) st) s).setChan 5 x

def rd (l : Nat) : RdReq := { line := l, part := 3, at_ := 0 }
def wr : WrReq := { rank := 0, cl := 9, words := List.replicate 16 (sealWord 7), copy := false }
def initOk : Chan := { Chan.reset with initOk := [(0, true), (1, true)] }

/-- The line of DRAM that channel 5 holds. -/
def line5 : Nat := 5 * 2 ^ (up.fget Reg.MC_MAP_GRAIN)

theorem witness_DramCommands :
    (let s := dramAt chInit initOk
     s.calm = true ∧ s.fbit Reg.MC_RES_DONE = true ∧ 5 ∈ s.chList ∧ mapValid (s.rget Reg.MC_MAP) = true ∧ s.chState 5 = chInit ∧
       Tab.get false (s.chan 5).initOk 0 = true ∧ (s.fset (Reg.MC_CHCFG_PR2 5) 1).fbit (Reg.MC_CHCFG_PR2 5) = true ∧
       Tab.get false (s.chan 5).initOk 1 = true) ∧
    (let s := dramAt chActive
     s.calm = true ∧ s.fbit Reg.MC_RES_DONE = true ∧ s.chState 5 = chActive ∧ s.fget (Reg.MC_CHSTAT_SPST 5) ≠ 2 ∧
       Tab.get false (s.chan 5).measuring 0 = false ∧ Tab.get false (s.chan 5).measuring 1 = false ∧
       (s.fset (Reg.MC_CHSTAT_SPST 5) 1).fget (Reg.MC_CHSTAT_SPST 5) = 1) ∧
    (let s := dramAt chSelfref
     s.calm = true ∧ s.fbit Reg.MC_RES_DONE = true ∧ s.chState 5 = chSelfref) := by decide +kernel

/-- Channel 5 active with a line dirty on chip. -/
def dirty5 : State :=
  (dramAt chActive).setDir line5 { DirEntry.none with st := .dn, dirty := true, words := words5.map sealWord }

theorem witness_DramRequestsAndCompletions :
    (let s := dirty5
     let d : DramAt := { ch := 5, rank := 0, cl := 0 }
     s.calm = true ∧ s.chState 5 = chActive ∧ (s.mapLine line5).map (fun d => (d.ch, d.rank)) = some (5, 0) ∧
       (s.chan 5).rq.length < 64 ∧ (s.dir line5).st ≠ .absent ∧ (s.dir line5).dirty = true ∧
       (s.chan 5).wq = [] ∧ (s.chan 5).batch = 0 ∧ s.owes 5 5 = none ∧ s.rankServed 5 0 = true ∧ s.readsQueued 5 0 = false ∧
       (s.setChan 5 { s.chan 5 with rq := [rd line5] }).readsQueued 5 0 = true ∧ s.fbit (Reg.MC_CHCFG_REFX2 5) = false ∧
       (s.dramWords d).all quietWord = true) ∧
    (let s := dramAt chActive { Chan.reset with issued := [rd line5] }
     let r := (s.setChan 5 { s.chan 5 with issued := [] }).fill line5
     s.calm = true ∧ (s.chan 5).issued = [rd line5] ∧ (s.lineQ line5).queue = [] ∧ s.sliceLost line5 = false ∧
       (s.dir line5).st = .absent ∧ (s.llcMates line5).length < openWays s.llcRegions ∧
       ((s.mapLine line5).map fun d => (s.dramWords (s.servedAt d)).all quietWord) = some true ∧
       (match r.2 with | .ok _ => true | _ => false) = true ∧ (r.1.lineQ line5).queue = [] ∧ r.1.settled = true ∧
       ((s.setDir line5 { DirEntry.none with st := .dn }).dir line5).st ≠ .absent) ∧
    (let s := dramAt chActive { Chan.reset with owed := [(0, 5)] }
     s.calm = true ∧ s.owes 5 5 = some 0) ∧
    (let s := dramAt chActive { Chan.reset with wq := [wr], batch := 1 }
     s.calm = true ∧ s.owes 5 5 = none ∧ s.pauseWaits 5 = false ∧ (s.chan 5).nrDue = [] ∧ (s.chan 5).wq = [wr] ∧ s.owes 5 1 = none ∧
       wr.words.length = 16 ∧ wr.copy = false) ∧
    (let s := dramAt chActive { Chan.reset with rq := [rd line5] }
     s.calm = true ∧ s.owes 5 5 = none ∧ s.pauseWaits 5 = false ∧ (s.chan 5).nrDue = [] ∧
       (s.chan 5).batch = 0 ∧ ((s.pickRead 5).map (·.1)) = some (rd line5) ∧ (s.chan 5).rq ≠ []) := by decide +kernel

theorem witness_DramRequestsAndCompletions_own :
    (let s := dramAt chActive { Chan.reset with pauseDue := [(1, true)], dlyPend := [(23, 0x777)] }
     s.calm = true ∧ Tab.get false (s.chan 5).pauseDue 1 = true ∧ Tab.get false (s.chan 5).measuring 1 = false ∧
       (s.chan 5).dlyPend = [(12 * 1 + 11, 0x777)]) ∧
    (let s := (dramAt chActive { Chan.reset with pauseDue := [(0, true)] }).fset (Reg.MC_RT_CWIN 5) 4
     s.calm = true ∧ Tab.get false (s.chan 5).pauseDue 0 = true ∧ (s.chan 5).dlyPend = [] ∧
       -(s.fget (Reg.MC_RT_CWIN 5) : Int) ≤ s.corr (Reg.MC_DLY_RCORR 5 0 11) + (7 : Int).sign ∧
       s.corr (Reg.MC_DLY_RCORR 5 0 11) + (7 : Int).sign ≤ s.fget (Reg.MC_RT_CWIN 5) ∧
       Tab.get false (s.chan 5).measuring 0 = false) ∧
    (let s := dramAt chActive { Chan.reset with nrDue := [(3, 65535), (4, 2)] }
     s.calm = true ∧ (s.chan 5).nrDue = [(3, 65535), (4, 2)]) ∧
    (let s := (dramAt chActive).fset (Reg.MC_SP_PSEN 5) 1
     s.calm = true ∧ s.fbit (Reg.MC_SP_PSEN 5) = true ∧ (s.chan 5).wq = [] ∧
       (s.dramWords (s.servedAt { ch := 5, rank := 0, cl := 0 })).all quietWord = true) ∧
    (let s := dramAt chActive { Chan.reset with wq := List.replicate 64 wr }
     s.calm = true ∧ s.whi 5 ≤ (s.chan 5).wq.length ∧ (s.chan 5).batch = 0) ∧
    (let s := (dramAt chActive { Chan.reset with wq := [wr] }).fset (Reg.MC_SCHED_IDLEW 5) 1
     s.calm = true ∧ (s.chan 5).wq.length < s.whi 5 ∧ s.fbit (Reg.MC_SCHED_IDLEW 5) = true ∧ (s.chan 5).rq = [] ∧
       (s.chan 5).wq ≠ []) := by decide +kernel

theorem witness_DramRequestsAndCompletions_long :
    (let t := dramAt chInit
     let s := { t with dram := { t.dram with cmd := some (1, 5, 1) } }
     s.calm = true ∧ s.dram.cmd = some (1, 5, 1) ∧ s.storeGuard .m Reg.MC_MAP = none ∧
       (List.range 6).all (fun d => decide (s.chState d = chOff ∨ s.chState d = chInit)) = true ∧
       s.storeGuard .m (Reg.MC_DLY 5 1 11) = none ∧ s.chState 5 = chInit) ∧
    (let s := dramAt chZeroing
     s.calm = true ∧ s.chState 5 = chZeroing ∧ s.chState 5 ≠ chInit ∧
       (List.range 6).all (fun d => decide (s.chState d = chOff ∨ s.chState d = chInit)) = false) ∧
    (let t := dramAt chActive
     let s := { t with dram := { t.dram with cmd := some (5, 5, 0) } }
     s.calm = true ∧ s.dram.cmd = some (5, 5, 0)) ∧
    (let s := (dramAt chActive).fset (Reg.MC_CHSTAT_SPST 5) 2
     s.calm = true ∧ s.chState 5 = chActive ∧ s.fget (Reg.MC_CHSTAT_SPST 5) = 2 ∧ (s.chan 5).copyQueued = false ∧
       s.pauseWaits 5 = false ∧ (s.chan 5).wq = [] ∧
       (s.dramWords { ch := 5, rank := s.fget (Reg.MC_CHCFG_LMAP 5), cl := s.fget (Reg.MC_CP_CP 5) }).all quietWord = true) := by
  decide +kernel


/-! ## Ports, switch and time over the network -/

/-- A frame of `len` octets to an unknown station. -/
def plain (len : Nat) (et : BitVec 16 := 0x0800) : Frame :=
  { dst := 0x020304050607, src := 0x0A0B0C0D0E0F, tag := none, etype := et, red := .none, len := len, fcsOk := true,
    payload := .other, octets := [] }

/-- Port `x` enabled with its link up, and allowed to forward to port `y`. -/
def port (x y : Nat) (s : State := up) : State :=
  (((s.fset (Reg.NP_PCFG_EN x) 1).fset (Reg.NP_PSTAT_LINK x) 1).fset (Reg.NP_PCFG_MODE x) 2).rset (Reg.NP_FWD x)
    (BitVec.ofNat 36 (2 ^ y))

/-- Ports 0 and 5 up and forwarding to each other. -/
def switching : State := ((port 0 5 (port 5 0)).fset Reg.NP_CFG_FWDEN 1).fset Reg.NP_CFG_AGE 0

/-- Pair 1 in a mode, both its ports up. -/
def paired (m : Nat) : State := (port 2 3 (port 3 2)).fset Reg.NP_CFG_PM1 m

/-- A master known on a port. -/
def master (id : BitVec 64) : Announce :=
  { priority1 := 128, clockClass := 6, accuracy := 32, variance := 0, priority2 := 128, grandmaster := id, steps := 1,
    utcOffset := 37, utcValid := true }

/-- Ports 0 and 5 in PSET hear one master, and port 0 is followed. -/
def hearing : State :=
  let s := (up.rset Reg.NP_PTPCFG 33).fset Reg.NP_PTPSTAT_ACT 0
  [0, 5].foldl (fun t x => t.setPtpPort x { PtpPort.idle with master := some (master 7) }) s

/-- Port 5 alone is followed and has a master. -/
def alone : State :=
  ((up.rset Reg.NP_PTPCFG 32).fset Reg.NP_PTPSTAT_ACT 5).setPtpPort 5 { PtpPort.idle with master := some (master 7) }

theorem witness_NetworkFrames :
    (let s := switching
     s.calm = true ∧ s.portUp 0 = true ∧ s.domState 80 = 1 ∧ s.domState 74 = 1 ∧ (plain 63).len < 64 ∧ (plain 63).fcsOk = true ∧
       (plain 64).len ≤ Nat.min (s.fget (Reg.NP_PCFG_MAXLEN 0)) 2048 ∧ 64 ≤ (plain 64).len ∧ (plain 64 0x8808).etype = 0x8808 ∧
       s.ringPair 0 = none ∧ s.frameRow 0 (plain 64) = 8 ∧ s.fget Reg.NP_CFG_AGE = 0 ∧ s.forwardPorts 0 (plain 64) = [5] ∧
       s.portUp 5 = true ∧ s.bufferFull (s.classOf (plain 64) 0) (frameCells (plain 64)) [5] = false) ∧
    (let s := switching.fset (Reg.NP_PCFG_MODE 0) 3
     let f := { plain 64 with fcsOk := false, tag := some (7, 0) }
     f.len ≤ Nat.min (s.fget (Reg.NP_PCFG_MAXLEN 0)) 2048 ∧ s.classOf f 0 = 7 ∧ s.rowForwards 0 (s.frameRow 0 f) f = true ∧
       (s.forwardPorts 0 f).filter (s.cutsTo 0) = [5] ∧ s.bufferFull 7 (frameCells f) [5] = false ∧
       s.classOf { plain 64 with fcsOk := false } 0 ≠ 7) ∧
    (let q : TxFrame := { frame := plain 64, ue := true, id := 0, cells := 1, inPort := 0, ingress := 0, stamp := none }
     let s := switching.setTxq 5 7 true [q]
     s.calm = true ∧ s.portUp 5 = true ∧ s.nextQueue 5 = some (7, true) ∧ s.txq 5 7 true = [q] ∧ isPtp q.frame = false ∧
       (s.setTxq 5 7 true []).waiting q.id = false) ∧
    (let s := switching.fset (Reg.NP_PCFG_PDEN 5) 1
     s.calm = true ∧ s.portUp 5 = true ∧ s.fbit (Reg.NP_PCFG_PDEN 5) = true ∧
       s.bufferFull (s.fget (Reg.NP_PCFG_DEFPCP 5)) 2 [5] = false) ∧
    (let s := paired 2
     s.calm = true ∧ s.pairMode 1 ≠ 0 ∧ s.portUp 2 = true ∧ s.portUp 3 = true ∧
       s.bufferFull (s.fget (Reg.NP_PCFG_DEFPCP 2)) 1 [2, 3] = false) := by decide +kernel

/-- Partition 0 sends from a ring in line 5 (words 80 on): the first descriptor is owned, its 16 octets at word 88 for port 5; the
next is not. -/
def sending : State :=
  let ws := [88, BitVec.ofNat 36 (2 ^ 35 + 5 * 4096 + 16), 0, 0] ++ List.replicate 12 0
  ((holds 12 5 .m ws switching).fset (Reg.NP_HTXC_EN 0) 1).rset (Reg.NP_HTXB 0) 80

/-- Pair 1 bridged by its relays' drive, and healthy. -/
def bridged : State :=
  ((((paired 1).rset Reg.PM_CLK 0o377).fset (Reg.NP_BYP_EN 1) 1).fset (Reg.NP_BYP_FORCE 1) 0).fset (Reg.NP_BYP_HEALTHY 1) 1

theorem witness_NetworkEvents :
    (let s := up.fset (Reg.NP_PCFG_EN 5) 1
     s.calm = true ∧ s.fbit (Reg.NP_PCFG_EN 5) = true ∧ s.fbit (Reg.NP_PSTAT_LINK 5) = false) ∧
    (paired 1).pairMode 1 = 1 ∧ (paired 2).pairMode 1 = 2 ∧ (paired 1).calm = true ∧ (paired 2).calm = true ∧
    (let s := hearing
     s.calm = true ∧ s.fget Reg.NP_PTPSTAT_ACT ≠ 5 ∧ s.fget Reg.NP_PTPSTAT_ACT = 0 ∧
       (s.ptpPort 0).master = some (master 7) ∧
       s.masters.filter (fun m => decide (m.1 ≠ 0 ∧ m.2.grandmaster = (master 7).grandmaster)) = [(5, master 7)]) ∧
    (let s := alone
     s.calm = true ∧ s.fget Reg.NP_PTPSTAT_ACT = 5 ∧ s.masters.all (fun m => decide (m.1 = 5)) = true) ∧
    (let s := bridged
     s.calm = true ∧ s.fbit (Reg.NP_BYP_HEALTHY 1) = true) ∧
    (let s := switching
     s.storeGuard .m (Reg.NP_PCFG 4) = none ∧ s.fbit (Reg.NP_PCFG_EN 4) = false ∧ s.storeGuard .m (Reg.NP_PCFG 5) = none ∧
       s.fbit (Reg.NP_PCFG_EN 5) = true ∧
       (let w := s.storedWord .m (Reg.NP_PCFG 5) 0 0
        bits w 0 2 ≠ bits (s.rget (Reg.NP_PCFG 5)) 0 2) ∧
       s.storeGuard .m Reg.NP_CFG = none ∧ s.pairStoreBad (s.rget Reg.NP_CFG) (s.storedWord .m Reg.NP_CFG 0 0) 0 = false ∧
       s.pairStoreBad (s.rget Reg.NP_CFG) (s.storedWord .m Reg.NP_CFG 0 0) 1 = false ∧ bitAt (0 : Word) 14 = false ∧
       s.pairStoreBad (s.rget Reg.NP_CFG) (s.storedWord .m Reg.NP_CFG 1 0) 0 = true) ∧
    (let s := sending
     let u := s.hostTake 0
     let q := u.1.hostTake 0
     s.calm = true ∧ s.fbit (Reg.NP_HTXC_EN 0) = true ∧ u.2 = .ok true ∧ q.2 = .ok false ∧ q.1.settled = true) := by decide +kernel


/-! ## Process data -/

/-- Lines of memory that the engine owns, the words from a word address on. -/
def memAt (pw : Nat) (ws : List Word) (s : State) : State :=
  (List.range ((ws.length + 15) / 16)).foldl (fun t j =>
    let l := pw / 16 + j
    holds 12 l .m ((List.range 16).map fun k => ws.getD (16 * j + k) 0) t) s

/-- The tables apart from one another, from line 1 on. -/
def tables : State :=
  ((((up.fset Reg.PD_TSVS_BASE 1).fset Reg.PD_TRS_BASE 0x10001).fset Reg.PD_TGS_BASE 0x20001).fset Reg.PD_TGP_BASE 0x30001).fset
    Reg.PD_TSP_BASE 0x40001

/-- The same with memory in self-refresh, which does not wake by itself. -/
def asleep (s : State) : State :=
  (List.range 6).foldl (fun (t : State) c => (t.fset (Reg.MC_CHSTAT_STATE c) chSelfref).fset (Reg.MC_CHCFG_AUTOX c) 0)
    (s.rset Reg.MC_MAP 0o77)

/-- Entry `i` of table `k`: the words named, the others 0. -/
def row (k i : Nat) (ws : List (Nat × Nat)) (s : State := tables) : State :=
  memAt (s.entryAt k i 0) ((List.range (tblSize k)).map fun w => BitVec.ofNat 36 (Tab.get 0 ws w)) s

/-- A sampled-value subscription of 32 channels at 16,384 Hz with an svID of 32 octets; its ring of 2^4 entries at line 0x800. -/
def svRow : List (Nat × Nat) :=
  [(0, 32 * 16 + 2 ^ 10 + 2 * 2 ^ 13 + 4 * 2 ^ 32), (8, 16384), (9, 0x800), (11, 32)]

/-- A resample set of one channel from subscription 1023, view entry 0, one point a turn; marker at word 81. -/
def rsRow : List (Nat × Nat) := [(0, 1023), (1, 2 ^ 12 + 2 ^ 18), (2, 82), (3, 81)]

/-- A GOOSE subscription of 64 members with a reference of 64 octets; image at word 80. -/
def goRow : List (Nat × Nat) := [(5, 80), (7, 64)]

/-- A GOOSE publication of one member on port 0; TYPE at word 81, VAL at word 82. -/
def gpRow : List (Nat × Nat) := [(0, 2 ^ 7), (5, 1000 + 2 ^ 18), (8, 81), (9, 82)]

/-- A sampled-value publication of 32 channels on ports 2 and 3. -/
def spRow : List (Nat × Nat) := [(0, 5 * 16 + 32 * 2 ^ 7), (17, 99)]

/-- Words 80 to 95. -/
def scratch (s : State) : State := memAt 80 [0, 1, 0] s

/-- Samples 100 ns apart about a turn of reference 0, on a set that awaits label 1. -/
def sampled : State :=
  let x (t : Nat) : RawSample := { v := true, ns := t, vals := [100], quals := [0], steps := 0 }
  let s := scratch (row 1 1023 rsRow (row 0 1023 svRow))
  let s := { s with ang := { s.ang with epochs := [{ tb := 0, tbInc := 2 ^ 32, angles := [0], incs := [2 ^ 50] }] } }
  (s.setSv 1023 { SvSub.off with state := stOk, fresh := false, hist := [x 1200, x 1100, x 1000, x 900] }).setRs 1023
    { RsSet.off with state := 1, sub := 1023, nch := 1, next := 1, label := 1 }

theorem witness_ProcessDataTables :
    let s := row 0 1023 svRow
    let q := s.readEntry 0 1023
    let c : SvCfg := { ws := s.peekEntry 0 1023 }
    s.calm = true ∧ s.fbit Reg.PD_RES_DONE = true ∧ 1023 < tblCount 0  ∧
      s.entryState 0 1023 = 0 ∧ q.2 = .ok c.ws ∧ 1 ≤ c.nch ∧ c.nch ≤ 32 ∧ 1 ≤ c.nasdu ∧ c.syncpol ≤ 2 ∧ 4 ≤ c.size ∧
      1 ≤ bits (c.w 11) 0 6 ∧ bits (c.w 11) 0 6 ≤ 32 ∧ 1 ≤ c.rate ∧ c.rate ≤ 16384 ∧ q.1.pd.sv = [] := by decide +kernel

theorem witness_ProcessDataTables_2 :
    let s := ((row 1 1023 rsRow (row 0 1023 svRow)).setSv 1023 { SvSub.off with state := stWait }).rset (Reg.AN_VIEW 0) 15
    let s := (s.fset (Reg.AN_REF_STAT_STATE 7) 2).fset (Reg.AN_REF_STAT_ALIGNED 7) 1
    let q := s.readEntry 1 1023
    let c : RsCfg := { ws := s.peekEntry 1 1023 }
    let sub : SvCfg := { ws := q.1.peekEntry 0 c.sub }
    s.calm = true ∧ s.fbit Reg.PD_RES_DONE = true  ∧ s.entryState 1 1023 = 0 ∧
      q.2 = .ok c.ws ∧ 1 ≤ c.nch ∧ c.nch ≤ 32 ∧ c.n * 4096 % c.rlen = 0 ∧ (q.1.svSub c.sub).state ≠ stOff ∧
      c.firstch + c.nch ≤ sub.nch ∧ q.1.viewRef sub.part c.ref = some 7 ∧ q.1.refState 7 ≠ 0 ∧ q.1.aligned 7 = true ∧
      ((q.1.pd.rs.filter fun e => decide (e.2.state ≠ 0)).map (·.2.nch)).sum + c.nch ≤ 4096 := by decide +kernel

theorem witness_ProcessDataTables_3 :
    let s := row 2 4095 goRow
    let q := s.readEntry 2 4095
    let c : GoCfg := { ws := s.peekEntry 2 4095 }
    s.calm = true  ∧ s.entryState 2 4095 = 0 ∧ q.2 = .ok c.ws ∧
      1 ≤ bits (c.w 7) 0 7 ∧ bits (c.w 7) 0 7 ≤ 64 ∧ (List.range c.nmem).all (fun m => decide (c.type m ≤ 6)) = true ∧
      q.1.pd.goose = [] := by decide +kernel

theorem witness_ProcessDataTables_4 :
    let s := scratch (row 3 511 gpRow)
    let q := s.readEntry 3 511
    let c : PubCfg := { sv := false, ws := s.peekEntry 3 511 }
    let u := q.1.engReads 12 none c.mtab c.n
    s.calm = true  ∧ s.entryState 3 511 = 0 ∧ q.2 = .ok c.ws ∧ u.2 = .ok [1] ∧ c.n ≠ 0 ∧
      c.ports.all (fun x => decide (c.size [1] ≤ Nat.min (u.1.fget (Reg.NP_PCFG_MAXLEN x)) 2048)) = true ∧ c.auth = false ∧
      ((u.1.setPub 3 511 { Pub.off with state := pubRun }).gooseNew 511 c).2 = .ok () := by decide +kernel

theorem witness_ProcessDataTables_5 :
    let s := row 4 63 spRow
    let q := s.readEntry 4 63
    let c : PubCfg := { sv := true, ws := s.peekEntry 4 63 }
    s.calm = true  ∧ s.entryState 4 63 = 0 ∧ q.2 = .ok c.ws ∧ 1 ≤ c.n ∧ c.n ≤ 32 ∧
      c.ports.all (fun x => decide (c.size [] ≤ Nat.min (q.1.fget (Reg.NP_PCFG_MAXLEN x)) 2048)) = true := by decide +kernel

theorem witness_ProcessDataTables_6 :
    let s := (row 0 1023 svRow).setSv 1023 { SvSub.off with state := stOk }
    s.calm = true ∧ s.fbit Reg.PD_RES_DONE = true  ∧ s.entryState 0 1023 ≠ 0 ∧
      s.pd.rs.all (fun e => decide (e.2.state = 0 ∨ e.2.sub ≠ 1023)) = true ∧ s.refNames 1023 = false := by decide +kernel

theorem witness_ProcessDataTables_7 :
    (let s := (row 0 1023 svRow).setSv 1023 { SvSub.off with state := stOk }
     s.fbit Reg.PD_RES_DONE = true ∧ s.entryState 0 1023 ≠ 0 ∧
       (s.rset (Reg.AN_REF_CFG 0) (BitVec.ofNat 36 (1 + 32 * 1023))).refNames 1023 = true) ∧
    (let s := asleep tables
     s.calm = true ∧ s.entryState 0 1023 = 0 ∧ (s.readEntry 0 1023).2 = .wait) := by decide +kernel

theorem witness_ProcessDataEvents :
    let s := (row 0 1023 svRow).setSv 1023 { SvSub.off with state := stOk }
    s.calm = true ∧ (s.svSub 1023).state = stOk  := by decide +kernel

/-- What GOOSE_DEADLINE writes for subscription 4095. -/
def goLost (s : State) : State × Eng Unit :=
  let c : GoCfg := { ws := s.peekEntry 2 4095 }
  let u := ((s.goState 4095 c.part c.evsrc stLost).bumpWord 2 4095 39 1).flag Reg.PD_STAT_GOLOSS Reg.PD_STAT_GOLOSS_MORE
  u.seqWrite c.part c.hint c.img [(c.img + 1, setBits (u.peek (c.img + 1)) 0 3 stLost)]

theorem witness_ProcessDataEvents_2 :
    (let s := scratch ((row 2 4095 goRow).setGo 4095 { GooseSub.off with state := stOk })
     s.calm = true ∧ (s.goSub 4095).state = stOk ∧ (s.goSub 4095).deadline ≤ s.nowNs ∧ (goLost s).2 = .ok ()) ∧
    (let s := asleep ((row 2 4095 goRow).setGo 4095 { GooseSub.off with state := stOk })
     s.calm = true ∧ (s.goSub 4095).deadline ≤ s.nowNs ∧ (goLost s).2 = .wait) := by decide +kernel

theorem witness_ProcessDataEvents_3 :
    let s := sampled
    let u := s.readEntry 1 1023
    let c : RsCfg := { ws := s.peekEntry 1 1023 }
    let x := u.1.rsSet 1023
    let q := u.1.formPoint 1023 c
    s.calm = true ∧ (s.rsSet 1023).state = 1 ∧ u.2 = .ok c.ws ∧
      (u.1.bracket x.ref (c.target x.next) (u.1.svSub x.sub).hist.reverse).isSome = true ∧ q.2 = .ok () := by decide +kernel

/-- Label 1 of the set is written, marked or not, and is reached. -/
def labelled (m : Option Nat) : State :=
  (sampled.setRef 0 { sampled.ref 0 with acc := 2 ^ 60 }).setRs 1023
    { RsSet.off with state := 1, sub := 1023, nch := 1, next := 2, label := 1, marked := m }

theorem witness_ProcessDataEvents_4 :
    (let s := labelled (some 1)
     let x := s.rsSet 1023
     let u := s.readEntry 1 1023
     s.calm = true ∧ x.state = 1 ∧
       angleAfter (mkRat x.label (bits (s.peek (s.entryAt 1 1023 0)) 13 8 + 1)) (s.angleNow x.ref) = false ∧
       u.2 = .ok (s.peekEntry 1 1023) ∧ u.1.rsSet 1023 = x ∧ x.label ≤ x.next ∧ x.marked = some x.label) ∧
    (let s := labelled none
     let x := s.rsSet 1023
     let u := s.readEntry 1 1023
     let c : RsCfg := { ws := s.peekEntry 1 1023 }
     s.calm = true ∧ u.2 = .ok c.ws ∧ u.1.rsSet 1023 = x ∧ x.marked ≠ some x.label ∧
       (u.1.engWrite 12 (some (engWho (u.1.subPart x.sub))) c.hint [(c.mark, 0)]).2 = .ok ()) := by decide +kernel

/-- A release of one entry by context 1. -/
def releasing (target : Nat) (s : State := up) : State :=
  s.setPd { s.pd with released := [{ ctx := 1, entries := [{ target := BitVec.ofNat 36 target, value := 1 }], final := false }] }

theorem witness_ProcessDataEvents_5 :
    (let s := releasing (2 * 2 ^ 33 + 7)
     s.calm = true ∧ targetOffset (BitVec.ofNat 36 (2 * 2 ^ 33 + 7)) = 7) ∧
    (let s := releasing (3 * 2 ^ 33 + 511 * 512) (scratch ((row 3 511 gpRow).setPub 3 511 { Pub.off with state := pubRun }))
     let n := targetOffset (BitVec.ofNat 36 (3 * 2 ^ 33 + 511 * 512))
     s.calm = true ∧ 8 ≤ n ∧ ((s.setPd { s.pd with released := [] }).takeValue n 1).isSome = true) := by decide +kernel

theorem witness_ProcessDataEvents_6 :
    let s := scratch ((row 3 511 gpRow).setPub 3 511 { Pub.off with state := pubRun, stNum := 1, sqNum := 2 ^ 32 - 1 })
    let u := s.readEntry 3 511
    let c : PubCfg := { sv := false, ws := s.peekEntry 3 511 }
    let y := u.1.pub 3 511
    let q := (u.1.setPub 3 511 { y with sqNum := wrap32 y.sqNum, interval := c.nextInterval y.interval }).sendGoose 511 c
    s.calm = true ∧ (s.pub 3 511).state = pubRun ∧ u.2 = .ok c.ws ∧ c.auth = false ∧ q.2 = .ok () := by decide +kernel

theorem witness_ProcessDataEvents_7 :
    let s := up.fset (Reg.PD_DICFG_EN 15) 1
    s.calm = true  ∧ s.fbit (Reg.PD_DICFG_EN 15) = true := by decide +kernel

theorem witness_ProcessDataEvents_8 :
    let s := up.fset (Reg.PD_DOCFG_EN 7) 1
    s.calm = true ∧ s.minOn 7 = false ∧ false = s.outOn 7 ∧ ¬ (true = s.outOn 7 ∧ false = s.outOn 7) := by decide +kernel

theorem witness_ProcessDataEvents_9 :
    let s := with1 (ent 0 true false stIdle)
    let w := s.storedWord .m (Reg.PD_DOB 7) 0x1001 0
    s.calm = true ∧ s.storeGuard .m (Reg.PD_DOB 7) = none ∧ bits (s.rget (Reg.PD_DOB 7)) 0 13 ≠ bits w 0 13 ∧
      bitAt (s.rget (Reg.PD_DOB 7)) 12 = false ∧ bitAt w 12 = true ∧ pageIdle (s.entry (bits w 0 12)).state = true ∧
      s.storeGuard .m (Reg.PD_SPB 63) = none := by decide +kernel

theorem witness_ProcessDataEvents_10 :
    let s := with1 (ent 0 true false stRunning)
    let w := s.storedWord .m (Reg.PD_GPB 511) 0x1001 0
    s.storeGuard .m (Reg.PD_GPB 511) = none ∧ bits (s.rget (Reg.PD_GPB 511)) 0 13 ≠ bits w 0 13 ∧ bitAt w 12 = true ∧
      pageIdle (s.entry (bits w 0 12)).state = false := by decide +kernel

theorem witness_ProcessDataEvents_11 :
    let s := ((up.fset (Reg.PD_DOCFG_DEADMAN 7) 1).fset (Reg.PD_DOCFG_MINON 7) 1).setDiscOut 7 { onNs := some 0, offDue := true }
    up.deadmanRuns 7 = true ∧ (up.fset (Reg.PD_DOCFG_DEADMAN 7) 1).deadmanRuns 7 = false ∧ s.calm = true ∧ s.deadmanRuns 7 = true ∧
      s.minOn 7 = true := by decide +kernel


/-! ## The secure world -/

/-- Context 0 in slot 0 has made monitor call `num` from a level, secure or not, with n0 to n2. -/
def calling (num lvl : Nat) (secure : Bool) (n : List Nat) : State :=
  let s := (((thr 0 0 3 true).setSaved 0 3 2 (BitVec.ofNat 36 (lvl + 4 * b2n secure))).setSaved 0 3 3 0o21).setSaved 0 3 4
    (BitVec.ofNat 36 num)
  (List.range n.length).foldl (fun t k => t.setReg 0 (regN k) (BitVec.ofNat 36 (n.getD k 0))) s

/-- That call. -/
def callOf (num : Nat) (s : State) : MonCall := (s.monCall 0 num).getD { level := 0, secure := false, part := 0, ctx := 0, n := [] }

/-- A session of partition 0 with a role is open as session 15. -/
def session15 (role : Nat) (s : State) : State :=
  ((s.fset (Reg.DX_SESS_STATE 15) 2).fset (Reg.DX_SESS_ROLE 15) role).setDict { s.dict with sess := Tab.set none s.dict.sess 15 none }

/-- The address that n0 of SHWRITE takes for SC_PRANGE15. -/
def prange15 : Nat := 4 * Reg.SC_PRANGE 15 - 3 * 2 ^ 36

theorem witness_MonitorCalls :
    (let s := calling 0 2 false []
     s.calm = true ∧ s.monCall 0 0 = some (callOf 0 s) ∧ (callOf 0 s).level = 2) ∧
    (let s := calling 2 1 false [1023]
     s.calm = true ∧ s.monCall 0 2 = some (callOf 2 s) ∧ (callOf 2 s).level = 1 ∧ ((callOf 2 s).arg 0).toNat ≤ 1023) ∧
    (let s := calling 5 1 true [86, 1]
     let c := callOf 5 s
     s.calm = true ∧ s.monCall 0 5 = some c ∧ (c.arg 1).toNat ≤ 1 ∧ c.level = 1 ∧ c.secure = true ∧ (c.arg 0).toNat = 86) ∧
    (let s := calling 5 1 false [86, 1]
     s.monCall 0 5 = some (callOf 5 s) ∧ (callOf 5 s).secure = false ∧ ((callOf 5 s).arg 1).toNat ≤ 1) ∧
    (let s := calling 6 1 true [1, 63]
     let c := callOf 6 s
     s.calm = true ∧ s.monCall 0 6 = some c ∧ c.level = 1 ∧ c.secure = true ∧ (c.arg 0).toNat ≤ 1 ∧ (c.arg 1).toNat = 63) := by
  decide +kernel

theorem witness_MonitorCalls_posted :
    let s := calling 1 1 false [prange15, 0x2345, 0]
    let c := callOf 1 s
    s.calm = true ∧ s.monCall 0 1 = some c ∧ s.shCheck c = none ∧ c.arg 2 = 0 := by decide +kernel

theorem witness_MonitorCalls_posted_2 :
    let s := session15 2 (calling 1 1 false [prange15, 0x2345, 16])
    let c := callOf 1 s
    s.calm = true ∧ s.monCall 0 1 = some c ∧ s.shCheck c = none ∧ c.arg 2 ≠ 0 := by decide +kernel

theorem witness_MonitorCalls_posted_3 :
    let s := calling 1 1 true [prange15, 0x2345, 0]
    s.calm = true ∧ s.monCall 0 1 = some (callOf 1 s) ∧ s.shCheck (callOf 1 s) = some dxDenied := by decide +kernel

theorem witness_MonitorCalls_posted_4 :
    let s := session15 3 (calling 4 1 false [0x100, 2 ^ 20, 16])
    s.calm = true ∧ s.monCall 0 4 = some (callOf 4 s) ∧ s.updCheck (callOf 4 s) = none := by decide +kernel

theorem witness_MonitorCalls_posted_5 :
    let s := session15 3 (calling 4 1 false [0x100, 2 ^ 20 + 1, 16])
    s.calm = true ∧ s.monCall 0 4 = some (callOf 4 s) ∧ s.updCheck (callOf 4 s) = some stsBadArg := by decide +kernel

/-- Words of memory as Rook holds them. -/
def rookAt (l : Nat) (ws : List Word) (s : State) : State := holds 15 l .m (ws ++ List.replicate (16 - ws.length) 0) s

/-- A descriptor of an HMAC whose key is missing; its source is software source 512. -/
def noKey : List Word := [BitVec.ofNat 36 (4 + 512 * 2 ^ 13), 0, 0, 0, 0, 0, 0, 0]

/-- A job of that descriptor in line 6. -/
def job : CryptJob := { desc := 96, secure := false, ctx := 0 }

theorem witness_MonitorCalls_crypt :
    let s := rookAt 6 noKey (calling 3 1 false [384])
    let c := callOf 3 s
    let u := s.engReads 15 (some (engWho c.part c.secure)) ((c.arg 0).toNat / 4) 8
    s.calm = true ∧ s.monCall 0 3 = some c ∧ c.level = 1 ∧ (c.arg 0).toNat % 32 = 0 ∧ u.2 = .ok noKey ∧
      bits (noKey.getD 0 0) 13 10 = 512 ∧ u.1.srcOwner 512 = c.part ∧ bits (noKey.getD 0 0) 0 3 = 4 ∧
      (Tab.get [] s.rook.jobs c.part).length < 4 := by decide +kernel

/-- A request to the secure core of the context in slot 0. -/
def asked : MonWait := { slot := 0, ctx := 0, part := 0, secure := false, call := 1, args := [BitVec.ofNat 36 prange15, 1, 16, 0], live := true }

theorem witness_MonitorCalls_answer :
    let s := session15 2 (calling 1 1 false [prange15, 1, 16])
    let s := { s with rook := { s.rook with waits := [asked] } }
    let q := State.takeRequest { s with rook := { s.rook with waits := [] } } asked asked.caller
    s.calm = true ∧ takeWait 0 s.rook.waits = some (asked, []) ∧ s.hung = false ∧ s.callStands asked = true ∧
      q.isSome = true := by decide +kernel

/-- A key in force until `expiry`. -/
def keyTo (expiry : Nat) : Key := { alg := 1, ident := 1, use := 7, start := 0, expiry := expiry, value := 1 }

/-- Image `i` holds one octet. -/
def imaged (i : Nat) : State :=
  State.reset.setBoot { State.reset.boot with flash := [(i, [1])] }

theorem witness_SecureEvents :
    (let s := rookAt 6 noKey up
     let s := { s with rook := { s.rook with jobs := [(0, [job])] } }
     let q := State.doJob { s with rook := { s.rook with jobs := Tab.set [] s.rook.jobs 0 [] } } 0 job
     s.calm = true ∧ Tab.get [] s.rook.jobs 0 = [job] ∧ s.domState 83 = 1 ∧
       (q.any fun r => decide ((r.1.engWrite 15 (some (engWho 0 job.secure)) none [(job.desc + 6, BitVec.ofNat 36 r.2)]).2 = .ok ())) =
         true) ∧
    (let s := up.setKeyGroup 1023 { cur := some (keyTo 0), succ := some (keyTo 1) }
     let g := s.keyGroup 1023
     s.calm = true ∧ g.succ = some (keyTo 1) ∧ (keyTo 1).start ≤ s.nowNs ∧ g.cur = some (keyTo 0) ∧ (keyTo 0).alive s.nowNs = false) ∧
    (let s := up.setKeyGroup 1023 { cur := some (keyTo 0), succ := none }
     (s.keyGroup 1023).cur = some (keyTo 0) ∧ (s.keyGroup 1023).succ = none ∧ (keyTo 0).alive s.nowNs = false ∧
       (keyTo 1).alive s.nowNs = true ∧ (s.pd.gpub ++ s.pd.spub).all (fun e => decide (e.2.state ≠ pubRun)) = true ∧
       s.storeGuard .m Reg.RK_PCLR = none ∧ s.storeGuard .s Reg.RK_PCLR = some 3) ∧
    (up.calm = true ∧ up.hung = false ∧ up.fget Reg.RK_PSTAT_PROF ≠ 1 ∧
       (up.fset Reg.RK_PSTAT_PROF 1).fget Reg.RK_PSTAT_PROF = 1) ∧
    (let s := imaged 0
     s.running = true ∧ s.settled = true ∧ s.boot.rom = true ∧ s.boot.refused = false ∧ bits (s.rget (Reg.RK_FUSE 16)) 2 2 ≠ 3 ∧
       s.choose.2 = some 0 ∧ State.reset.choose.2 = none ∧ State.reset.running = true ∧ State.reset.settled = true ∧
       bits ((s.rset (Reg.RK_FUSE 16) 12).rget (Reg.RK_FUSE 16)) 2 2 = 3) ∧
    (let s := up.setBoot { up.boot with hand := some 1 }
     s.calm = true ∧ s.boot.hand = some 1 ∧ s.hung = false ∧ s.accepts [] = true ∧
       ({ up with rook := { up.rook with upd := some (1, []) } }).rook.upd = some (1, [])) := by decide +kernel


/-! ## The dictionary and the Moraine -/

/-- Credential `n` of a role for partition 0. -/
def credOf (role : Nat) : Cred := { role := role, parts := 1, secret := 5, fails := [], locked := false }

/-- A session over UDP with nothing behind it; its keys are those of its credential. -/
def talk (role : Nat) : Session :=
  let x : Session :=
    { tr := some (.udp 5), nc := 1, ns := 2, km := 0, ke := 0, seqIn := 0, seqOut := 0, lastTrailer := 0, lastResp := [], bad := 0,
      stage := [], wait := .none, mtype := 0, ending := false, thenStore := false }
  { x with km := sessionKey (credOf role) x 2, ke := sessionKey (credOf role) x 3 }

/-- Session 15 of partition 0 under credential 63, in a state. -/
def talking (role st : Nat) (x : Session) (s : State := up) : State :=
  ((((s.fset (Reg.DX_SESS_STATE 15) st).fset (Reg.DX_SESS_ROLE 15) role).fset (Reg.DX_SESS_CRED 15) 63)).setDict
    { s.dict with creds := [(63, some (credOf role))], sess := [(15, some x)] }

/-- Its first message, with the trailer that it must carry. -/
def message (x : Session) (mtype : Nat) (payload : List (BitVec 8)) : DxHead :=
  let m : DxHead := { tr := .udp 5, sid := 15, seq := 1, conf := false, tagOk := true, trailer := 0 }
  { m with trailer := x.trailerOf m mtype payload }

/-- What a message needs beside its trailer and the session's credential. -/
def fits (s : State) (m : DxHead) (payload : List (BitVec 8)) (x : Session) : Bool :=
  s.arrives m.tr && decide (s.sessState m.sid.val = 2) && decide (x.wait = .none) && decide (payload.length ≤ 1400) &&
    (decide (m.seq.toNat ≠ x.seqIn) || decide (x.seqIn = 0)) && decide (m.seq.toNat = (x.seqIn + 1) % 2 ^ 32) &&
    (!m.conf || m.tagOk) && (!s.fbit (Reg.DX_SESS_CONF m.sid.val) || m.conf)

theorem accepted_of_fits {s : State} {m : DxHead} {mt : Nat} {p : List (BitVec 8)} {x : Session} {c : Cred} {tr : Transport}
    (hs : s.sess m.sid.val = some x) (hc : s.cred (s.sessCred m.sid.val) = some c) (hx : x.tr = some tr)
    (hr : (decide (c.role = s.sessRole m.sid.val) && c.parts.getLsbD (s.sessPart m.sid.val) &&
      s.partExists (s.sessPart m.sid.val) && sameTransport tr m.tr && fits s m p x) = true)
    (hk : x.km = sessionKey c x 2) (ht : m.trailer = x.trailerOf m mt p) : s.accepted m mt p x = true := by
  simp only [fits, Bool.and_eq_true, decide_eq_true_eq] at hr
  have hg : s.credGone m.sid.val x = false := by
    simp only [State.credGone, hc, hr.1.1.2, ← hr.1.1.1.1, hr.1.1.1.2, hk]; simp [sessionKey]
  simp_all [State.accepted]
  left
  have h5 := hr.2.1.1.1.2
  rw [hr.2.1.1.2] at h5
  exact h5

/-- An open session of a role as session 15. -/
def open15 (role : Nat) (s : State := up) : State := talking role 2 (talk role) s

theorem accepted_open15 (role mt : Nat) (p : List (BitVec 8)) (x : Session) (s : State) (hx : x.tr = some (.udp 5))
    (hk : x.km = sessionKey (credOf role) x 2) (hs : s.sess 15 = some x) (hc : s.cred (s.sessCred 15) = some (credOf role))
    (hr : (decide (role = s.sessRole 15) && (credOf role).parts.getLsbD (s.sessPart 15) && s.partExists (s.sessPart 15) &&
      fits s (message x mt p) p x) = true) : s.accepted (message x mt p) mt p x = true :=
  accepted_of_fits (tr := .udp 5) hs hc hx (by
    simp only [Bool.and_eq_true] at hr ⊢
    exact ⟨⟨hr.1, rfl⟩, hr.2⟩) hk rfl

theorem witness_DictionaryMessages_ping :
    let s := open15 1
    let m := message (talk 1) mtPing []
    s.calm = true ∧ s.accepted m mtPing [] (talk 1) = true :=
  ⟨by decide +kernel, accepted_open15 1 _ _ _ _ rfl rfl rfl (by decide +kernel) (by decide +kernel)⟩

theorem witness_DictionaryMessages :
    (let s := up.setDict { up.dict with creds := [(63, some (credOf 1))] }
     s.calm = true ∧ s.arrives (.udp 5) = true ∧ s.hung = false ∧ s.fbit Reg.DX_CFG_CONFREQ = false ∧ s.cred 63 = some (credOf 1) ∧
       (credOf 1).locked = false ∧ (credOf 1).parts.getLsbD 0 = true ∧ s.partExists 0 = true ∧ s.trAllows (.udp 5) 0 = true ∧
       (List.range 16).find? (fun k => decide (s.sessState k = 0)) = some 0 ∧ s.sessionsOf 0 < s.fget (Reg.DX_QTA_SESS 0) ∧
       s.cred 62 = none) ∧
    (let s := up.setDict { up.dict with creds := [(63, some { credOf 1 with locked := true })] }
     s.calm = true ∧ s.cred 63 = some { credOf 1 with locked := true }) ∧
    (let x := { talk 1 with km := 0, ke := 0 }
     let s := (talking 1 2 x).fset (Reg.DX_SESS_IDLE 15) 60
     s.calm = true ∧ s.sess 15 = some x ∧ s.sessState 15 = 2 ∧
       Nat.max 1 (s.fget Reg.DX_CFG_IDLE) ≤ s.fget (Reg.DX_SESS_IDLE 15) ∧ x.wait = .none) ∧
    (let x := { talk 1 with km := 0, ke := 0, wait := .flip }
     let s := (talking 1 2 x).fset (Reg.DX_SESS_IDLE 15) 60
     s.calm = true ∧ s.sess 15 = some x ∧ s.sessState 15 = 2 ∧
       Nat.max 1 (s.fget Reg.DX_CFG_IDLE) ≤ s.fget (Reg.DX_SESS_IDLE 15) ∧ x.wait ≠ .none) := by decide +kernel

/-- Session 15 is challenged. -/
def challenged : State := talking 1 1 (talk 1)

theorem witness_DictionaryMessages_prove :
    let s := challenged
    let proof := s.proofOf 15 (talk 1) (credOf 1)
    s.calm = true ∧ s.sess 15 = some (talk 1) ∧ s.cred (s.sessCred 15) = some (credOf 1) ∧ s.arrives (.udp 5) = true ∧
      s.sessState 15 = 1 ∧ (∃ t, (talk 1).tr = some t ∧ sameTransport t (.udp 5) = true) ∧ (credOf 1).locked = false ∧
      (credOf 1).role = s.sessRole 15 ∧ (talk 1).ending = false ∧ proof + 1 ≠ proof :=
  ⟨by decide +kernel, rfl, by decide +kernel, by decide +kernel, by decide +kernel, ⟨_, rfl, rfl⟩, rfl, by decide +kernel, rfl,
    fun h => by simpa using congrArg (· - challenged.proofOf 15 (talk 1) (credOf 1)) h⟩

theorem witness_DictionaryMessages_close :
    let s := open15 1
    let m := message (talk 1) mtClose []
    s.calm = true ∧ s.accepted m mtClose [] (talk 1) = true :=
  ⟨by decide +kernel, accepted_open15 1 _ _ _ _ rfl rfl rfl (by decide +kernel) (by decide +kernel)⟩

/-- READ of an entry that is none (0101h), of one for other roles (A000h) and of the time (0010h). -/
theorem witness_DictionaryMessages_read :
    let ask (i : Nat) := readPayload i 0 0 0 1
    let m (i : Nat) := message (talk 1) mtRead (ask i)
    let s := open15 1
    let t (i : Nat) := s.heard (m i) mtRead (talk 1)
    (∀ i, i = 0x101 ∨ i = 0xA000 ∨ i = 0x10 → s.accepted (m i) mtRead (ask i) (talk 1) = true) ∧
    ((t 0x101).entryOf ((t 0x101).sessPart 15) 0x101 0 = none) ∧
    (let d := plainDesc 3 1 (0b010000 + wMaker)
     (t 0xA000).entryOf ((t 0xA000).sessPart 15) 0xA000 0 = some (.free, d) ∧ (t 0xA000).mayRead 15 .free d = false) ∧
    (let d := plainDesc 5 0 (rAll + wInstaller)
     (t 0x10).entryOf ((t 0x10).sessPart 15) 0x10 0 = some (.time, d) ∧ (t 0x10).mayRead 15 .time d = true) :=
  ⟨fun _ h => by
    rcases h with rfl | rfl | rfl <;>
      exact accepted_open15 1 _ _ _ _ rfl rfl rfl (by decide +kernel) (by decide +kernel),
   by decide +kernel, by decide +kernel, by decide +kernel⟩

/-- WRITE of 0801h by a role that may not and by the installer. -/
theorem witness_DictionaryMessages_write :
    let val : List (BitVec 8) := [0, 0, 0, 0, 1]
    let pay := writePayload 0x801 5 0 0 false val
    let s (r : Nat) := open15 r
    let m (r : Nat) := message (talk r) mtWrite pay
    let t (r : Nat) := (s r).heard (m r) mtWrite (talk r)
    let d := plainDesc 3 persStored (rAll + wInstaller) 1
    let u := (t 2).writeRecord 15 0x801 5 0 0 false d ((t 2).oldWords 0 0x801 5 0 1 (.lmap 5) d) [1]
    ((s 1).accepted (m 1) mtWrite pay (talk 1) = true ∧ (s 2).accepted (m 2) mtWrite pay (talk 2) = true) ∧
    (t 1).entryOf ((t 1).sessPart 15) 0x801 5 = some (.lmap 5, d) ∧ (t 1).mayWrite 15 (.lmap 5) d none val = false ∧
    (t 2).entryOf ((t 2).sessPart 15) 0x801 5 = some (.lmap 5, d) ∧ (t 2).mayWrite 15 (.lmap 5) d none val = true ∧
    parseValue d.ty d.len val = some [1] ∧ d.inRange [1] = true ∧ (needsRook none (.lmap 5) d && (t 2).hung) = false ∧
    ((t 2).writeFixed ((t 2).sessPart 15) 0x801 5 0 (.lmap 5) d [1] val).2 = .made [] .none true ∧
    (t 2).moRoom (writeSlots d) = true ∧ (u.writeFixed 0 0x801 5 0 (.lmap 5) d [1] val).2 = .made [] .none true :=
  ⟨⟨accepted_open15 1 _ _ _ _ rfl rfl rfl (by decide +kernel) (by decide +kernel),
    accepted_open15 2 _ _ _ _ rfl rfl rfl (by decide +kernel) (by decide +kernel)⟩, by decide +kernel⟩

/-- Setting 7FFFh sub 255 of partition 0, which the operator may write. -/
def described : State :=
  memAt 80 [BitVec.ofNat 36 (0x7FFF * 2 ^ 20 + 255 * 2 ^ 12 + 3 * 2 ^ 8 + 2 ^ 6 + 2 ^ 4), 3, 0, BitVec.ofNat 36 (2 ^ 36 - 1), 0, 0, 0, 0]
    ((up.fset (Reg.DX_ATB_BASE 0) 5).fset (Reg.DX_ATC_COUNT 0) 1)

def settingDesc : EntryDesc := descOf ((List.range 8).map fun j => described.peek (80 + j))
def setPay (g : BitVec 8) (stage : Bool) : List (BitVec 8) :=
  writePayload (0x7FFF : BitVec 16).toNat (255 : BitVec 8).toNat g.toNat (0 : BitVec 32).toNat stage [0, 0, 0, 0, 9]

theorem witness_SettingsAndMailboxes_write :
    ∀ y : BitVec 8 × Bool, y = (7, true) ∨ y = (7, false) ∨ y = (0, false) →
      let s := open15 1 described
      let m := message (talk 1) mtWrite (setPay y.1 y.2)
      let t := s.heard m mtWrite (talk 1)
      s.calm = true ∧ s.accepted m mtWrite (setPay y.1 y.2) (talk 1) = true ∧ (talk 1).ending = false ∧
        t.entryOf (t.sessPart 15) 0x7FFF 255 = some (.setting, settingDesc) ∧ settingDesc.ty < tyOctets ∧
        t.mayWrite 15 .setting settingDesc none [0, 0, 0, 0, 9] = true ∧
        parseValue settingDesc.ty settingDesc.len [0, 0, 0, 0, 9] = some [9] ∧ settingDesc.inRange [9] = true ∧
        t.groupOf 0 y.1.toNat = some y.1.toNat ∧ (decide (settingDesc.pers = persStored) && t.hung) = false ∧
        (talk 1).stage.length < 64 ∧
        t.moRoom (writeSlots settingDesc) = true ∧ t.activeGroup 0 = 0 ∧ Tab.get none t.dict.flips 0 = none := by
  intro y hy
  have h : (open15 1 described).accepted (message (talk 1) mtWrite (setPay y.1 y.2)) mtWrite (setPay y.1 y.2) (talk 1) = true := by
    rcases hy with rfl | rfl | rfl <;>
      exact accepted_open15 1 _ _ _ _ rfl rfl rfl (by decide +kernel) (by decide +kernel)
  refine ⟨by decide +kernel, h, by decide +kernel, ?_, by decide +kernel, ?_, by decide +kernel, by decide +kernel, ?_, ?_, ?_⟩ <;>
    rcases hy with rfl | rfl | rfl <;> decide +kernel

/-- A change of the setting. -/
def change (g : Nat) : SetWrite := { toGroup := g, words := [9], index := 0x7FFF, sub := 255, group := g, stored := false }

theorem witness_SettingsAndMailboxes_apply :
    let x := { talk 1 with stage := [change 7] }
    let s := talking 1 2 x described
    let m := message x mtApply []
    let t := s.heard m mtApply x
    s.calm = true ∧ s.accepted m mtApply [] x = true ∧ (x.stage.any (·.stored) && t.hung) = false ∧
      Tab.get none t.dict.flips (t.sessPart 15) = none ∧ t.moRoom (3 * x.stage.length) = true :=
  ⟨by decide +kernel, accepted_open15 1 _ _ _ _ rfl rfl rfl (by decide +kernel) (by decide +kernel), by decide +kernel⟩

theorem witness_SettingsAndMailboxes :
    (let fl : Flip := { sid := 15, group := 0, changes := [change 7], stored := false }
     let s := up.setDict { up.dict with flips := [(15, some fl)] }
     s.calm = true ∧ Tab.get none s.dict.flips 15 = some fl ∧
       ((Tab.get [] s.dict.oldRuns 15).any fun r => (s.runningRuns 15).contains r) = false ∧
       fl.changes = [change 7] ∧ (change 7).index ≠ 0x700) ∧
    (let s := up.setDict { up.dict with toStore := [3] }
     s.calm = true ∧ s.dict.toStore ≠ [] ∧ s.hung = false ∧ s.dict.gen ≤ s.dict.gen2) ∧
    (let s := up.setDict { up.dict with toStore := [3], gen := 1 }
     s.dict.toStore ≠ [] ∧ s.dict.gen2 < s.dict.gen) ∧
    (let s := (rookAt 5 [] up).setDict { up.dict with mbox := [(0, [1, 2, 3])] }
     let s := (s.fset (Reg.DX_MBUF_BASE 0) 5).fset (Reg.DX_MST_BUSY 0) 1
     let q := s.engWrite 15 (some (engWho 0)) none
       (wordsAt (16 * s.fget (Reg.DX_MBUF_BASE 0)) (copyWords tyOctets ([1, 2, 3].map fun o : BitVec 8 => o.setWidth 36)))
     s.calm = true ∧ s.fbit (Reg.DX_MST_BUSY 0) = true ∧ Tab.get [] s.dict.mbox 0 = [1, 2, 3] ∧ q.2 = .ok () ∧
       q.1.settled = true) := by decide +kernel

/-- A record of one slot waits in the Moraine's queue; a slot is being read. -/
def recording : State :=
  let q : MoPend := { ff := false, idx := 0, total := 1, words := [1, 2, 3, 4] }
  let s := (up.fset Reg.MO_STAT_READY 1).setMor { up.mor with queue := [q], next := 61440, reading := true, ring := [(0, { words := [], tag := moTag 61440 false true })] }
  (s.fset Reg.MO_RST_DONE 0).rset Reg.MO_RSEL_LO 61440

theorem witness_MoraineCommands :
    (let s := recording
     s.settled = true ∧ s.fbit Reg.MO_STAT_READY = true ∧ s.mor.queue ≠ [] ∧ s.mor.dropped = 0 ∧ s.mor.powerFail = false ∧
       s.running = true ∧ s.mor.reading = true ∧ s.fbit Reg.MO_RSEL_HI_FF = false ∧
       (s.selectedSlot false (s.fget Reg.MO_RSEL_HI_SEQ * 2 ^ 36 + (s.rget Reg.MO_RSEL_LO).toNat)).isSome = true ∧
       s.fbit Reg.MO_RST_DONE = false ∧ s.selectedSlot false 61441 = none) ∧
    (up.settled = true ∧ up.running = true ∧ (up.fset Reg.MO_STAT_READY 0).fbit Reg.MO_STAT_READY = false ∧
       up.fbit Reg.MO_RST_DONE = true ∧ up.storeGuard .m Reg.MO_RSEL_LO = none) := by decide +kernel


/-! ## PCIe -/

/-- The endpoint released and enabled, the link up, the PF with memory space and bus master, 16 VFs with memory space, all of
partition 0. -/
def linked : State :=
  let s := (up.fset Reg.PX_CTL_EN 1).fset Reg.PX_STAT_LINK 2
  (s.setPx { s.pcie with held := false, cfg := [(1, 6), (86, 9), (88, 16)] }).fset (Reg.PX_FCTL_PART 16) 0

/-- Window 7 of the PF: 2^16 octets at offset 0, for words of line 5 on, read and write. -/
def windowed (packed : Bool) : State :=
  let s := holds 13 5 .m words5 linked
  let s := (((s.fset (Reg.PX_IWA_LOG2 0 7) 16).fset (Reg.PX_IWA_R 0 7) 1).fset (Reg.PX_IWA_W 0 7) 1).fset (Reg.PX_IWA_V 0 7) 1
  (s.fset (Reg.PX_IWA_VIEW 0 7) (b2n packed)).fset (Reg.PX_IWB_TARGET 0 7) 5

/-- A word of 36 bits as octets of the expanded view. -/
def fiveOctets : List (Option (BitVec 8)) := (List.range 5).map fun i => some (BitVec.ofNat 8 i)

theorem witness_PcieRequests :
    let s := linked
    let c := s.cfgSpec 16 1
    s.pxVfs ≤ (s.setCfgRaw 16 1 ((s.cfgRaw 16 1 &&& ~~~(BitVec.ofNat 32 c.rw)) ||| (4 &&& BitVec.ofNat 32 c.rw) &&&
      ~~~((4 : BitVec 32) &&& BitVec.ofNat 32 c.w1c))).pxVfs := by decide +kernel

theorem witness_PcieRequests_2 :
    let s := linked
    s.pxRefuse 16 .mem .bar0 = none ∧ s.fbit (Reg.PX_FMBST_BUSY 16) = false ∧ s.pcie.held = false ∧
      0x1000 ≤ (0x15BF : BitVec 40).toNat % 0x2000 ∧ (0x15BF : BitVec 40).toNat % 0x2000 < 0x15C0 ∧
      (64 : BitVec 40).toNat % 0x2000 = 64 := by decide +kernel

theorem witness_PcieRequests_3 :
    let s := windowed true
    s.calm = true ∧ s.domState 81 = 1 ∧ s.writesWait 13 = false ∧ s.pxRefuse 0 .mem .bar2 = none ∧ s.windowAt 0 0 = some (7, 0) ∧
      s.pastWindow 0 7 0 = false ∧ 0 + 9 ≤ 2 ^ s.fget (Reg.PX_IWA_LOG2 0 7) ∧ s.fbit (Reg.PX_IWA_VIEW 0 7) = true ∧
      viewWords true 0 9 = [0, 1] ∧ s.hostMay 0 7 0 false = true ∧ s.hostMay 0 7 1 false = true ∧ 1 < s.windowWords 0 7 ∧
      (State.hostWords 0 7 (viewWords true 0 9) s).isSome = true := by decide +kernel

/-- A window over memory of channels that do not answer. -/
def unanswered : State := asleep (windowed true |>.fset (Reg.PX_IWB_TARGET 0 7) 6)

theorem witness_PcieRequests_4 :
    (let s := windowed false
     s.windowAt 0 8 = some (7, 8) ∧ 8 + fiveOctets.length ≤ 2 ^ s.fget (Reg.PX_IWA_LOG2 0 7) ∧ s.pastWindow 0 7 8 = false ∧
       (viewWords false 8 5).filter (fun i => decide (i < s.windowWords 0 7)) = [1] ∧ (writtenWords false fiveOctets 8 [1]).2 = [] ∧
       (writtenWords false fiveOctets 8 [1]).1.map (·.1) = [1] ∧ s.hostMay 0 7 1 true = true) ∧
    (let s := unanswered
     s.calm = true ∧ s.pxRefuse 0 .mem .bar2 = none ∧ s.hostMay 0 7 0 false = true ∧ s.hostMay 0 7 1 false = true ∧
       (State.hostWords 0 7 (viewWords true 0 9) s).isSome = false) ∧
    (linked.setDom 81 2).calm = true ∧ (linked.setDom 81 2).domState 81 ≠ 1 := by decide +kernel

theorem witness_PcieRequests_5 :
    (up.calm = true ∧ up.fbit Reg.PX_CTL_EN = false ∧ linked.calm = true ∧ linked.fbit Reg.PX_CTL_EN = true ∧
      (linked.setPx { linked.pcie with cfg := [] }).pxPresent 16 = false ∧ linked.pxPresent 16 = true ∧ linked.pxPresent 0 = true) ∧
    (linked.pxRefuse 16 .unsupported .bar2).isSome = true ∧
    (linked.pxRefuse 16 .malformed .bar2).map (·.2) = some false := by decide +kernel

/-- A load of slot 383 through PCIe that has gone onto the link. -/
def outward : LoadWait :=
  { place := .img 20, va := 0x104, pa := paDramEnd, size := 4, signed := false, adv := none, out := true }

/-- The PF with a pending vector 63 at the front of the queue; `dw` of configuration space says how it is sent. -/
def vectored (cfg : List (Nat × BitVec 32)) : State :=
  let s := linked.flag (Reg.PX_FPEND_PEND 0 3) (Reg.PX_FPEND_PEND_MORE 0 3) 15
  s.setPx { s.pcie with queue := [.vector 0 63, .write 0 8 []], cfg := cfg, msix := [(255, 0)] }

theorem witness_PcieEvents :
    let s := (thr 383 4095 0 true).setSlot 383 { (thr 383 4095 0 true).slot 383 with outLoad := some outward }
    s.calm = true ∧ s.sentLoad 383 = some outward := by decide +kernel

theorem witness_PcieEvents_2 :
    let s := vectored [(1, 6), (44, 0x80000000)]
    s.calm = true ∧ s.pcie.queue = [.vector 0 63, .write 0 8 []] ∧ s.vectorMessage 0 63 = some (.message 0 0 0) := by decide +kernel

theorem witness_PcieEvents_3 :
    let s := linked
    let v : Word := BitVec.ofNat 36 (2 ^ 30 + 16 * 2 ^ 16)
    s.storeGuard .m (Reg.PX_IWA 16 7) = none ∧ s.fbit (Reg.PX_IWA_V 16 7) = false ∧ bitAt v 30 = true ∧
      s.windowSound 16 7 v = true ∧ s.windowSound 16 7 (BitVec.ofNat 36 (2 ^ 30 + 15 * 2 ^ 16)) = false := by decide +kernel

theorem witness_PcieEvents_4 :
    (linked.calm = true ∧ linked.domState 81 = 1 ∧ (linked.core.slots.all fun e => e.2.outLoad.isNone) = true ∧ linked.pcie.queue = [] ∧ linked.fget (Reg.PX_FCTL_IMODE 0) ≠ 2) ∧
    ((vectored [(1, 6)]).vectorMessage 0 63 = some (.inta true) ∧ (vectored []).vectorMessage 0 63 = none ∧
      (vectored []).calm = true) ∧
    linked.fget Reg.PX_STAT_LINK ≠ 0 := by decide +kernel


/-! ## Power, sensors, resets -/

/-- The part with no request under way. -/
def idlePm (s : State) : State := s.fset Reg.PM_RES_DONE 1

theorem witness_PowerAndSensors :
    (let s := up.fset Reg.PM_RES_DONE 0
     s.settled = true ∧ s.running = true ∧ s.fbit Reg.PM_RES_DONE = false) ∧
    (let s := (idlePm up).setDom 48 0
     s.settled = true ∧ s.running = true ∧ s.fbit Reg.PM_RES_DONE = true ∧ 6 ≤ s.boot.done ∧ s.domHeld 48 = false ∧
       powerTarget (s.domState 48) 1 = some 1 ∧ s.domState 48 ≠ 3 ∧ s.starved 48 = false) ∧
    (let s := idlePm up
     s.settled = true ∧ s.fbit Reg.PM_RES_DONE = true ∧ 6 ≤ s.boot.done ∧ s.domHeld 84 = false ∧ powerTarget (s.domState 84) 2 = some 2 ∧
       s.mayGate 84 2 = true ∧ powerTarget (s.domState 84) 3 = some 0 ∧ s.mayGate 84 3 = true) := by
  decide +kernel

theorem witness_PowerAndSensors_2 :
    (let s := idlePm up
     s.judgePower (req .m) 1 47 = stsConflict ∧ s.judgePower (req .m) 3 87 = stsBadArg ∧ stsConflict ≠ stsOk ∧ stsConflict ≠ stsBusy ∧
       stsBadArg ≠ stsOk ∧ stsBadArg ≠ stsBusy) ∧
    (let s := (idlePm up).setDom 86 3
     s.settled = true ∧ s.running = true ∧ s.fbit Reg.PM_RES_DONE = true ∧ 6 ≤ s.boot.done ∧ s.domHeld 86 = false ∧ s.domState 86 = 3) ∧
    (let s := up.setPow { up.pow with trans := some (86, 0) }
     s.running = true ∧ s.pow.trans = some (86, 0) ∧ s.settled = true) ∧
    (up.domState 86 = 1 ∧ up.settled = true ∧ up.domState 47 = 1 ∧ up.domState 81 = 1 ∧
      (up.core.slots.all fun e => e.2.outLoad.isNone) = true) := by decide +kernel

theorem witness_PowerAndSensors_3 :
    (up.settled = true ∧ up.running = true ∧ Tab.get false up.pow.railOut 11 = false ∧
      up.railWithin 11 (0 : BitVec 12).toNat = false ∧ up.railWithin 11 (up.fget (Reg.PM_RAIL_HI 11)) = true) ∧
    (let s := up.setPow { up.pow with railOut := [(11, true)] }
     s.settled = true ∧ s.running = true ∧ Tab.get false s.pow.railOut 11 = true ∧
       s.railWithin 11 (BitVec.ofNat 12 (s.fget (Reg.PM_RAIL_LO 11))).toNat = true) ∧
    ((499 : BitVec 12).toInt < 500 ∧ tempOf (up.fget (Reg.PM_TLIM_HI 15)) < (499 : BitVec 12).toInt ∧
      Tab.get false up.pow.tempHi 15 = false) ∧
    (let s := up.setPow { up.pow with tempHi := [(15, true)] }
     s.settled = true ∧ s.running = true ∧ Tab.get false s.pow.tempHi 15 = true ∧
       (-2048 : BitVec 12).toInt < tempOf (s.fget (Reg.PM_TLIM_HI 15)) - s.fget (Reg.PM_TLIM_HYST 15)) ∧
    500 ≤ (500 : BitVec 12).toInt ∧
    (let s := up.setPow { up.pow with hold := .thermal }
     s.settled = true ∧ s.pow.hold = .thermal) := by decide +kernel

theorem witness_ResetsAndPowerFail :
    up.pow.hold ≠ .failed ∧ up.running = true ∧ up.calm = true ∧ up.storeGuard .m Reg.PM_RST = none ∧
    up.storeGuard .s Reg.PM_RST = some 3 ∧
    (let s := up.setBoot { up.boot with done := 5 }
     s.running = true ∧ s.settled = true ∧ s.boot.done < 6 ∧ s.storeGuard .m Reg.PM_RST = none) ∧
    (let s := up.setPow { up.pow with hold := .por }
     s.running = false ∧ s.pow.hold ≠ .thermal ∧ s.mor.powerFail = false ∧ s.settled = true) ∧
    (let s := (up.setPow { up.pow with hold := .failed }).setMor { up.mor with powerFail := true }
     s.running = false ∧ s.pow.hold ≠ .thermal ∧ s.mor.powerFail = true ∧ s.pow.hold = .failed ∧ s.relayDue 0 = false ∧
       s.relayDue 1 = false) ∧
    (up.fset Reg.PM_PFCFG_PFEN 1).fbit Reg.PM_PFCFG_PFEN = true ∧ (up.fset Reg.PM_PFCFG_PFEN 1).running = true ∧
    ((3 : Fin 12).val = 0 ∨ (3 : Fin 12).val = 3) := by decide +kernel

/-- The part after step `n` of a release, cold or warm; its channels ACTIVE. -/
def released (n : Nat) (warm : Bool) : State :=
  let s := (up.setBoot { up.boot with done := n }).setPow { up.pow with warm := warm }
  (List.range 6).foldl (fun t c => t.fset (Reg.MC_CHSTAT_STATE c) chActive) s

theorem witness_ResetsAndPowerFail_2 :
    (State.reset.running = true ∧ State.reset.settled = true ∧ State.reset.boot.rom = true) ∧
    (∀ n, n = 0 ∨ n = 2 ∨ n = 4 →
      let s := released n false
      s.running = true ∧ s.settled = true ∧ s.boot.rom = false ∧ s.boot.done = n ∧ s.pow.warm = false) ∧
    (∀ n, n = 0 ∨ n = 4 →
      let s := released n true
      s.running = true ∧ s.settled = true ∧ s.boot.rom = false ∧ s.boot.done = n ∧ s.pow.warm = true) := by
  refine ⟨by decide +kernel, ?_, ?_⟩ <;> rintro n (rfl | rfl | rfl) <;> decide +kernel

/-- No pair is in force, or pair 0 of partition 0 is split. -/
def unpaired (split : Bool) : State :=
  let s := (List.range 24).foldl (fun t k => t.fset (Reg.LS_STAT_STATE k) lsOff) (released 5 false)
  if split then s.fset (Reg.LS_STAT_STATE 0) lsSplit else s

theorem witness_ResetsAndPowerFail_3 :
    (let s := released 1 false
     let u := s.loadLmap.domsOn (fromTo 60 8 ++ fromTo 68 6)
     s.running = true ∧ s.settled = true ∧ s.boot.rom = false ∧ s.boot.done = 1 ∧ s.pow.warm = false ∧
       ∀ c ∈ u.chList, u.chState c = chActive) ∧
    (let s := released 3 false
     s.running = true ∧ s.settled = true ∧ s.boot.rom = false ∧ s.boot.done = 3) ∧
    (let s := unpaired false
     s.running = true ∧ s.settled = true ∧ s.boot.rom = false ∧ s.boot.done = 5 ∧ s.firmwarePair = none ∧
       ∀ k, k < 24 → s.pairState k ≠ lsTest) ∧
    (let s := unpaired true
     s.running = true ∧ s.settled = true ∧ s.boot.rom = false ∧ s.boot.done = 5 ∧ s.firmwarePair ≠ none) := by
  decide +kernel


/-! ## Debug and the test access port -/

/-- Cluster 11 holds a START of slot 0 of core 47 for the router, whose turn is at 11. -/
def routed (s : State := up) : State :=
  (((s.fset Reg.TR_CTL_EN 1).setTrQueue 11 [{ core := 47, words := [pktHead 1 47 0 0 0, 0x100] }])).setTrc
    { ((s.fset Reg.TR_CTL_EN 1).setTrQueue 11 [{ core := 47, words := [pktHead 1 47 0 0 0, 0x100] }]).trc with turn := 11 }

/-- Core `c`'s thread in slot 8 c + 7 at level `lvl`; the debugger names it, and `addr` is in DB_ADDR. -/
def target (c lvl : Nat) (addr : Nat) : State :=
  let s := thr (8 * c + 7) 0 lvl true
  let s := ((s.fset Reg.DB_TGT_CORE c).fset Reg.DB_TGT_SLOT 7).fset Reg.DB_RES_DONE 1
  (s.rset Reg.DB_ADDR (BitVec.ofNat 36 addr)).rset Reg.DB_DATA 5

/-- The same with the core halted. -/
def stopped (c lvl : Nat) (addr : Nat) : State := (target c lvl addr).fset (haltBit c) 1

/-- A state in which command `op` is carried out. -/
def dbBegun (s : State) (op : Nat) : State := (s.fset Reg.DB_RES_DONE 0).setTap { s.tap with cmd := some op }

/-- The ring of partition 0 is enabled and wraps; it lies at line 16. -/
def ringed (s : State) : State :=
  ((routed (holds 14 16 .m (List.replicate 16 0) s)).fset (Reg.TR_RBASE_BASE 0) 16).rset (Reg.TR_RCTL 0) 48

/-- The router's store of that packet. -/
def ringStore (s : State) : State × Eng Unit :=
  ((s.setTrc { s.trc with turn := 0 }).setTrQueue 11 []).engWrite 14 (some (engWho 0)) none
    (([pktHead 1 47 0 0 0, 0x100] : List Word).mapIdx fun i v =>
      (16 * s.fget (Reg.TR_RBASE_BASE 0) + (s.fget (Reg.TR_RWP_WP 0) % s.ringWords 0 + i) % s.ringWords 0, v))

theorem witness_DebugCommands_router :
    (let s := routed
     s.calm = true ∧ s.routing = true ∧ (List.range 12).find? (fun j => decide (s.trQueue ((s.trc.turn + j) % 12) ≠ [])) = some 0 ∧
       (s.trc.turn + 0) % 12 = 11 ∧ s.trQueue 11 = [{ core := 47, words := [pktHead 1 47 0 0 0, 0x100] }] ∧
       ∀ m, m < 4 → Tab.get false s.trc.gap (4 * 11 + m) = false) ∧
    (∀ s, s = ringed up ∨ s = ringed (up.setLineQ 3 { LineQ.idle with queue := [{ agent := 14, op := .wrh [] none }] }) →
      s.calm = true ∧ s.routing = true ∧ s.pairOwner (47 / 2) = 0 ∧ s.fbit (Reg.TR_RCTL_EN 0) = true ∧
        s.fbit (Reg.TR_RCTL_MODE 0) = true ∧ (ringStore s).2 = .ok ()) ∧
    (ringStore (ringed up)).1.writesWait 14 = false ∧
    (ringStore (ringed (up.setLineQ 3 { LineQ.idle with queue := [{ agent := 14, op := .wrh [] none }] }))).1.writesWait 14 = true := by
  refine ⟨by decide +kernel, ?_, by decide +kernel, by decide +kernel⟩
  rintro s (rfl | rfl) <;> decide +kernel

theorem witness_DebugCommands :
    (let s := (target 0 0 0).fset Reg.DB_RES_DONE 0
     s.calm = true ∧ s.fbit Reg.DB_RES_DONE = false) ∧
    (let s := (target 0 0 0).fset Reg.DB_TGT_CORE 48
     s.calm = true ∧ s.fbit Reg.DB_RES_DONE = true ∧ s.dbCore = none) ∧
    (let s := target 47 0 0
     s.calm = true ∧ s.fbit Reg.DB_RES_DONE = true ∧ s.dbCore = some 47 ∧ s.halted 47 = false ∧
       s.pairState (47 / 2) ≠ lsHold ∧ s.pairState (47 / 2) ≠ lsTest ∧ 47 ∈ s.pairCores (47 / 2) ∧
       ∀ j ∈ coreSlots 47, s.dbGuarded j = false) ∧
    (let s := (target 46 0 0).fset (Reg.LS_STAT_STATE 23) lsLockstep
     s.dbCore = some 46 ∧ s.pairState 23 = lsLockstep) := by decide +kernel

theorem witness_DebugCommands_2 :
    (let s := stopped 47 0 31
     s.calm = true ∧ s.fbit Reg.DB_RES_DONE = true ∧ s.dbCore = some 47 ∧ s.halted 47 = true ∧
       383 = 8 * 47 + s.fget Reg.DB_TGT_SLOT ∧ (s.slot 383).outLoad.map (·.place) ≠ some Place.dbData ∧
       (s.slot 383).ctx.isSome = true ∧ (s.slot 383).gate = true ∧ (s.slot 383).stopped = false ∧ s.dbGuarded 383 = false ∧
       (s.rget Reg.DB_ADDR).toNat = (31 : BitVec 5).toNat) ∧
    (let s := (stopped 47 0 31).setSlot 383 { (stopped 47 0 31).slot 383 with gate := false }
     s.calm = true ∧ (s.slot 383).ctx.isSome = true ∧ (s.slot 383).gate = false) := by decide +kernel

/-- Control register 4, which every level reads and writes (R161). -/
theorem witness_DebugCommands_3 :
    let s := stopped 47 0 (64 + 4)
    s.calm = true ∧ (s.rget Reg.DB_ADDR).toNat = 68 ∧ ctlReadTrap (Nat.max 1 (s.level 383)) (68 - 64) true = none ∧
      ctlWriteTrap (Nat.max 1 (s.level 383)) (68 - 64) = none := by decide +kernel

theorem witness_DebugCommands_4 :
    misaligned 4 ((stopped 47 0 3).rget Reg.DB_ADDR) = true ∧
    (let s := stopped 0 0 0x104
     let r := (dbBegun s 6).resolve 7 ((dbBegun s 6).who 7) .load 4 0x104
     s.calm = true ∧ s.halted 0 = true ∧ s.dbCore = some 0 ∧ 7 = 8 * 0 + s.fget Reg.DB_TGT_SLOT ∧ misaligned 4 (0x104 : Word) = false ∧
       s.reads 7 4 false 0x104 (leaf 0 20 0) 0x900000101 = true ∧ s.near 7 false 0x104 0x900000101 = true ∧
       s.dbReach 0 0x104 1 = true ∧ r.2 = .ok (0x104, 0) ∧ isOutbound 0x104 = false ∧
       (r.1.loadData 7 0x104 0 4 0x104).2 = .ok 0x900000101) := by decide +kernel

theorem witness_DebugCommands_5 :
    let s := stopped 0 0 0x200
    s.calm = true ∧ ((dbBegun s 7).store 7 4 false 0x200 (s.rget Reg.DB_DATA)).2 = .ok := by decide +kernel

theorem witness_DebugCommands_6 :
    let s := stopped 0 0 0x200
    let r := (dbBegun s 8).coreRead 0 false (0x200 / 4)
    let w := (dbBegun s 9).coreWrite 0 (0x200 / 64) false [(0x200 / 4 % 16, 15, s.rget Reg.DB_DATA)]
    s.calm = true ∧ s.halted 0 = true ∧ s.dbGuarded 7 = false ∧ (dbBegun s 8).dbReach 0 0x200 1 = true ∧
      r.2 = .ok (BitVec.ofNat 36 (0x900000000 + 512)) ∧ (dbBegun s 9).dbReach 0 0x200 2 = true ∧
      (dbBegun s 9).pageBars none 0x200 = false ∧ w.2 = .ok () := by
  decide +kernel

theorem witness_DebugCommands_diag :
    (let s := (up.fset Reg.DB_RES_DONE 1).fset (Reg.LS_STAT_STATE 23) lsFenced
     s.calm = true ∧ s.diagAllowed = true ∧ s.fbit Reg.DB_RES_DONE = true ∧ 23 < 24 ∧ s.pairState 23 = lsFenced ∧
       s.pairState 0 ≠ lsFenced ∧ s.pairState 0 ≠ lsHalf) ∧
    (let s := up.fset Reg.RK_PSTAT_LC 2
     s.calm = true ∧ s.diagAllowed = false) := by decide +kernel

/-- A part in the field that has run to its image. -/
def field (lc : Nat) : State := up.fset Reg.RK_PSTAT_LC lc

theorem witness_TestPort :
    (up.settled = true ∧ up.pinsFree = true ∧ (field 2).settled = true ∧ (field 2).pinsFree = false) ∧
    ((field 2).gateShut = true ∧ (field 2).diagAllowed = false) ∧
    up.gateShut = false ∧ up.diagAllowed = true ∧ (6 : BitVec 12).toNat < 7 ∧ (0 : BitVec 12).toNat < 7 ∧ 7 ≤ (7 : BitVec 12).toNat ∧
    (8 : BitVec 12).toNat = 8 := by decide +kernel

/-- Credential 63 of the maker, its secret 5; the challenge has been captured. -/
def proving (role : Nat) : State :=
  let s := State.reset.setTap { State.reset.tap with ir := 0x11, fails := 2 }
  { s with dict := { s.dict with creds := [(63, some { credOf 1 with role := role })] } }

theorem witness_TestPort_dbgauth :
    (up.settled = true ∧ up.boot.rom = false) ∧
    (∀ role, role = 1 ∨ role = 3 →
      let s := proving role
      s.settled = true ∧ s.boot.rom = true ∧ s.tap.fails < 3 ∧ Tab.get none s.dict.creds 63 = some { credOf 1 with role := role } ∧
        Tab.get none s.dict.creds 0 = none) ∧
    ({ credOf 1 with role := 1 } : Cred).role ≠ 3 ∧ ({ credOf 1 with role := 3 } : Cred).role = 3 := by
  refine ⟨by decide +kernel, ?_, by decide +kernel, rfl⟩
  rintro role (rfl | rfl) <;> decide +kernel


/-! ## The queue, held parts, the invariant -/

theorem witness_StepRunsFrontCommand :
    ({ up with pending := [.flush, .idcode] } : State).pending = .flush :: [.idcode] := by decide +kernel

theorem witness_IdleStepIsOneCycle :
    (up.pending = [] ∧ up.running = true) ∧
    (let s := State.reset.setPow { State.reset.pow with hold := .por }
     s.pending = [] ∧ s.running = false) := by decide +kernel

theorem witness_HeldPartDoesNothing :
    (State.reset.setPow { State.reset.pow with hold := .failed }).running = false ∧
    (State.reset.setPow { State.reset.pow with testen := true }).running = false ∧
    commandBlock .epochBoundary = some .angle ∧ State.reset.released .angle = false := by decide +kernel

theorem witness_StepKeepsCanonical :
    let s : State := { State.reset with pending := [.idcode] }
    s.canonical = true ∧ step s = .next (State.reset.actAlways runIdcode) := ⟨by decide +kernel, rfl⟩


/-! ## Ill-formed commands are refused -/

def frame14 (len : Nat) : Frame :=
  { dst := 1, src := 2, tag := none, etype := 0x88B8, red := .none, len := len, fcsOk := true, payload := .other,
    octets := List.replicate 14 0 }

def irig (day : Nat) (x : Option IrigExt) : IrigFrame :=
  { good := true, year := none, day := day, hour := 23, minute := 59, second := 60, ext := x }

theorem test_wf_address :
    (Instr.registerWrite (req .m) (2 ^ 36 - 1) 0 0).wf = true ∧ (Instr.registerWrite (req .m) (2 ^ 36) 0 0).wf = false ∧
    (Instr.rcRead (req .m) (2 ^ 36) 0).wf = false := by decide

theorem test_wf_nominal : (Instr.clockMonitorWindow .core 5 0 false).wf = false := by decide

theorem test_wf_irig :
    (Instr.irigBFrame (irig 366 none)).wf = true ∧ (Instr.irigBFrame (irig 367 none)).wf = false ∧
    (Instr.irigBFrame (irig 1 (some ⟨32, 0, false, false⟩))).wf = false := by decide

theorem test_wf_wrh :
    (Instr.wrh 13 0 [(0, 1), (15, 2)] none).wf = true ∧ (Instr.wrh 13 0 [(3, 1), (3, 2)] none).wf = false ∧
    (Instr.wrh 13 0 [] none).wf = false := by decide

theorem test_wf_lists :
    (Instr.reconcileComplete 0 [5, 5]).wf = false ∧ (Instr.measureComplete 0 [(1, 2, 3)]).wf = false ∧
    (Instr.retrainingPause 0 0 [(1, -1)]).wf = false ∧ (Instr.extest [(.other 3, true), (.other 3, false)]).wf = false ∧
    (Instr.samplePreload [(.other 3, true), (.other 3, true)]).wf = false := by decide

theorem test_wf_frame :
    (Instr.frameReceived 0 (frame14 14)).wf = true ∧ (Instr.frameReceived 0 (frame14 15)).wf = false := by decide +kernel

theorem test_wf_bind :
    (Instr.outputBindStore (req .m) 0 511 0).wf = true ∧ (Instr.outputBindStore (req .m) 1 64 0).wf = false ∧
    (Instr.outputBindStore (req .m) 2 8 0).wf = false := by decide

theorem test_wf_lengths :
    (Instr.write { tr := .udp 0, sid := 0, seq := 0, conf := false, tagOk := true, trailer := 0 } 0x200 0 0 0 false
      (List.replicate 1392 0)).wf = false ∧
    (Instr.inboundWrite 0 .mem .bar2 0 (List.replicate 257 none)).wf = false := by decide +kernel

theorem test_wf_domain :
    (Instr.pmOn (req .m) 86).wf = true ∧ (Instr.pmOn (req .m) 87).wf = false ∧ (Instr.pmClkoff (req .m) 87).wf = false ∧
    (Instr.pmOff (req .m) 87).wf = false := by decide

/-! ## The spec's worked examples -/

/-- The call example of spec/04_keang36_instruction_set.md and two words of that of spec/05_signal_extensions.md. -/
theorem test_example_words :
    encJ 0o34 ⟨31, 512⟩ = 0o347600001000#36 ∧ encI 0o02 ⟨24, 19, 0⟩ = 0o026114000000#36 ∧
    encI 0o36 ⟨16, 24, 0⟩ = 0o364140000000#36 ∧ encI 0o35 ⟨0, 15, 0⟩ = 0o350074000000#36 ∧
    encI 0o41 ⟨0, 0, 0⟩ = 0o410000000000#36 ∧ encR 0o45 0o001 ⟨16, 0, 0, 0⟩ = 0o454000000100#36 := by decide +kernel

/-- The sealed word of 1, its repair, and its poisoned form (the example of spec/09_caches_coherence.md). -/
theorem test_example_sealed :
    sealWord 1 = BitVec.ofNat 48 (0o3750 * 2 ^ 36 + 1) ∧
    readSealed (BitVec.ofNat 48 (0o3750 * 2 ^ 36 + 0o2401)) = .corrected 1 5 ∧
    poisonWord 1 = BitVec.ofNat 48 (0o1440 * 2 ^ 36 + 1) ∧ readSealed (poisonWord 1) = .poison := by decide +kernel

/-- Line 21,913,025 of six channels with two ranks of 16 Gb each, GRAIN 6 (the example of spec/11_dram_controller.md). -/
theorem test_example_map :
    ((((State.reset.rset Reg.MC_MAP 63).fset Reg.MC_MAP_GRAIN 6).fset Reg.MC_MAP_DENS 1).fset Reg.MC_MAP_MRANKS 1).mapLine 21913025 =
      some { ch := 1, rank := 0, cl := 3652161 } := by decide +kernel

/-- The words of the walk in the example of spec/08_memory_management.md. -/
theorem test_example_walk :
    readPte 1 false 0o000040004001 = .pointer 0o20002 false ∧ readPte 2 false 0o000040006201 = .pointer 0o20003 true ∧
    readPte 3 true 0o247134016307 = .leaf 16 (0o1234560000000) ∧
    vaIndex 0o000041234560 1 = 0 ∧ vaIndex 0o000041234560 2 = 2 ∧ vaIndex 0o000041234560 3 = 83 := by decide +kernel

/-- Resample set 40 of the example of spec/13_process_data_path.md. -/
theorem test_example_resample :
    let c : RsCfg := { ws := [0o030032764014, 0o000400100300] }
    c.sub = 12 ∧ c.ref = 2 ∧ c.n = 96 ∧ c.lag = 3 ∧ c.firstch = 0 ∧ c.hint = some 3 ∧ c.rlen = 192 ∧ c.nch = 8 ∧ c.stride = 256 := by
  decide +kernel

/-- The reading of PD_STAT in the example of spec/00_scope.md: an event in the cycle of the store. -/
theorem test_example_w1c :
    ((up.rset Reg.PD_STAT 1).regStore (req .m) 0 Reg.PD_STAT 1 1).rget Reg.PD_STAT = 3 ∧
    ((up.rset Reg.PD_STAT 3).regStore (req .m) 0 Reg.PD_STAT 3 0).rget Reg.PD_STAT = 0 := by decide +kernel

/-- Entry 7 of the example of spec/03_contexts_scheduler.md: N 96, OFF 32, turn 153, index 40; due at phase 6,991,872. -/
theorem test_example_due :
    let e : Entry := { Entry.free with trig := BitVec.ofNat 36 (2 + 95 * 2 ^ 3 + 32 * 2 ^ 15), next0 := BitVec.ofNat 36 (153 + 40 * 2 ^ 12) }
    e.n = 96 ∧ e.off = 32 ∧ e.nidx = 40 ∧ e.nturn = 153 ∧ angleReached ((153 * 2 ^ 24 + 6991872) * 2 ^ 36) e = true ∧
      angleReached ((153 * 2 ^ 24 + 6991871) * 2 ^ 36) e = false := by decide +kernel

/-! ## Small effects -/

/-- What a next state shows. -/
def shows {α : Type} (o : Host.Outcome State Fault Refusal) (f : State → α) : Option α :=
  match o with
  | .next t => some (f t)
  | _ => none

/-- The thread with two values in c1 and c2. -/
def with12 (a b : Word) : State := ((thr 0 0 0 true).setImg 0 17 a).setImg 0 18 b

theorem test_add_wraps :
    shows (exec (.add 0 ⟨3, 1, 2, 0⟩) (with12 0xFFFFFFFFF 2)) (fun t => (t.reg 0 3, t.img 0 0)) = some (1, 0x104) := by decide +kernel

theorem test_reserved_field_traps :
    shows (exec (.add 0 ⟨3, 1, 2, 1⟩) (with12 5 2)) (fun t => (t.reg 0 3, t.level 0)) = some (0x200, 1) := by decide +kernel

theorem test_sra_of_36 :
    shows (exec (.sra 0 ⟨3, 1, 2, 0⟩) (with12 0x800000000 36)) (fun t => t.reg 0 3) = some 0xFFFFFFFFF := by decide +kernel

theorem test_clz_of_0 : shows (exec (.clz 0 ⟨3, 1, 0, 0⟩) (with12 0 0)) (fun t => t.reg 0 3) = some 36 := by decide +kernel

theorem test_seth : shows (exec (.seth 0 ⟨3, 0, 0x3FFFF⟩) (with12 0 0)) (fun t => t.reg 0 3) = some 0xFFFFC0000 := by decide +kernel

/-- R134: by 0, and the most negative number by -1. -/
theorem test_division :
    shows (exec (.div 0 ⟨3, 1, 2, 0⟩) (with12 7 0)) (fun t => (t.await 0 (t.places 0 [3])).reg 0 3) = some 0xFFFFFFFFF ∧
    shows (exec (.rem 0 ⟨3, 1, 2, 0⟩) (with12 7 0)) (fun t => (t.await 0 (t.places 0 [3])).reg 0 3) = some 7 ∧
    shows (exec (.div 0 ⟨3, 1, 2, 0⟩) (with12 0x800000000 0xFFFFFFFFF)) (fun t => (t.await 0 (t.places 0 [3])).reg 0 3) =
      some 0x800000000 ∧
    shows (exec (.rem 0 ⟨3, 1, 2, 0⟩) (with12 0xFFFFFFFF9 2)) (fun t => (t.await 0 (t.places 0 [3])).reg 0 3) = some 0xFFFFFFFFF := by
  decide +kernel

/-- The word at 0x104 is 0x900000101. -/
theorem test_ldw : shows (exec (.ldw 0 ⟨3, 1, 0⟩) (thr 0 0 0 true)) (fun t => t.reg 0 3) = some 0x900000101 := by decide +kernel

theorem test_cas_differs :
    shows (exec (.cas 0 ⟨2, 1, 3, 0⟩) (thr 0 0 0 true)) (fun t => (t.reg 0 2, t.l2Word 0 0x104)) =
      some (0x900000101, some 0x900000101) := by decide +kernel

theorem test_write_c0_is_discarded :
    shows (exec (.addi 0 ⟨0, 1, 5⟩) (thr 0 0 0 true)) (fun t => (t.reg 0 0, t.img 0 0)) = some (0, 0x104) := by decide +kernel

theorem test_save_moves_the_window :
    shows (exec (.save 0 ⟨16, 24, 0⟩) (((thr 0 0 0 true).setReg 0 24 77).setReg 0 16 5)) (fun t => (t.reg 0 16, t.reg 0 8)) =
      some (77, 77) := by decide +kernel

theorem test_alloc :
    shows (exec (.alloc 0 5 1) up) (fun t => ((t.entry 0).state, (t.entry 0).classG, t.fget (Reg.SC_RESULT_CTX 0))) = some (stIdle, true, 0) := by decide +kernel

theorem test_idle_cycle :
    shows (step up) (fun t => (t.cyc, t.tb)) = some (1, up.fget Reg.AN_TB_INC_INC) := by decide +kernel

theorem test_temperature_of_125 :
    shows (exec (.sensorRead 3 500) up) (fun t => (t.pow.hold, t.fget Reg.PM_RSTC_CAUSE)) = some (.thermal, 5) := by decide +kernel

theorem test_idcode : shows (exec .idcode State.reset) State.captureDr = some 0x13640B47 := by decide +kernel

end Sys2Proof.Tests
end

/-! PROOF. O35: what a store and hardware leave of a W1C flag and its MORE bit in one cycle (R10 to R12). A store and a hardware set each
fold over the fields of the register; read bit by bit, the store clears where it writes 1 and hardware adds the bits it sets, whatever the
order of the fields. That no two parts of a flag share a bit is a fact about the register maps. -/

namespace Sys2Proof.Machine

/-! ## One bit of a stored word -/

/-- Bit `j` lies in the field. -/
abbrev FieldSpec.Covers (f : FieldSpec) (j : Nat) : Prop := f.lo ≤ j ∧ j < f.lo + f.width

/-- Bit `j` lies in the field's MORE companion. -/
abbrev FieldSpec.MoreCovers (f : FieldSpec) (j : Nat) : Prop := f.more < 36 ∧ f.more ≤ j ∧ j < f.more + f.width

/-- Hardware sets `hw` of the flags of the field make bit `j` 1, where the register held `old`: as a bit of a flag, or as the MORE bit of
one that was 1 (R11). -/
def FieldSpec.SetsBit (old hw : Word) (j : Nat) (f : FieldSpec) : Prop :=
  f.acc = .w1c ∧ (f.Covers j ∧ bitAt hw j = true ∨
    f.MoreCovers j ∧ bitAt hw (f.lo + (j - f.more)) = true ∧ bitAt old (f.lo + (j - f.more)) = true)

/-- Bit `j` of a word with a field replaced. -/
theorem bitAt_setBits (w : Word) (lo n v : Nat) {j : Nat} (hj : j < 36) :
    bitAt (setBits w lo n v) j = if lo ≤ j ∧ j < lo + n then v.testBit (j - lo) else bitAt w j := by
  simp only [bitAt, getLsbD_setBits, hj, true_and]

/-- A bit of a field, by its place in the word. -/
theorem testBit_bits_sub (w : Word) {lo n j : Nat} (h : lo ≤ j ∧ j < lo + n) : (bits w lo n).testBit (j - lo) = bitAt w j := by
  have hn : j - lo < n := by omega
  simp [testBit_bits, hn, Nat.add_sub_cancel' h.1, bitAt]

/-- What one field makes of a bit that it does not write as RW. -/
theorem bitAt_storeField (refused : Bool) (is : List Nat) (old new acc : Word) {f : FieldSpec} {j : Nat} (hj : j < 36)
    (hrw : f.acc = .rw → ¬ f.Covers j) :
    bitAt (storeField refused is old new acc f) j =
      if f.acc = .w1c ∧ f.Covers j then bitAt old j && !bitAt new j else bitAt acc j := by
  unfold storeField
  cases hacc : f.acc with
  | rw =>
    dsimp only
    split
    · simp
    · rw [bitAt_setBits _ _ _ _ hj, if_neg (hrw hacc)]; simp
  | w1c =>
    rw [bitAt_setBits _ _ _ _ hj]
    by_cases hc : f.Covers j
    · rw [if_pos hc, testBit_bits_sub _ hc, if_pos ⟨rfl, hc⟩]
      simp [bitAt, hj]
    · rw [if_neg hc, if_neg fun h => hc h.2]
  | ro => simp
  | wo => simp
  | rc => simp

/-- A bit that a W1C field holds and no RW field does is cleared by a store of 1 and by nothing else. -/
theorem bitAt_foldl_storeField (refused : Bool) (is : List Nat) (old new : Word) {j : Nat} (hj : j < 36) (fs : List FieldSpec)
    (hrw : ∀ f ∈ fs, f.acc = .rw → ¬ f.Covers j) (acc : Word) :
    bitAt (fs.foldl (storeField refused is old new) acc) j =
      if ∃ f ∈ fs, f.acc = .w1c ∧ f.Covers j then bitAt old j && !bitAt new j else bitAt acc j := by
  induction fs generalizing acc with
  | nil => simp
  | cons f fs ih =>
    rw [List.foldl_cons, ih (fun g hg => hrw g (List.mem_cons_of_mem f hg)),
      bitAt_storeField _ _ _ _ _ hj (hrw f List.mem_cons_self)]
    by_cases hf : f.acc = .w1c ∧ f.Covers j
    · rw [if_pos hf, ite_self, if_pos ⟨f, List.mem_cons_self, hf⟩]
    · rw [if_neg hf]
      simp only [List.exists_mem_cons_iff, hf, false_or]

/-- Hardware sets of one field add the bits they set. -/
theorem bitAt_hwField (old hw acc : Word) (f : FieldSpec) {j : Nat} (hj : j < 36) :
    bitAt (hwField old hw acc f) j = true ↔ bitAt acc j = true ∨ f.SetsBit old hw j := by
  unfold hwField FieldSpec.SetsBit
  cases hacc : f.acc with
  | w1c =>
    have hflag : bitAt (setBits acc f.lo f.width (bits acc f.lo f.width ||| bits hw f.lo f.width)) j = true ↔
        bitAt acc j = true ∨ f.Covers j ∧ bitAt hw j = true := by
      rw [bitAt_setBits _ _ _ _ hj]
      by_cases hc : f.Covers j
      · rw [if_pos hc, Nat.testBit_or, testBit_bits_sub _ hc, testBit_bits_sub _ hc, and_iff_right hc, Bool.or_eq_true]
      · rw [if_neg hc]; simp [hc]
    dsimp only
    generalize setBits acc f.lo f.width _ = flagged at hflag ⊢
    by_cases hm : f.more < 36
    · rw [if_pos hm, bitAt_setBits _ _ _ _ hj]
      by_cases hc : f.more ≤ j ∧ j < f.more + f.width
      · have hi : j - f.more < f.width := by omega
        have hmore : f.MoreCovers j := ⟨hm, hc⟩
        rw [if_pos hc, Nat.testBit_or, testBit_bits_sub _ hc, Nat.testBit_and, testBit_bits, testBit_bits, Bool.or_eq_true, hflag]
        simp [and_iff_right hmore, hi, bitAt, or_assoc]
      · have hmore : ¬ f.MoreCovers j := fun h => hc h.2
        rw [if_neg hc, hflag]; simp [hmore]
    · have hmore : ¬ f.MoreCovers j := fun h => hm h.1
      rw [if_neg hm, hflag]; simp [hmore]
  | _ => simp

/-- Hardware sets of a register's fields add the bits they set. -/
theorem bitAt_foldl_hwField (old hw : Word) {j : Nat} (hj : j < 36) (fs : List FieldSpec) (acc : Word) :
    bitAt (fs.foldl (hwField old hw) acc) j = true ↔ bitAt acc j = true ∨ ∃ f ∈ fs, f.SetsBit old hw j := by
  induction fs generalizing acc with
  | nil => simp
  | cons f fs ih => rw [List.foldl_cons, ih, bitAt_hwField old hw acc f hj, List.exists_mem_cons_iff, or_assoc]

/-- A bit of a W1C field after a store of `v` with hardware sets `hw`: it stays where `v` has 0 there, and hardware's sets come after. -/
theorem State.bitAt_storedWord (s : State) (level : Level) {a : PWord} (v hw : Word) {r : RegArr} {is : List Nat} {j : Nat}
    (hr : regAt a = some (r, is)) (hj : j < 36) (hrw : ∀ g ∈ r.fields, g.acc = .rw → ¬ g.Covers j)
    (hw1c : ∃ g ∈ r.fields, g.acc = .w1c ∧ g.Covers j) :
    bitAt (s.storedWord level a v hw) j = true ↔
      bitAt (s.rget a) j = true ∧ bitAt v j = false ∨ ∃ g ∈ r.fields, g.SetsBit (s.rget a) hw j := by
  unfold State.storedWord
  simp only [hr]
  rw [bitAt_foldl_hwField _ _ hj, bitAt_foldl_storeField _ _ _ _ hj _ hrw, if_pos hw1c]
  simp

/-! ## Where the register maps place flags and their MORE bits -/

/-- A flag and its MORE bits lie in the word, MORE within a W1C field of its own; no RW field holds any of these bits, no MORE bit is
itself a flag with a MORE bit, and no two flags share one. -/
abbrev RegArr.FlagLayout (r : RegArr) : Prop :=
  ∀ f ∈ r.fields, f.acc = .w1c → f.more < 36 →
    f.lo + f.width ≤ 36 ∧ f.more + f.width ≤ 36 ∧
    (∃ m ∈ r.fields, m.acc = .w1c ∧ m.lo ≤ f.more ∧ f.more + f.width ≤ m.lo + m.width) ∧
    (∀ g ∈ r.fields, g.acc = .rw →
      (g.lo + g.width ≤ f.lo ∨ f.lo + f.width ≤ g.lo) ∧ (g.lo + g.width ≤ f.more ∨ f.more + f.width ≤ g.lo)) ∧
    (∀ g ∈ r.fields, g.acc = .w1c → g.more < 36 →
      (g.more + g.width ≤ f.lo ∨ f.lo + f.width ≤ g.more) ∧
      (g.more = f.more ∧ g.lo = f.lo ∨ g.more + g.width ≤ f.more ∨ f.more + f.width ≤ g.more))

/-- The map that a lookup of a block finds, if any, lays out the flags of each of its registers so. -/
def MapLaidOut (found : Option (List RegArr × Nat)) : Prop := ∀ p, found = some p → ∀ r ∈ p.1, r.FlagLayout

theorem mapLaidOut_ite {c : Prop} [Decidable c] {m : List RegArr} {base : Nat} {found : Option (List RegArr × Nat)}
    (hrest : MapLaidOut found) (hm : ∀ r ∈ m, r.FlagLayout) : MapLaidOut (if c then some (m, base) else found) := by
  refine iteInduction (fun _ => ?_) fun _ => hrest
  rintro p ⟨⟩
  exact hm

/-- The maps of the blocks lay out their flags so: a finite check of each map. -/
theorem blockOf_mapLaidOut (a : Nat) : MapLaidOut (blockOf a) := by
  unfold blockOf
  repeat refine mapLaidOut_ite ?_ ?_
  · rintro p ⟨⟩
  all_goals decide +kernel

theorem findReg_mem {m : List RegArr} {o : Nat} {r : RegArr} {is : List Nat} (h : findReg m o = some (r, is)) : r ∈ m := by
  induction m with
  | nil => cases h
  | cons x m ih =>
    unfold findReg at h
    split at h
    · cases h; exact List.mem_cons_self
    · exact List.mem_cons_of_mem x (ih h)

theorem flagLayout_of_regAt {a : PWord} {r : RegArr} {is : List Nat} (h : regAt a = some (r, is)) : r.FlagLayout := by
  unfold regAt at h
  split at h
  · rename_i m base hb
    exact blockOf_mapLaidOut a (m, base) hb r (findReg_mem h)
  · cases h

/-! ## A flag and its MORE bit -/

section
variable {a : PWord} {r : RegArr} {is : List Nat} {f : FieldSpec} {i : Nat}
variable (hr : regAt a = some (r, is)) (hf : f ∈ r.fields) (hacc : f.acc = .w1c) (hm : f.more < 36) (hi : i < f.width)
include hr hf hacc hm hi

/-- Bit `i` of a flag after a store: hardware's set wins, and else the store clears it where it writes 1 (R10). -/
theorem State.storedWord_flagBit (s : State) (level : Level) (v hw : Word) :
    bitAt (s.storedWord level a v hw) (f.lo + i) = (bitAt hw (f.lo + i) || bitAt (s.rget a) (f.lo + i) && !bitAt v (f.lo + i)) := by
  obtain ⟨hlo, -, -, hrw, hmore⟩ := flagLayout_of_regAt hr f hf hacc hm
  have hsets : (∃ g ∈ r.fields, g.SetsBit (s.rget a) hw (f.lo + i)) ↔ bitAt hw (f.lo + i) = true := by
    constructor
    · rintro ⟨g, hg, hgacc, ⟨-, hset⟩ | ⟨⟨hgm, hge, hlt⟩, -⟩⟩
      · exact hset
      · have := (hmore g hg hgacc hgm).1
        omega
    · exact fun hset => ⟨f, hf, hacc, .inl ⟨by omega, hset⟩⟩
  rw [Bool.eq_iff_iff, State.bitAt_storedWord s level v hw hr (by omega)
    (fun g hg hgrw => by have := (hrw g hg hgrw).1; omega) ⟨f, hf, hacc, by omega⟩, hsets]
  simp [or_comm]

/-- The MORE bit of bit `i` of a flag after a store: hardware sets it itself, or by a set of the flag where that was 1 (R11), and else the
store clears it where it writes 1 at MORE, whatever it writes at the flag (R12). -/
theorem State.storedWord_moreBit (s : State) (level : Level) (v hw : Word) :
    bitAt (s.storedWord level a v hw) (f.more + i) =
      (bitAt hw (f.more + i) || bitAt hw (f.lo + i) && bitAt (s.rget a) (f.lo + i) ||
        bitAt (s.rget a) (f.more + i) && !bitAt v (f.more + i)) := by
  obtain ⟨-, hhi, ⟨m, hmem, hmacc, hmlo, hmhi⟩, hrw, hmore⟩ := flagLayout_of_regAt hr f hf hacc hm
  have hsets : (∃ g ∈ r.fields, g.SetsBit (s.rget a) hw (f.more + i)) ↔
      bitAt hw (f.more + i) = true ∨ bitAt hw (f.lo + i) = true ∧ bitAt (s.rget a) (f.lo + i) = true := by
    constructor
    · rintro ⟨g, hg, hgacc, ⟨-, hset⟩ | ⟨⟨hgm, hge, hlt⟩, hset⟩⟩
      · exact .inl hset
      · obtain ⟨hgmore, hglo⟩ : g.more = f.more ∧ g.lo = f.lo := by
          have := (hmore g hg hgacc hgm).2
          omega
        rw [hgmore, hglo, Nat.add_sub_cancel_left] at hset
        exact .inr hset
    · rintro (hset | hset)
      · exact ⟨m, hmem, hmacc, .inl ⟨by omega, hset⟩⟩
      · exact ⟨f, hf, hacc, .inr ⟨by omega, by rwa [Nat.add_sub_cancel_left]⟩⟩
  rw [Bool.eq_iff_iff, State.bitAt_storedWord s level v hw hr (by omega)
    (fun g hg hgrw => by have := (hrw g hg hgrw).2; omega) ⟨m, hmem, hmacc, by omega⟩, hsets]
  simp [or_comm]

end

/-- A one-bit field reads as its bit. -/
theorem State.fbit_eq_bitAt (s : State) {f : Field} (h : f.width = 1) : s.fbit f = bitAt (s.rget f.addr) f.lo := by
  rw [State.fbit, State.fget, h, bitAt_eq_bits]

/-- An event of hardware whose flag is 1 writes its MORE bit alone. -/
theorem State.flag_of_one {s : State} {f : Field} {i : Nat} (more : Field) (h : bitAt (s.rget f.addr) (f.lo + i) = true) :
    s.flag f more i = s.rset more.addr (setBits (s.rget more.addr) (more.lo + i) 1 1) := if_pos h

/-- An event of hardware whose flag is 0 writes the flag alone. -/
theorem State.flag_of_zero {s : State} {f : Field} {i : Nat} (more : Field) (h : bitAt (s.rget f.addr) (f.lo + i) = false) :
    s.flag f more i = s.rset f.addr (setBits (s.rget f.addr) (f.lo + i) 1 1) := if_neg (by simp [h])

/-- An event of hardware sets its flag; its MORE bit is 1 afterwards where the flag was 1, and as before where it was 0 (R11). -/
theorem State.flagged_flag (s : State) {f more : Field} (hf : f.width = 1) (hm : more.width = 1) (ha : f.addr = more.addr)
    (hne : f.lo ≠ more.lo) (hflo : f.lo < 36) (hmlo : more.lo < 36) : s.flagged (s.flag f more) f more := by
  refine ⟨?_, fun h1 => ?_, fun h0 => ?_⟩
  · rw [State.fbit_eq_bitAt _ hf]
    exact State.bitAt_flag s (i := 0) ha hne hflo
  · rw [State.fbit_eq_bitAt _ hf] at h1
    rw [State.fbit_eq_bitAt _ hm, State.flag_of_one (i := 0) more h1, State.rget_rset_same]
    exact bitAt_setBits_one _ hmlo
  · rw [State.fbit_eq_bitAt _ hf] at h0
    rw [State.flag_of_zero (i := 0) more h0, State.fget, State.fget, ← ha, State.rget_rset_same]
    exact bits_setBits_other _ _ (by omega)

/-- Settles O35: each clause is read off the bit that a store leaves of the flag and of its MORE bit. -/
theorem flagRules : Obligations.FlagRules := by
  unfold Obligations.FlagRules
  refine ⟨?_, fun s f more hf hm ha hne hflo hmlo => s.flagged_flag hf hm ha hne hflo hmlo⟩
  rintro s level a v hw r is f i _ hr hf hacc hm hi rfl
  rw [s.storedWord_flagBit hr hf hacc hm hi, s.storedWord_moreBit hr hf hacc hm hi]
  refine ⟨?_, ?_, ?_, ?_, ?_, ?_⟩
  · intro hset; simp [hset]
  · intro hset hold; simp [hset, hold]
  · intro hno hkeep; simp [hno, hkeep]
  · intro hno hclear; simp [hno, hclear]
  · intro hno hnoMore hkeep; simp [hno, hnoMore, hkeep]
  · intro hset; simp [hset]

end Sys2Proof.Machine

/-! PROOF. O13: division issues a long operation and raises no fault (R133, R134). A ready slot issues its instruction in this cycle without
a hold, so the command is the instruction's operation on the slot as it has issued; a long operation in flight leaves every register as it
was, whatever the performance counters count. The quotients and remainders of R134 are then facts about two words. -/

namespace Sys2Proof.Machine

/-! ## A table written twice at one key -/

theorem Tab.insert_insert {α : Type} (t : Tab α) (x : Nat) (v w : α) : Tab.insert (Tab.insert t x v) x w = Tab.insert t x w := by
  induction t with
  | nil => simp [Tab.insert]
  | cons e t ih =>
    obtain ⟨k, u⟩ := e
    by_cases hlt : x < k
    · simp [Tab.insert, hlt]
    · by_cases heq : x = k
      · simp [Tab.insert, heq]
      · simp [Tab.insert, hlt, heq, ih]

theorem Tab.erase_insert {α : Type} (t : Tab α) (x : Nat) (v : α) : Tab.erase (Tab.insert t x v) x = Tab.erase t x := by
  induction t with
  | nil => simp [Tab.insert, Tab.erase]
  | cons e t ih =>
    obtain ⟨k, u⟩ := e
    by_cases hlt : x < k
    · simp [Tab.insert, hlt, Tab.erase]
    · by_cases heq : x = k
      · simp [Tab.insert, heq, Tab.erase]
      · simp [Tab.insert, hlt, heq, Tab.erase, Ne.symm heq, ih]

/-- The later of two writes counts alone, where the first one is listed. -/
theorem Tab.set_set {α : Type} [DecidableEq α] {d : α} (t : Tab α) (x : Nat) {v : α} (w : α) (hv : v ≠ d) :
    Tab.set d (Tab.set d t x v) x w = Tab.set d t x w := by
  simp only [Tab.set, if_neg hv, Tab.erase_insert, Tab.insert_insert]

/-! ## Slots and images: what is read after a write -/

@[simp] theorem State.slot_setSlot_same (s : State) (i : Nat) (x : Slot) : (s.setSlot i x).slot i = x := Tab.get_set_same _ _ _ _

theorem State.slot_setSlot_other (s : State) {i j : Nat} (x : Slot) (h : i ≠ j) : (s.setSlot i x).slot j = s.slot j :=
  Tab.get_set_other _ _ _ _ h

theorem State.setSlot_setSlot (s : State) (i : Nat) {x : Slot} (y : Slot) (hx : x ≠ Slot.empty) :
    (s.setSlot i x).setSlot i y = s.setSlot i y := by
  simp only [State.setSlot, Tab.set_set _ _ _ hx]

@[simp] theorem State.img_setSlot (s : State) (i j w : Nat) (x : Slot) : (s.setSlot i x).img j w = s.img j w := rfl
@[simp] theorem State.entry_setSlot (s : State) (i c : Nat) (x : Slot) : (s.setSlot i x).entry c = s.entry c := rfl
@[simp] theorem State.slot_setImg (s : State) (i j w : Nat) (v : Word) : (s.setImg i w v).slot j = s.slot j := rfl

@[simp] theorem State.img_setImg_same (s : State) (i w : Nat) (v : Word) : (s.setImg i w v).img i w = v := Tab.get_set_same _ _ _ _

theorem State.img_setImg_word (s : State) (i : Nat) {w x : Nat} (v : Word) (h : w ≠ x) : (s.setImg i w v).img i x = s.img i x :=
  Tab.get_set_other _ _ _ _ (by omega)

theorem State.img_setImg_slot (s : State) {i j w x : Nat} (v : Word) (h : i ≠ j) (hw : w < 256) (hx : x < 256) :
    (s.setImg i w v).img j x = s.img j x :=
  Tab.get_set_other _ _ _ _ (by omega)

/-! ## The counters of a core (R202 to R206) -/

/-- Two states that differ in nothing but the counters of the cores and their control registers. -/
def State.sameButCounters (s t : State) : Prop := t = { s with core := { s.core with pmc := t.core.pmc, pmr := t.core.pmr } }

theorem State.sameButCounters_trans {s t u : State} (h : s.sameButCounters t) (k : t.sameButCounters u) : s.sameButCounters u := by
  unfold State.sameButCounters at *
  rw [k, h]

theorem State.sameButCounters_setPmr (s : State) (core k : Nat) (v : Word) : s.sameButCounters (s.setPmr core k v) := rfl

theorem State.sameButCounters_setPmc (s : State) (core j : Nat) (v : BitVec 72) : s.sameButCounters (s.setPmc core j v) := rfl

theorem State.sameButCounters_counterWraps (s : State) (i j : Nat) : s.sameButCounters (s.counterWraps i j) := by
  have hflag : s.sameButCounters ((s.setPmc (i / 8) j 0).setPmr (i / 8) 8 (flagWord (s.pmr (i / 8) 8) j (8 + j))) :=
    State.sameButCounters_trans (s.sameButCounters_setPmc _ _ _) (State.sameButCounters_setPmr _ _ _ _)
  unfold State.counterWraps
  dsimp only
  generalize (s.setPmc (i / 8) j 0).setPmr (i / 8) 8 _ = t at hflag
  split
  · exact hflag
  · split
    · exact State.sameButCounters_trans hflag (t.sameButCounters_setPmr _ _ _)
    · exact State.sameButCounters_trans hflag
        (State.sameButCounters_trans (t.sameButCounters_setPmr _ _ _) (State.sameButCounters_setPmr _ _ _ _))

theorem State.sameButCounters_countOne (s : State) (i j : Nat) : s.sameButCounters (State.countOne i s j) := by
  unfold State.countOne
  dsimp only
  split
  · exact s.sameButCounters_counterWraps i j
  · exact s.sameButCounters_setPmc _ _ _

/-- Counting an event changes counters alone. -/
theorem State.sameButCounters_perfAt (s : State) (i lvl : Nat) (secure : Bool) (ev : Nat) :
    s.sameButCounters (s.perfAt i lvl secure ev) := by
  unfold State.perfAt
  split
  · rfl
  · generalize (List.range 8).filter _ = js
    induction js generalizing s with
    | nil => rfl
    | cons j js ih => exact State.sameButCounters_trans (s.sameButCounters_countOne i j) (ih _)

@[simp] theorem State.slot_perfAt (s : State) (i lvl : Nat) (secure : Bool) (ev j : Nat) :
    (s.perfAt i lvl secure ev).slot j = s.slot j := by
  rw [s.sameButCounters_perfAt i lvl secure ev]; rfl

@[simp] theorem State.img_perfAt (s : State) (i lvl : Nat) (secure : Bool) (ev j w : Nat) :
    (s.perfAt i lvl secure ev).img j w = s.img j w := by
  rw [s.sameButCounters_perfAt i lvl secure ev]; rfl

/-! ## The frame of an instruction that works on the registers of one slot -/

theorem Keeps.refl (s : State) (i : Nat) (p : Place) : Keeps s s i p :=
  ⟨rfl, rfl, fun _ _ => rfl, fun _ _ _ _ => rfl, fun _ _ _ _ _ _ => rfl, fun _ _ _ _ _ _ => rfl⟩

theorem Keeps.trans {s t u : State} {i : Nat} {p : Place} (h : Keeps s t i p) (k : Keeps t u i p) : Keeps s u i p := by
  obtain ⟨hcore, hsave, hslot, himg, hown, hwin⟩ := h
  obtain ⟨kcore, ksave, kslot, kimg, kown, kwin⟩ := k
  refine ⟨?_, ksave.trans hsave, fun j hj => (kslot j hj).trans (hslot j hj), fun j w hj hw => (kimg j w hj hw).trans (himg j w hj hw),
    fun w hw hpc hnpc hrun hp => (kown w hw hpc hnpc hrun hp).trans (hown w hw hpc hnpc hrun hp),
    fun j l k hl hk hp => (kwin j l k hl hk hp).trans (hwin j l k hl hk hp)⟩
  rw [kcore, hcore]

theorem keeps_setSlot (s : State) (i : Nat) (x : Slot) (p : Place) : Keeps s (s.setSlot i x) i p :=
  ⟨rfl, rfl, fun _ hj => s.slot_setSlot_other x hj.symm, fun _ _ _ _ => rfl, fun _ _ _ _ _ _ => rfl, fun _ _ _ _ _ _ => rfl⟩

theorem keeps_setImg (s : State) (i : Nat) {w : Nat} (v : Word) {p : Place} (hw : w < 256)
    (h : w = iwPc ∨ w = iwNpc ∨ w = iwRuncyc ∨ p = .img w) : Keeps s (s.setImg i w v) i p := by
  refine ⟨rfl, rfl, fun _ _ => rfl, fun j x hj hx => s.img_setImg_slot v hj.symm hw hx, fun x _ hpc hnpc hrun hp => ?_,
    fun _ _ _ _ _ _ => rfl⟩
  refine s.img_setImg_word i v ?_
  rintro rfl
  rcases h with h | h | h | h
  exacts [hpc h, hnpc h, hrun h, hp h]

theorem keeps_perfAt (s : State) (i lvl : Nat) (secure : Bool) (ev : Nat) (p : Place) : Keeps s (s.perfAt i lvl secure ev) i p := by
  have h := s.sameButCounters_perfAt i lvl secure ev
  rw [h]
  exact ⟨rfl, rfl, fun _ _ => rfl, fun _ _ _ _ => rfl, fun _ _ _ _ _ _ => rfl, fun _ _ _ _ _ _ => rfl⟩

/-- A register names the same storage in states that agree on STATUS and WCTL (R114, R117). -/
theorem State.place_congr {s t : State} {i : Nat} (hstatus : t.img i iwStatus = s.img i iwStatus)
    (hwctl : t.img i iwWctl = s.img i iwWctl) (r : BitVec 5) : t.place i r = s.place i r := by
  have hlevel : t.level i = s.level i := congrArg (bits · 0 2) hstatus
  have hcwp : t.cwp i = s.cwp i := congrArg (bits · 0 3) hwctl
  unfold State.place State.trapMode
  rw [hlevel, hcwp, hwctl]

/-- Where a register may be held: nowhere, in a word of the image past the control words, or in a trap window (R68, R114, R117). -/
theorem State.place_cases (s : State) (i : Nat) (r : BitVec 5) :
    s.place i r = .zero ∨ (∃ w, 16 ≤ w ∧ w < 256 ∧ s.place i r = .img w) ∨ ∃ l k, l < 4 ∧ k < 8 ∧ s.place i r = .win l k := by
  have hl : s.level i < 4 := bits_lt _ _ _
  have hr := r.isLt
  unfold State.place ringWord
  dsimp only
  split
  · exact .inl rfl
  · split
    · exact .inr (.inl ⟨_, by omega, by omega, rfl⟩)
    · split
      · exact .inr (.inl ⟨_, by omega, by omega, rfl⟩)
      · split
        · split
          · exact .inr (.inr ⟨_, _, hl, by omega, rfl⟩)
          · exact .inr (.inl ⟨_, by omega, by omega, rfl⟩)
        · exact .inr (.inl ⟨_, by omega, by omega, rfl⟩)

section
variable {s t : State} {i : Nat} (h : Keeps s t i .zero)
include h

theorem Keeps.place (r : BitVec 5) : t.place i r = s.place i r := by
  obtain ⟨-, -, -, -, hown, -⟩ := h
  exact State.place_congr (hown iwStatus (by decide) (by decide) (by decide) (by decide) nofun)
    (hown iwWctl (by decide) (by decide) (by decide) (by decide) nofun) r

/-- An instruction that writes no register leaves every register as it was. -/
theorem Keeps.reg (r : BitVec 5) : t.reg i r = s.reg i r := by
  have hplace := h.place r
  obtain ⟨-, -, -, -, hown, hwin⟩ := h
  unfold State.reg
  rw [hplace]
  rcases s.place_cases i r with hz | ⟨w, hlo, hhi, himg⟩ | ⟨l, k, hl, hk, hw⟩
  · rw [hz]; rfl
  · rw [himg]
    exact hown w hhi (by unfold iwPc; omega) (by unfold iwNpc; omega) (by unfold iwRuncyc; omega) nofun
  · rw [hw]
    exact hwin i l k hl hk (.inr nofun)

end

/-! ## A command that changes the cores alone -/

/-- Nothing outside the cores waits for the effect of a command of the cores, or follows from it. -/
theorem State.act_withCore {s : State} {f : State → State} {c : CoreSt} (hs : s.calm = true) (hf : f s = { s with core := c }) :
    s.act .cores f = f s := by
  obtain ⟨hrun, -, hset⟩ := s.calm_iff.1 hs
  refine State.act_plain hrun (State.calm_released hs .cores) ?_ ?_ ?_ ?_
  · rw [hf]; exact hset
  · rw [hf]; exact id
  · rw [hf]; exact fun _ _ => rfl
  · rw [hf]; exact fun _ _ => id

/-! ## The two parts of an issue (R206, R208) -/

/-- The first issue of a class-D run sets RUNCYC to 0 (R208). -/
def State.runStarted (s : State) (i : Nat) : State :=
  if (s.slot i).first && !(s.entry ((s.slot i).ctx.getD 0)).classG then s.setImg i iwRuncyc 0 else s

/-- A slot whose instruction has issued in this cycle. -/
def State.issuedSlot (s : State) (i : Nat) (mem : Bool) : Slot :=
  { s.slot i with
    first := false, away := false, judged := s.cyc + 1, portAt := if mem then s.cyc + 1 else (s.slot i).portAt, hostUsed := 0,
    lastPc := s.img i iwPc, lastLvl := s.level i,
    retire := some { pc := s.img i iwPc, level := s.level i, kind := 0, target := 0, accs := [] } }

theorem State.startIssue_eq (s : State) (i : Nat) (mem : Bool) :
    s.startIssue i mem = (s.runStarted i).setSlot i (s.issuedSlot i mem) := rfl

theorem State.keeps_runStarted (s : State) (i : Nat) (p : Place) : Keeps s (s.runStarted i) i p := by
  unfold State.runStarted
  split
  · exact keeps_setImg s i 0 (by decide) (.inr (.inr (.inl rfl)))
  · exact Keeps.refl s i p

theorem State.img_runStarted (s : State) (i : Nat) {w : Nat} (hw : w ≠ iwRuncyc) : (s.runStarted i).img i w = s.img i w := by
  unfold State.runStarted
  split
  · exact s.img_setImg_word i 0 hw.symm
  · rfl

/-! ## A ready slot issues in this cycle -/

theorem State.ready_iff (s : State) (i : Nat) : s.ready i = true ↔
    s.mayIssue i = true ∧ (s.cyc % 8 = i % 8 ∧ (s.slot i).next ≤ s.cyc ∧ (s.slot i).judged ≤ s.cyc ∧ (s.slot i).portAt ≤ s.cyc) ∧
      (s.slot i).retire = none ∧ (s.slot i).hostData = [] ∧ s.tap.stepSlot ≠ some i ∧ (s.begun i).overBudget i = false ∧
      s.boundary i = none ∧ (s.slot i).hasWord (s.img i iwPc) = true := by
  simp only [State.ready, Bool.and_eq_true, decide_eq_true_eq, Option.isNone_iff_eq_none, List.isEmpty_iff, Bool.not_eq_true',
    and_assoc]

theorem State.mayIssue_ctx {s : State} {i : Nat} (h : s.mayIssue i = true) : ∃ c, (s.slot i).ctx = some c := by
  simp only [State.mayIssue, Bool.and_eq_true] at h
  obtain ⟨⟨⟨hctx, -⟩, -⟩, -⟩ := h
  exact Option.isSome_iff_exists.1 hctx

theorem State.mayIssue_ne_empty {s : State} {i : Nat} (h : s.mayIssue i = true) : s.slot i ≠ Slot.empty := by
  obtain ⟨c, hc⟩ := State.mayIssue_ctx h
  intro he
  rw [he] at hc
  cases hc

/-- No cycle passes before an issue cycle that has come. -/
theorem State.toCycle_now {s : State} {i m : Nat} (hc : s.cyc % 8 = i % 8) (hm : m ≤ s.cyc) : s.toCycle i m = s := by
  have hmax : Nat.max s.cyc m = s.cyc := Nat.max_eq_left hm
  have hwait : s.slotWait i m = 0 := by
    unfold State.slotWait
    rw [hmax]
    dsimp only
    omega
  rw [State.toCycle, hwait, State.pass]

theorem State.toIssue_ready {s : State} {i : Nat} (h : s.ready i = true) (mem : Bool) : s.toIssue i mem = s := by
  obtain ⟨-, ⟨hc, hnext, hjudged, hport⟩, -⟩ := (s.ready_iff i).1 h
  refine State.toCycle_now hc (Nat.max_le.2 ⟨Nat.max_le.2 ⟨hnext, hjudged⟩, ?_⟩)
  cases mem
  · exact Nat.zero_le _
  · exact hport

theorem State.flushRetire_none {s : State} {i : Nat} (h : (s.slot i).retire = none) : s.flushRetire i = s := by
  unfold State.flushRetire
  rw [h]

theorem State.loseTo_past (s : State) (i ev : Nat) {m : Nat} (h : m ≤ s.cyc) : s.loseTo i ev m = s := by
  have hn : (m - s.cyc + 7) / 8 = 0 := by omega
  rw [State.loseTo, hn, State.loseN]

/-- The budget of a run that has issued before is judged as it begins an instruction; a first issue finds none used (R96, R208). -/
theorem State.overBudget_of_begun {s : State} {i : Nat} (h : (s.begun i).overBudget i = false) : s.overBudget i = false := by
  cases hf : (s.slot i).first with
  | true =>
    unfold State.overBudget
    dsimp only
    split
    · rfl
    · simp [hf]
  | false =>
    rw [← h]
    simp [State.overBudget, State.begun, State.startIssue_eq, State.runStarted, State.issuedSlot, hf]

theorem State.fetchPc_hasWord {s : State} {i : Nat} (h : (s.slot i).hasWord (s.img i iwPc) = true) :
    s.fetchPc i = (s.setSlot i (s.slot i), .ok ()) := by
  unfold Slot.hasWord at h
  split at h
  · cases h
  · rename_i g gs hg
    simp only [Bool.and_eq_true, decide_eq_true_eq] at h
    obtain ⟨hgroup, hword⟩ := h
    have hwordAt : (s.slot i).wordAt (s.img i iwPc) = some (g.words.getD ((s.img i iwPc).toNat % 16 / 4) (.err 0)) := by
      simp [Slot.wordAt, hg, hgroup]
    have hmove : moveTo (fetchGroup (s.img i iwPc)) (s.slot i).fetch = (s.slot i).fetch := by
      simp [moveTo, hg, hgroup]
    unfold State.fetchPc
    dsimp only
    rw [hwordAt]
    dsimp only
    rw [hmove]
    split at hword
    · rename_i w hw
      rw [hw]; rfl
    · cases hword

/-- The conditions of a boundary event, in their order (R233). -/
theorem State.boundary_eq_none_iff (s : State) (i : Nat) :
    s.boundary i = none ↔ (s.slot i).ase = none ∧ s.parks i = false ∧ s.lineFor i = none ∧ s.counterFor i = none := by
  unfold State.boundary
  cases (s.slot i).ase <;> cases s.parks i <;> cases s.lineFor i <;> cases s.counterFor i <;> simp

/-! ### A slot written as it stands

The demand for the word at PC writes the slot as it stands, which changes nothing that an instruction sees. -/

section
variable (s : State) (i : Nat)

theorem State.overBudget_setSlot_self : (s.setSlot i (s.slot i)).overBudget i = s.overBudget i := by
  unfold State.overBudget
  rw [State.slot_setSlot_same]
  rfl

theorem State.boundary_setSlot_self : (s.setSlot i (s.slot i)).boundary i = none ↔ s.boundary i = none := by
  have hline : (s.setSlot i (s.slot i)).lineFor i = s.lineFor i := by
    unfold State.lineFor
    rw [State.slot_setSlot_same]
    rfl
  have hcounter : (s.setSlot i (s.slot i)).counterFor i = s.counterFor i := by
    unfold State.counterFor
    rw [State.slot_setSlot_same]
    rfl
  have hparks : (s.setSlot i (s.slot i)).parks i = s.parks i := by
    unfold State.parks
    rw [State.slot_setSlot_same]
    rfl
  rw [State.boundary_eq_none_iff, State.boundary_eq_none_iff, hline, hcounter, hparks, State.slot_setSlot_same]

theorem State.startIssue_setSlot_self (mem : Bool) (h : s.slot i ≠ Slot.empty) :
    (s.setSlot i (s.slot i)).startIssue i mem = s.startIssue i mem := by
  have hslot : (s.setSlot i (s.slot i)).issuedSlot i mem = s.issuedSlot i mem := by
    unfold State.issuedSlot
    rw [State.slot_setSlot_same]
    rfl
  have hrun : (s.setSlot i (s.slot i)).runStarted i = (s.runStarted i).setSlot i (s.slot i) := by
    unfold State.runStarted
    rw [State.slot_setSlot_same, State.entry_setSlot]
    split <;> rfl
  rw [State.startIssue_eq, State.startIssue_eq, hslot, hrun, State.setSlot_setSlot _ _ _ h]

/-- The instruction of a slot written back as it stands is the slot's. -/
theorem State.perform_setSlot_self (n : Insn) (op : State → Done) (h : s.slot i ≠ Slot.empty) :
    (s.setSlot i (s.slot i)).perform i n op = s.perform i n op := by
  unfold State.perform
  rw [s.startIssue_setSlot_self i n.mem h, State.slot_setSlot_same]
  rfl

end

/-- Without drain or wait for the operations in flight, an instruction whose places no operation in flight writes has no hold (R180). -/
theorem State.holds_clear {s : State} {i : Nat} {n : Insn} (hc : s.clear i n.deps = true) (hall : n.allOps = false)
    (hdrain : n.drains = false) : s.holds i n = (s, true) := by
  have hdue : dueOf n.deps (s.slot i).long ≤ s.cyc := of_decide_eq_true hc
  simp [State.holds, hall, hdrain, s.loseTo_past i 6 hdue]

/-- What a ready slot issues goes on to its checks and its operation at once (R183, R233, R234). -/
theorem State.issue_ready {s : State} {i : Nat} {n : Insn} (op : State → Done) (hr : s.ready i = true)
    (hc : s.clear i n.deps = true) (hall : n.allOps = false) (hdrain : n.drains = false) :
    s.issue i n op = (s.perform i n op).stepDone i := by
  obtain ⟨hmay, -, hret, hhost, -, hbud, hbound, hword⟩ := (s.ready_iff i).1 hr
  have hob := State.overBudget_of_begun hbud
  have hlate : s.tooLate i n.yields = false := by simp [State.tooLate, hob]
  have hlate' : (s.setSlot i (s.slot i)).tooLate i n.yields = false := by
    simp [State.tooLate, s.overBudget_setSlot_self i, hob]
  have hclear : (s.setSlot i (s.slot i)).clear i n.deps = true := by
    unfold State.clear
    rw [State.slot_setSlot_same]
    exact hc
  unfold State.issue
  rw [State.toIssue_ready hr, State.flushRetire_none hret]
  simp only [hmay, hlate, State.fetchPc_hasWord hword, State.holds_clear hclear hall hdrain, hlate', Bool.not_true, Bool.false_eq_true,
    if_false]
  unfold State.issueNow
  rw [State.slot_setSlot_same, if_pos hhost, (s.boundary_setSlot_self i).2 hbound]
  dsimp only
  rw [s.perform_setSlot_self i n op (State.mayIssue_ne_empty hmay)]

/-- An instruction of good fields that every level may use does its operation on the slot as it has issued (R124, R127, R162). -/
theorem State.perform_plain (s : State) (i : Nat) (w : Word) (deps : List Place) (op : State → Done) :
    s.perform i (plain w true deps) op = (op (s.begun i)).finish i (s.level i) (s.secureCtx i) := by
  have hperm : Perm.all.at_ (s.level i) = true := by
    unfold Perm.at_ Perm.all
    simp
  simp [State.perform, plain, hperm, State.begun]

theorem State.stepDone_other {s : State} {i : Nat} (h : s.tap.stepSlot ≠ some i) : s.stepDone i = s := if_neg h

/-! ## The slot as its instruction has issued, and its end -/

section
variable (s : State) (i : Nat) (mem : Bool)

theorem State.keeps_begun (p : Place) : Keeps s (s.begun i mem) i p :=
  (s.keeps_runStarted i p).trans (keeps_setSlot _ i _ p)

theorem State.img_begun {w : Nat} (hw : w ≠ iwRuncyc) : (s.begun i mem).img i w = s.img i w := s.img_runStarted i hw

@[simp] theorem State.long_begun : ((s.begun i mem).slot i).long = (s.slot i).long := by
  rw [State.begun, State.startIssue_eq, State.slot_setSlot_same, State.issuedSlot]

@[simp] theorem State.cyc_begun : (s.begun i mem).cyc = s.cyc := by
  rw [(s.keeps_begun i mem .zero).1]

end

theorem State.advanced_advance (s : State) (i : Nat) : Advanced s (s.advance i) i := by
  have hpc : iwNpc ≠ iwPc := by decide
  constructor
  · simp [State.advance, State.img_setImg_word _ _ _ hpc]
  · simp [State.advance]

theorem State.keeps_advance (s : State) (i : Nat) (p : Place) : Keeps s (s.advance i) i p :=
  ((keeps_setImg s i _ (by decide) (.inl rfl)).trans (keeps_setImg _ i _ (by decide) (.inr (.inl rfl)))).trans
    (keeps_setSlot _ i _ p)

section
variable (t : State) (i lvl : Nat) (secure : Bool)

/-- The end of an instruction that goes on to the next one changes counters, the slot, PC and NPC alone. -/
theorem Done.keeps_finish_next (p : Place) : Keeps t ((Done.next t).finish i lvl secure) i p :=
  ((keeps_perfAt t i lvl secure 2 p).trans (keeps_setSlot _ i _ p)).trans (State.keeps_advance _ i p)

theorem Done.advanced_finish_next : Advanced t ((Done.next t).finish i lvl secure) i := by
  obtain ⟨hpc, hnpc⟩ := State.advanced_advance ((t.perfAt i lvl secure 2).endStep i) i
  have himg : ((t.perfAt i lvl secure 2).endStep i).img i iwNpc = t.img i iwNpc := t.img_perfAt i lvl secure 2 i iwNpc
  rw [himg] at hpc hnpc
  exact ⟨hpc, hnpc⟩

theorem Done.long_finish_next : (((Done.next t).finish i lvl secure).slot i).long = (t.slot i).long := by
  simp [Done.finish, State.advance, State.endStep]

end

/-! ## Long operations (R133, R179) -/

/-- A plain instruction whose operation issues a long operation, on a ready slot none of whose operations in flight writes a place that it
names: the operation is in flight afterwards, and no register has changed (R179, R180). -/
theorem issuesLong_of_ready {c : Instr} {s : State} {f : State → State} {i n : Nat} {w : Word} {deps : List Place} {o : State → LongOp}
    (hexec : exec c s = .next (s.act .cores f)) (hf : f s = s.issue i (plain w true deps) fun u => .next (u.issueLong i n (o u)))
    (hs : s.calm = true) (hr : s.ready i = true) (hc : s.clear i deps = true) : IssuesLong c s i n (o (s.begun i)) := by
  let u := s.begun i
  let v := u.issueLong i n (o u)
  let t := (Done.next v).finish i (s.level i) (s.secureCtx i)
  have hv : Keeps s v i .zero := (s.keeps_begun i false .zero).trans (keeps_setSlot u i _ .zero)
  have ht : Keeps s t i .zero := hv.trans (Done.keeps_finish_next v i _ _ .zero)
  have htap : t.tap = s.tap := by rw [ht.1]
  have hft : f s = t := by
    obtain ⟨-, -, -, -, hstep, -⟩ := (s.ready_iff i).1 hr
    rw [hf, State.issue_ready _ hr hc rfl rfl, State.perform_plain]
    exact State.stepDone_other (htap ▸ hstep)
  refine ⟨t, ?_, ?_, fun r => ht.reg r, ?_, ht⟩
  · rw [hexec, State.act_withCore hs (hft.trans ht.1), hft]
  · rw [Done.long_finish_next]
    simp [v, u, State.issueLong]
  · obtain ⟨hpc, hnpc⟩ := Done.advanced_finish_next v i (s.level i) (s.secureCtx i)
    have himg : v.img i iwNpc = s.img i iwNpc := s.img_begun i false (by decide)
    rw [himg] at hpc hnpc
    exact ⟨hpc, hnpc⟩

/-- An instruction of the long integer group with X = 0 issues the operation on its operands (R133). -/
theorem issuesLong_long2 {c : Instr} {s : State} {slot : Fin 384} {fn n : Nat} {f : RFields} {op : Word → Word → Word}
    (hexec : exec c s = .next (s.act .cores fun s => s.long2 slot fn n f op)) (hs : s.calm = true) (hr : s.ready slot.val = true)
    (hx : f.x = 0) (hc : s.clear slot.val (s.places slot.val [f.rd, f.ra, f.rb]) = true) :
    IssuesLong c s slot.val n (longTo (s.place slot.val f.rd) (op (s.reg slot.val f.ra) (s.reg slot.val f.rb))) := by
  have hkeep := s.keeps_begun slot.val false .zero
  have hok : decide (f.x = 0) = true := decide_eq_true hx
  rw [← hkeep.place, ← hkeep.reg, ← hkeep.reg]
  refine issuesLong_of_ready (w := encR 0o42 fn f)
    (o := fun u => longTo (u.place slot.val f.rd) (op (u.reg slot.val f.ra) (u.reg slot.val f.rb))) hexec ?_ hs hr hc
  rw [← hok]
  rfl

/-! ## Quotients and remainders (R134) -/

theorem divS_zero (a : Word) : divS a 0 = BitVec.allOnes 36 := if_pos rfl
theorem divU_zero (a : Word) : divU a 0 = BitVec.allOnes 36 := if_pos rfl
theorem remS_zero (a : Word) : remS a 0 = a := if_pos rfl
theorem remU_zero (a : Word) : remU a 0 = a := if_pos rfl

/-- −2^35 ÷ −1 does not fit, and gives −2^35 (R134). -/
theorem divS_intMin_neg_one : divS (BitVec.intMin 36) (-1) = BitVec.intMin 36 := by decide

theorem remS_intMin_neg_one : remS (BitVec.intMin 36) (-1) = 0 := by decide

/-- Settles O13: each of the four instructions issues its quotient or remainder whatever its operands, so none faults; the values for a
divisor of 0 and for −2^35 ÷ −1 are those of `divS`, `divU`, `remS` and `remU`. -/
theorem divisionNeverFaults : Obligations.DivisionNeverFaults := by
  unfold Obligations.DivisionNeverFaults
  rintro s slot f a b r hs hr hx hc rfl rfl rfl
  have hdiv := issuesLong_long2 (c := .div slot f) (op := divS) rfl hs hr hx hc
  have hdivu := issuesLong_long2 (c := .divu slot f) (op := divU) rfl hs hr hx hc
  have hrem := issuesLong_long2 (c := .rem slot f) (op := remS) rfl hs hr hx hc
  have hremu := issuesLong_long2 (c := .remu slot f) (op := remU) rfl hs hr hx hc
  refine ⟨⟨_, _, _, _, hdiv, hdivu, hrem, hremu⟩, fun hb => ?_, fun ha hb => ?_⟩
  · rw [hb] at hdiv hdivu hrem hremu
    rw [divS_zero] at hdiv
    rw [divU_zero] at hdivu
    rw [remS_zero] at hrem
    rw [remU_zero] at hremu
    exact ⟨hdiv, hdivu, hrem, hremu⟩
  · rw [ha, hb] at hdiv hrem
    rw [divS_intMin_neg_one] at hdiv
    rw [remS_intMin_neg_one] at hrem
    exact ⟨hdiv, hrem⟩

end Sys2Proof.Machine
